-- ==== Sys2Proof/Word.lean ====
section
/-! DEFINITION. The words of the NRN-7200 manual (R10, R11) and the sparse tables the state is made of. -/

namespace Sys2Proof

abbrev Byte := BitVec 8
abbrev U16 := BitVec 16
abbrev U32 := BitVec 32
abbrev U64 := BitVec 64

/-- Sparse data by key, in one canonical form: keys strictly rising, and no entry equal to what an
unlisted key reads as.  The default belongs to the reader, so it is an argument of each operation. -/
abbrev Table (α : Type) := List (Nat × α)

end Sys2Proof
end

