-- ==== Sys2Proof/Syntax.lean ====
section
/-! DEFINITION. The commands of the block: one constructor for each row of spec/opcode_table.json.
Operands are what the row's sender supplies: the queue, function, tile or channel concerned, the value
written, and, for an event of the surroundings (a sensor, a raw sample, an upset, an outcome of a
self-test), what the surroundings did.  Queue numbers are global (R242), engine numbers logical (R15). -/

namespace Sys2Proof

/-- The two halves of the die (R16). -/
inductive Half where
  | west | east
  deriving DecidableEq, Repr

/-- Engine classes (Table 18-1, Table 1-1); control cores have their own row. -/
inductive EngineClass where
  | anneal | tensor | constraint
  deriving DecidableEq, Repr

/-- How a device memory word was upset before an access: a pattern over the 288 stored bits of R289. -/
abbrev Upset := BitVec 288

/-- One access on a port of a shared slice (R301): byte offset in the slice, and what it does within that word; a read comes
with the upset of the stored word that it meets. -/
inductive PortAccess where
  | read (off len : Nat) (upset : Upset)
  | write (off : Nat) (bytes : List Byte)
  deriving DecidableEq, Repr

/-- The transports that carry SPDM (R406): a function's DOE mailbox, or MCTP. -/
inductive Transport where
  | doe (fn : Nat)
  | mctp
  deriving DecidableEq, Repr

/-- One step of a firmware update (R377): the three writes of the inactive slot in their order. -/
inductive UpdateStep where
  | begin
  | image (digest : BitVec 256) (svn : Nat)
  | signature (valid : Bool)
  | sequence (n : Nat)
  deriving DecidableEq, Repr

/-- What a configuration request asks for (R340, R348, R349). -/
inductive ConfigAccess where
  | read (off : Nat)
  | write (off : Nat) (value : U32)
  deriving DecidableEq, Repr

/-- An access to a function's BAR4, whose content is the MSI-X table and the pending bits (Table 14-4): the unmasking of one
vector, or a 4-byte read or write at an offset. -/
inductive MsixAccess where
  | unmask (vector : Nat)
  | read (off : Nat)
  | write (off : Nat) (value : U32)
  deriving DecidableEq, Repr

/-- The timing-only link events that are counted (R356). -/
inductive LinkEvent where
  | replay | retrain | fecCorrected
  deriving DecidableEq, Repr

/-- What caused a warm reset on the link (R357). -/
inductive HotCause where
  | dlDown | hotReset | linkDisable
  deriving DecidableEq, Repr

/-- Who reads the peat log: a function through its PL_RSEL, or the management controller, which names the layer (R429). -/
inductive LogReader where
  | function (fn : Nat)
  | management (layer : Nat)
  deriving DecidableEq, Repr

/-- What can be done for a persistent-faulty row (R296, R297): soft repair, none at run time because the package supports
none, or none because the bank has no spare row left. -/
inductive RowFix where
  | soft | hardOnly | noSpare
  deriving DecidableEq, Repr

/-- The low-power states of the link (R339); L2 is entered in D3hot alone. -/
inductive L1Sub where
  | l1 | l11 | l12 | l2
  deriving DecidableEq, Repr

/-- The offers that another member of a run group sends in the exchange that closes an epoch, or at the end of a problem that runs none
(R113, R217): its position, and energy, bits and decision count of each state. -/
structure RemoteOffer where
  sender : Nat
  states : List (Int × Nat × Nat)
  deriving DecidableEq, Repr

/-- A problem lane that comes to a decision, and how many words of the tile's memories that it reads SK256 corrects (R55, Table 3-6). -/
structure LaneTurn where
  lane : Nat
  corrected : Nat
  deriving DecidableEq, Repr

/-- A queue whose chain comes to its next descriptor, and the tensor tiles whose local memory SK256 corrects as it is read, one entry a
corrected word (R158). -/
structure ChainTurn where
  q : Nat
  corrected : List Nat
  deriving DecidableEq, Repr

/-- A BAR0 read (R343): its offset, and whether it takes 8 bytes or 4. -/
structure BarRead where
  offset : Nat
  wide : Bool
  deriving DecidableEq, Repr

/-- What a BAR0 write carries (R343): 4 bytes, or 8 with their high half. -/
structure BarData where
  low : U32
  high : Option U32
  deriving DecidableEq, Repr

/-- The commands of the block, in the order of spec/opcode_table.json. -/
inductive Instr where
  | nop (q : Nat)
  | bindPlan (q : Nat)
  | releasePlan (q : Nat)
  | run (q : Nat)
  | execBuffer (q : Nat)
  | patch (q : Nat)
  | copy (q : Nat)
  | fill (q : Nat)
  | create (q : Nat)
  | makeResident (q : Nat)
  | park (q : Nat)
  | free (q : Nat)
  | readState (q : Nat)
  | writeState (q : Nat)
  | query (q : Nat)
  | randomFill (q : Nat)
  | timestamp (q : Nat)
  | syncClear (q : Nat)
  | doorbellWrite (fn r : Nat) (tail head : Option U32) (host : List (Nat × Byte))
  | commandStart (fe : Nat)
  | waitSatisfied (q : Nat)
  | completionWrite (q : Nat)
  | cqRoom (q : Nat)
  | resourceGrant (q : Nat)
  | prefetch (q : Nat)
  | waitTimeout (q : Nat)
  | queueTimeout (q : Nat)
  | enable (fn : Nat)
  | disable (fn : Nat)
  | reset (fn : Nat)
  | resume (fn : Nat)
  | feFnQueuesWrite (fn : Nat) (value : U32)
  | feSyncValueHiWrite (fn : Nat) (value : U32)
  | clearError (fn : Nat)
  | verifyReadFail (q : Nat) (addr : U64)
  | hostReadFail (q : Nat) (addr : U64)
  | sqFetchRetry (q : Nat) (ok : Bool)
  | build (q : Nat)
  | load (q : Nat)
  | anneal (q : Nat)
  | rescore (q : Nat)
  | select (q : Nat)
  | exportRecord (q : Nat)
  | decision (tile : Nat) (turn : LaneTurn)
  | starfieldOffer (q problem : Nat) (remote : Option RemoteOffer)
  | maskDelivery (tile lane : Nat) (second corrected : Bool)
  | constraintTimeout (tile lane : Nat)
  | epochClose (q problem : Nat)
  | gemm (turn : ChainTurn)
  | gemvSpx (turn : ChainTurn)
  | gather (turn : ChainTurn)
  | scatter (turn : ChainTurn)
  | segmentSum (turn : ChainTurn)
  | elementwise (turn : ChainTurn)
  | reduce (turn : ChainTurn)
  | softmax (turn : ChainTurn)
  | route (turn : ChainTurn)
  | exitChain (turn : ChainTurn)
  | ttClear (fn tile : Nat) (value : U32)
  | lowWordRead (fn : Nat) (access : BarRead)
  | engineFault (cls : EngineClass) (logical cause index lane : Nat)
  | replay (tile lane : Nat)
  | foldSwitch (cls : EngineClass) (logical : Nat)
  | coreFailover (core : Nat)
  | join (q : Nat)
  | frameWrite (requester : U16) (frame offset : Nat) (bytes : List Byte)
  | countedBarrier (frame sender phase bank : Nat)
  | resend (frame sender phase : Nat) (epoch : U64)
  | credit (frame sender : Nat) (epoch : U64)
  | barrierDeadlineMiss (frame late : Nat) (phase : Nat)
  | loose (frame sender : Nat) (epoch : U64)
  | endRun (frame : Nat) (status : Byte)
  | abort (frame sender : Nat) (status : Byte)
  | seedDraw (q : Nat)
  | rngBlockComplete (raw : BitVec 2048)
  | rngTestFail (apt : Bool) (samples : Nat)
  | rngRestartDone
  | fetch (fn : Nat)
  | rnData15Read (fn : Nat)
  | memRead (addr : Nat) (upset : Upset)
  | memWrite (addr : Nat) (bytes : List Byte)
  | scrub (channel : Nat) (upset : Upset)
  | rowRepair (addr : Nat) (way : RowFix)
  | mcInjectWrite (fn channel : Nat) (value : U32)
  | mcSealEnable (fn : Nat)
  | mcSealDisable (fn : Nat)
  | rekey (fn : Nat)
  | sealRewriteDone (target : Nat)
  | sliceAccess (slice : Nat) (a b : Option PortAccess)
  | marchWindow (slice : Nat)
  | marchPreempt (slice : Nat) (access : PortAccess) (portB : Bool)
  | ppRequest (fn : Nat) (value : U32)
  | ppRampDone (half : Half)
  | beatWindow (half : Half) (mean : U16) (temp : Byte)
  | powerSample (watts mainMv auxMv westMv eastMv : Nat)
  | rhoCorrection (target : Nat) (estimator : Bool)
  | thermalPacingStep
  | glPowerLimitWrite (fn : Nat) (value : U32)
  | parkRequest (fn : Nat) (half : Half) (bridgeBusy : Bool)
  | parkDone
  | unpark (fn : Nat)
  | d3hotEntry
  | d3hotExit (firmwareOk : Bool)
  | timeComparatorMatch (n : Nat)
  | analogComparator (n : Nat)
  | twLwClear (fn : Nat)
  | timerTrim
  | twilightTargetAccess (code : Nat) (write : Option U32)
  | bar0BadAccess (fn offset size : Nat) (isRead : Bool)
  | bar2Read (fn offset len : Nat) (requester : U16)
  | bar2Write (fn offset : Nat) (bytes : List Byte) (poisoned : Bool) (requester : U16)
  | configRequest (fn : Nat) (access : ConfigAccess)
  | resizeBar (fn : Nat) (log2 : Nat)
  | msixUnmask (fn : Nat) (access : MsixAccess)
  | atsInvalidate (fn : Nat) (page : U64)
  | linkUp (speed width partner : Nat) (flit : Bool)
  | linkReplay (event : LinkEvent)
  | l1Exit
  | hotReset (cause : HotCause)
  | flr (fn : Nat)
  | perstAssert
  | perstDeassert
  | boot
  | identity (helperOk testsOk certOk : Bool) (keyId : BitVec 256)
  | selftest (badAnneal badTensor badConstraint badCores : List Nat) (infraOk : Bool) (badWords : List (Nat × Nat))
  | training (failed : List Nat)
  | calibration (ok : Bool)
  | meminit (stuck : List Nat)
  | rngTest (katOk : Bool) (raw : BitVec 2048)
  | ready
  | mainLost
  | mainPowerReturn
  | auxPowerOn (straps : Nat)
  | auxLost
  | thermtrip
  | firmwareUpdate (step : UpdateStep)
  | seSelftest (fn : Nat)
  | seSelftestDone (failTest : Nat)
  | commit (fn : Nat) (management : Bool)
  | generate (fn : Nat)
  | uploadKeyReady (fn : Nat) (pairOk : Bool)
  | discard (fn : Nat)
  | go (fn : Nat)
  | unwrapDone (fn : Nat)
  | present (fn : Nat) (mctp : Option (List Byte))
  | getVersion (t : Transport)
  | getDigests (t : Transport)
  | getCertificate (t : Transport) (slot offset len : Nat)
  | challenge (t : Transport) (nonce : BitVec 256)
  | getMeasurements (t : Transport) (index : Nat) (nonce : BitVec 256)
  | keyExchange (t : Transport)
  | finish (t : Transport) (session : Nat)
  | heartbeat (t : Transport) (session : Nat)
  | endSession (t : Transport) (session : Nat)
  | ideKm (t : Transport) (session stream : Nat) (key : BitVec 256)
  | pldmEffecterSet (id field : Nat) (value : Nat)
  | pldmSensorRead (id : Nat)
  | plClearSurface (fn : Nat)
  | plClearDeep (fn : Nat)
  | plRselSeqWrite (reader : LogReader) (seq : U32) (sramBad : Bool)
  | surfaceFlush (sramBad : Bool)
  | stormSummary (code : Nat)
  | lifetimeFlush
  | constellationWrite (fn n offset : Nat) (value : U32)
  | constellationRead (fn n offset : Nat)
  | glIrqCtrlWrite (fn : Nat) (value : U32)
  | registerWrite (fn offset : Nat) (value : BarData)
  | unparkDone
  | marchWindowDone (slice : Nat) (faulty : List Nat)
  | rowRepairDone (channel : Nat)
  | plLatchDone (reader : LogReader)
  | lifetimeMinute
  | analogLevelClear (n : Nat)
  | l1Entry (sub : L1Sub)
  | l0pWidthChange (width : Nat)
  | unlockTokenChecked
  deriving DecidableEq, Repr

end Sys2Proof
end

