-- ==== Sys2Proof/Decode.lean ====
section
/-! DEFINITION. The decoder of table words.  No row of spec/opcode_table.json gives bits: the rows are commands and events,
not words, so no word spells one.  The 64-byte commands of chapter 11 are read by the front end from memory
(Machine/Operands.lean), which is part of what COMMAND_START does. -/

namespace Sys2Proof

/-- The command that a word spells by the table's bits: none, since no row gives bits. -/
def decodeTableWord (_nbits _w : Nat) : Option Instr := none

end Sys2Proof
end

