-- ==== Sys2Proof/Config.lean ====
section
/-! DEFINITION. What an implementation fixes, and the values the manual leaves open (free values: no body, so
nothing can be proved of them).  Cryptographic primitives are named by standard in Table 17-1 and defined
nowhere in the manual; they are uninterpreted here. -/

namespace Sys2Proof.Config

/-- A value the manual calls 'not fixed' (R6), drawn fresh: the argument is State.draws, which the reader advances. -/
opaque freeValue : Nat → BitVec 64

-- DESIGN CHOICE, safe: notes/assumptions/11.md.
/-- SHAKE256 with 256-bit output (Table 17-1). -/
opaque shake256 : List Byte → BitVec 256

/-- ML-DSA-65 verification (FIPS 204, Table 17-1): KEY_ID of the public key, message, signature. -/
opaque mldsaVerify : BitVec 256 → List Byte → List Byte → Bool

/-- ML-DSA-65 signature by the identity key (R397, R406): KEY_ID of the key, transcript. -/
opaque mldsaSign : BitVec 256 → List Byte → List Byte

/-- The ML-KEM-768 encapsulation key of the pair made from one DRBG seed (R408), 1,184 bytes. -/
opaque mlkemEncapsKey : BitVec 256 → List Byte

/-- ML-KEM-768 decapsulation under the pair of a DRBG seed (R409). -/
opaque mlkemDecaps : BitVec 256 → List Byte → List Byte

/-- AES-256-GCM decryption (R409): key, nonce, additional data, ciphertext, tag; none when the tag fails. -/
opaque gcmDecrypt : BitVec 256 → List Byte → List Byte → List Byte → List Byte → Option (List Byte)

/-- CTR_DRBG output number n under a seed block (Table 17-1). -/
opaque drbg : BitVec 512 → Nat → BitVec 256

-- DESIGN CHOICE, safe: notes/assumptions/12.md.
/-- The body of an SPDM response (R406), named by request code; its octets are those of SPDM 1.4 and of the
certificate, which the manual does not give. -/
opaque spdmBody : Nat → List Byte → List Byte

-- DESIGN CHOICE, safe: notes/assumptions/13.md.
/-- AES-256-XTS over one 32-byte data unit (R298): number of the key, device address >> 5, which is the tweak, and the data. -/
opaque xtsEncrypt : Nat → Nat → BitVec 256 → BitVec 256
opaque xtsDecrypt : Nat → Nat → BitVec 256 → BitVec 256

-- DESIGN CHOICE, unsafe: notes/assumptions/164.md.
/-- The 64 bytes of a starfield entry (R112): energy, hash, FIRST_SEEN and slot number of a kept state; their layout is not given. -/
opaque starEntry : Int → BitVec 64 → Nat → Nat → BitVec 512

-- PRESUMED, unsafe: notes/assumptions/17.md.
/-- The version field of an extended capability, by its ID, where Table 14-6 gives none. -/
opaque capVersion : Nat → BitVec 4

-- DESIGN CHOICE, safe: notes/assumptions/14.md.
/-- The number that a peat log payload gives a cause which Table 18-5 names by a u8 and numbers nowhere: 0 and 1 the tests of
0x0601, 2 to 4 the cases of 0x0304, 5 to 7 the reasons of 0x0104, 8 and 9 soft and hard of 0x0103. -/
opaque logCode : Nat → BitVec 8

/-- Own values of the device (R443, R448): minor layout revision by block type, die stepping, serial, firmware build. -/
opaque minorRevision : Nat → BitVec 8
opaque stepping : BitVec 8
opaque serial : BitVec 64
opaque firmwareBuild : BitVec 32

/-- What a JOIN record says (R236). -/
structure JoinInfo where
  tag : BitVec 64
  digest : BitVec 256
  size : Nat
  position : Nat
  seedMode : Nat
  proposal : Nat
  seed : BitVec 64
  deriving DecidableEq, Repr, Inhabited

/-- The octets of a JOIN record (R236), whose layout the manual does not give: its bytes as a member writes them, and what a
reader takes from bytes. -/
opaque joinBytes : JoinInfo → List Byte
opaque joinRead : List Byte → JoinInfo

/-- What the body of a debug unlock token says (R405): serial, nonce, level, and whether its reserved bytes are zero. -/
structure TokenInfo where
  serial : BitVec 64
  nonce : BitVec 256
  level : Nat
  zeros : Bool
  deriving DecidableEq, Repr, Inhabited

/-- The fields of a 64-byte token body, whose offsets the manual does not give. -/
opaque tokenRead : List Byte → TokenInfo

/-- Measurement digests of what the manual does not hold as bytes: boot ROM (1), manifest (2), configuration block (4)
of Table 17-4. -/
opaque measured : Nat → BitVec 256

end Sys2Proof.Config
end

