-- ==== Sys2Proof/Machine/State.lean ====
section
/-! DEFINITION. The state of the device: every register, buffer, counter, mode and pin the manual gives it, as plain
data, with the queue of waiting commands.  Registers that only hold a value or a count live in `regs` and `fnRegs`, keyed
by their BAR0 offset, and read as the Reset column of their table where unlisted (Machine/RegMap.lean). -/

namespace Sys2Proof.Machine

/-- The ordering number (R1, GL_PART).  It fixes the fit: 864 GiB or 432 GiB. -/
inductive Part where
  | c7200 | m7200 | c7206
  deriving DecidableEq, Repr

/-- Power states of Table 13-4; the East half's parking is GL_PARK_STATUS. -/
inductive Power where
  | d0 | d3hot | off
  deriving DecidableEq, Repr

/-! ### Queues and commands (chapter 11) -/

/-- FE_Q_STATUS.STATE (Table 11-11). -/
inductive QState where
  | disabled | running | stopped
  deriving DecidableEq, Repr

/-- The resources a started command may wait for (R251): a bound plan in use (R196), a held context (R278, R279), a
frame of an exchange window (R223), tiles or a frame (R252, R280), random blocks (R388), the enclave's self-test (R403). -/
inductive Hold where
  | plan | context | exchangeFrame | tiles | random | selftest
  deriving DecidableEq, Repr

/-- Status, DETAIL and RESULT of a completion record (Table 11-7). -/
structure Outcome3 where
  status : Byte := 0
  detail : U32 := 0
  result : U64 := 0
  deriving DecidableEq, Repr

/-- Where a command stands: read and waiting on its sync object, started, or started and held. -/
inductive Phase where
  | waiting | started | held (h : Hold)
  deriving DecidableEq, Repr

/-- A relocated span (R190, R258): where a handle leads, and what it grants. -/
structure Span where
  host : Bool := false
  addr : Nat := 0
  len : Nat := 0
  read : Bool := false
  write : Bool := false
  deriving DecidableEq, Repr

/-- A command the front end has read: its 64 bytes (after the replacement of R260 once started), the body words that came
from an indirect block (IND_MASK), the handle fields relocated at its start by byte offset, the front-end microsecond at
which its present timer began, and the bytes a RANDOM_FILL has written. -/
structure Cmd where
  bytes : List Byte
  indirect : Nat := 0
  spans : List (Nat × Span) := []
  phase : Phase := .waiting
  since : Nat := 0
  progress : Nat := 0
  /-- old forms of handle table entries that it may still be relocated by, by address (R259) -/
  stale : List (Nat × List Byte) := []
  deriving DecidableEq, Repr

/-- A handle table entry as it stood before a host write, and the SQ_TAIL of each queue of its function at that write: commands before
them may be relocated by it (R259). -/
structure StaleEntry where
  addr : Nat
  bytes : List Byte
  tails : List (Nat × U32)
  deriving DecidableEq, Repr

/-- A running command buffer (R263): device address of the first inner command, COUNT, the index of the next inner
command and the number that started. -/
structure BufferRun where
  addr : Nat
  count : Nat
  next : Nat := 0
  started : Nat := 0
  deriving DecidableEq, Repr

/-- A completion record on its way to the ring: the fields of Table 11-7 that do not depend on the ring, the signal of
R266 if any, and the flags that decide what is written and raised (R254). -/
structure OutRec where
  tag : U32
  out : Outcome3
  inner : Bool := false
  irq : Bool := false
  quiet : Bool := false
  signal : Option (Nat × U64) := none
  signalled : Bool := false
  time : U64 := 0
  /-- the command wrote a destination in host memory whose verification read is still due (R274): the DETAIL of
  HOST_WRITE_FAILED that its failure carries, 0 a result record, 2 a command destination; and the destination -/
  hostDest : Option (Nat × Span) := none
  /-- what the failure of that read puts back: function, device address and bytes (R279) -/
  undo : List (Nat × Nat × List Byte) := []
  deriving DecidableEq, Repr

/-- One queue (R242-R249, Table 11-11). -/
structure Queue where
  sqBase : U64 := 0
  sqDev : Bool := false
  cqBase : U64 := 0
  cqDev : Bool := false
  log2Size : Nat := 6
  weight : Nat := 0
  cplVector : Nat := 0
  errVector : Nat := 0
  timeout : U32 := 0
  waitTimeout : U32 := 0
  state : QState := .disabled
  guilty : Bool := false
  cause : Byte := 0
  undelivered : List Byte := []
  badDoorbell : Nat := 0
  sqHead : U32 := 0
  sqTail : U32 := 0
  cqHead : U32 := 0
  cqTail : U32 := 0
  /-- the ring command in progress (R480) -/
  cur : Option Cmd := none
  /-- the command buffer that an EXEC_BUFFER in progress runs, and its inner command in progress -/
  buffer : Option BufferRun := none
  innerCur : Option Cmd := none
  /-- completion records made and not yet written, in order; the first is held when the ring is full (R249) -/
  out : List OutRec := []
  recordHeld : Bool := false
  /-- microsecond since which it is held, and at which the present next command became next (R267) -/
  heldSince : Nat := 0
  nextSince : Nat := 0
  /-- ring entries fetched ahead (R261): counter value and bytes; and the command buffer fetched ahead -/
  fetched : List (U32 × List Byte) := []
  fetchedBuffer : List (Nat × List Byte) := []
  /-- the fetch of the next submission entry failed and is retried every 1 ms (R355) -/
  fetchFailed : Bool := false
  deriving DecidableEq, Repr

/-- Arbitration of one front end (R251): the queue whose turn it is and the commands it has taken in the turn. -/
structure FrontEnd where
  turn : Nat := 0
  taken : Nat := 0
  deriving DecidableEq, Repr

/-- What the physical function's driver sets for a function (R242, R243, page 21). -/
structure FnCfg where
  qBase : Nat := 0
  qCount : Nat := 0
  memBase : U64 := 0
  memLimit : U64 := 0
  htBase : U64 := 0
  htSize : Nat := 0
  syncBase : Nat := 0
  syncCount : Nat := 0
  ctxBase : Nat := 0
  ctxCount : Nat := 0
  planLimit : Nat := 0
  deriving DecidableEq, Repr

/-- A sync object (R264). -/
structure SyncObj where
  value : U64 := 0
  error : Bool := false
  deriving DecidableEq, Repr

/-- STATE of a context descriptor (Table 11-9). -/
inductive CtxState where
  | free | parked | resident | running | faulted
  deriving DecidableEq, Repr

/-- A context descriptor (Table 11-9); keyed by global context number. -/
structure Ctx where
  state : CtxState := .free
  bsi16 : Bool := false
  width : Nat := 0
  fn : Nat := 0
  n : Nat := 0
  np : Nat := 0
  eMax : Int := 0
  eH : Int := 0
  fault : Byte := 0
  tile : Nat := 0xFFFF
  lane : Nat := 0
  frame : Nat := 0
  imageAddr : Nat := 0
  imageHost : Bool := false
  imageBytes : Nat := 0
  csetAddr : Nat := 0
  csetHost : Bool := false
  csetBytes : Nat := 0
  stateAddr : Nat := 0
  lastRun : U64 := 0
  runs : Nat := 0
  /-- linear records and terms of its constraint set, for the capacity of R116 -/
  records : Nat := 0
  terms : Nat := 0
  deriving DecidableEq, Repr

/-- A bound plan (R192, R196, R256), keyed by its slot. -/
structure Plan where
  fn : Nat := 0
  gen : Nat := 0
  base : Nat := 0
  imageBytes : Nat := 0
  args : List U32 := []
  sum : U64 := 0
  digest : BitVec 256 := 0
  /-- the queue whose run of the plan is in progress -/
  running : Option Nat := none
  /-- a RELEASE_PLAN waits for that run (R196) -/
  released : Bool := false
  deriving DecidableEq, Repr

/-! ### Annealing (chapters 3 to 6) -/

/-- One coefficient store of a problem lane (R55, R56): mantissas column by column, and a shift code per block. -/
structure Store where
  mant : List (List Int) := []
  shift : List (List Nat) := []
  deriving DecidableEq, Repr

/-- A constraint group handled in the tile (R67): its members in ascending index, K (1 for one-hot), the rover pointer. -/
structure Group where
  members : List Nat
  k : Nat
  rover : Nat := 0
  /-- the group row cache G of its members (R71): mantissa and shift code of the coupling to the on member or rover -/
  cache : List (Int × Nat) := []
  deriving DecidableEq, Repr

/-- A linear record held by the constraint engine (R117, R118): LE form or EQ, hard or soft with its field weight w_r,
its bound, terms (lane variable, coefficient), TAG, number in the constraint set, and the sum S_r kept by R126. -/
structure Record where
  eq : Bool
  soft : Bool
  bound : Int
  weight : Int := 0
  terms : List (Nat × Int)
  tag : U32
  number : Nat
  sum : Int := 0
  deriving DecidableEq, Repr

/-- What a checkpoint holds of a problem lane (R103, R414). -/
structure LaneSave where
  x : List Bool := []
  field : List Int := []
  energy : Int := 0
  gens : List U64 := []
  wisp : Nat := 0
  segment : Nat := 0
  d : Nat := 0
  tx : U64 := 0
  te : Nat := 0
  rovers : List Nat := []
  decisions : Nat := 0
  moves : Nat := 0
  idle : Nat := 0
  waits : Nat := 0
  updates : Nat := 0
  masked : Nat := 0
  penalty : Int := 0
  deriving DecidableEq, Repr

/-- A problem lane of an anneal tile (R55, R59, R60) with the part of its constraint engine that serves it.  It keeps the
values of its last run until the next starts there (R85, R133). -/
structure Lane where
  running : Bool := false
  finished : Bool := false
  /-- stopped at the end of its epoch (R142) -/
  stopped : Bool := false
  /-- waits for MASK and PEN_k after a touching move (R79) -/
  waiting : Bool := false
  /-- restored from a checkpoint and replaying (R415) -/
  replaying : Bool := false
  queue : Nat := 0
  problem : Nat := 0
  /-- problem tile index t of Table 3-3 and first problem variable of the lane's range -/
  t : Nat := 0
  start : Nat := 0
  np : Nat := 0
  bsi16 : Bool := false
  frame : Nat := 0
  eMax : Int := 0
  eH : Int := 0
  context : Option Nat := none
  store : Store := {}
  h : List Int := []
  field : List Int := []
  x : List Bool := []
  frozen : List Bool := []
  touch : List Bool := []
  mask : List Bool := []
  pen : List Int := []
  groups : List Group := []
  records : List Record := []
  gens : List U64 := []
  energy : Int := 0
  hash : U64 := 0
  /-- schedule position (R90, R92): segment, d, and the register T_X -/
  segment : Nat := 0
  d : Nat := 0
  tx : U64 := 0
  te : Nat := 0
  /-- schedule temperature of the last decision, before the ladder (R94, R101) -/
  base : Nat := 0
  wisp : Nat := 0
  /-- decisions made in the present epoch -/
  epochDec : Nat := 0
  repaired : Nat := 0
  decisions : Nat := 0
  moves : Nat := 0
  idle : Nat := 0
  waits : Nat := 0
  waitBeats : Nat := 0
  /-- the engine's other tile passed a touching move too while this one waits (R131) -/
  contended : Bool := false
  /-- variables changed by the move awaiting delivery -/
  moved : List Nat := []
  /-- constraint engine view (Table 5-10) -/
  penExp : Int := 0
  rounded : Nat := 0
  hardAtStart : Nat := 0
  firstTag : U32 := 0
  penalty : Int := 0
  updates : Nat := 0
  masked : Nat := 0
  waitMax : Nat := 0
  /-- replays of one epoch in this run (R420) -/
  replays : Nat := 0
  /-- decision count at which a replay has caught up -/
  replayTo : Nat := 0
  /-- the run-start checkpoint (R414, R416) and the latest complete one -/
  first : LaneSave := {}
  save : LaneSave := {}
  deriving DecidableEq, Repr

/-- A frame of a coefficient store that a RESIDENT context occupies (R62); keyed by tile, lane and frame. -/
structure Frame where
  ctx : Nat
  store : Store
  /-- device time at which the context last ran (R280 step 3) -/
  lastRun : U64 := 0
  deriving DecidableEq, Repr

/-- A kept or offered state (R107, R111, Table 8-10). -/
structure Star where
  energy : Int
  bits : Nat
  firstSeen : Nat
  hash : U64
  score : U32 := 0x7FC00000#32
  deriving DecidableEq, Repr

/-- The header of Table 2-3. -/
structure ImageHdr where
  n : Nat
  np : Nat
  format : Nat
  domain : Nat
  eMax : Int
  eH : Int
  cQ : Int
  qerr : Nat
  checksum : Nat
  reserved : Nat
  deriving DecidableEq, Repr

/-- What the tiles and the front end hold of a problem's image once it is loaded (R139, R150): header, entry count of a sparse image, linear
terms in field units, and the coefficient stores of this member's tiles by problem tile index. -/
structure Loaded where
  hd : ImageHdr
  entries : Nat := 0
  h : List Int := []
  stores : List (Nat × Store) := []
  deriving DecidableEq, Repr

/-- A segment of a schedule (Table 4-2). -/
structure Segment where
  kind : Nat
  halve : Bool
  length : Nat
  tStart : Nat
  tParam : Nat
  wStep : Nat
  wMax : Nat
  deriving DecidableEq, Repr

/-- One entry of a range table (R136). -/
structure Range where
  start : Nat
  count : Nat
  pos : Nat := 0
  deriving DecidableEq, Repr

/-- One problem of a run: the image it uses (Table 2-3), its schedule, partition, starfield and results. -/
structure Prob where
  index : Nat
  order : Nat := 0
  kReq : Nat := 1
  n : Nat := 0
  np : Nat := 0
  bsi16 : Bool := false
  sparse : Bool := false
  domain : Nat := 0
  eMax : Int := 0
  eH : Int := 0
  cQ : Int := 0
  qerr : U64 := 0
  image : Span := {}
  /-- the spilled part of the image, R155 -/
  spill : Span := {}
  cset : Span := {}
  context : Option Nat := none
  /-- the image header as the run-start checks found it (R477) -/
  header : List Byte := []
  /-- what LOAD, or for a context's image the start of ANNEAL, has taken of the image -/
  loaded : Option Loaded := none
  /-- the context's number within its function's block, which seeds the lanes (R65) and is reported (Table 8-9) -/
  ctxArg : Nat := 0
  /-- the coefficients and constraint set are the context's (LOAD_MODE CONTEXT) -/
  fromContext : Bool := false
  initMode : Nat := 0
  init : Span := {}
  freeze : Span := {}
  freezeCount : Nat := 0
  feature : Span := {}
  features : Nat := 0
  rsIn : Span := {}
  rsEnergy : Span := {}
  rsScore : Span := {}
  starSpan : Span := {}
  fieldSpan : Span := {}
  segments : List Segment := []
  replicas : Nat := 1
  exchangeEvery : Nat := 0
  cap : Nat := 1
  ladder : List Nat := [256]
  tiles : Nat := 1
  epochMode : Nat := 0
  epochLen : Nat := 0
  sweep : Nat := 1
  /-- rotation sets (one set when the problem is resident), each REPLICAS x P ranges -/
  sets : List (List Range) := []
  rotates : Bool := false
  setNow : Nat := 0
  visit : Nat := 0
  /-- the lanes the run holds here: lane keys in ascending tile index -/
  lanes : List Nat := []
  /-- runs in epochs (R140) -/
  epochs : Bool := false
  epochCount : Nat := 0
  rounds : Nat := 0
  exGen : U64 := 0
  /-- replica at each ladder position (R101) -/
  position : List Nat := [0]
  ePrev : List Int := []
  /-- full state bits of every replica (state vector of R153 for a rotating problem) -/
  bits : List Nat := []
  /-- full fields of every replica, the field vector of R153 -/
  fields : List (List Int) := []
  stars : List Star := []
  /-- slot of the starfield buffer that holds each kept state, by its bits (R112) -/
  slots : Table Nat := []
  offers : List Star := []
  /-- in a run group: batches of offers taken from each member, and this member has sent its last one (R113) -/
  batches : Table Nat := []
  sentAll : Bool := false
  /-- the starfield as it stood at the latest checkpoint (R103) -/
  starsSave : List Star := []
  finished : Bool := false
  /-- restarts after an energy mismatch (R416, R420) -/
  restarts : Nat := 0
  hardAtStart : Nat := 0
  decisionsDone : Nat := 0
  movesDone : Nat := 0
  folded : Bool := false
  loose : Bool := false
  selected : List Star := []
  deriving DecidableEq, Repr

/-- A stage entry of a plan (Table 8-3). -/
structure Stage where
  kind : Nat
  mask : Nat
  chainOff : Nat
  chainLen : Nat
  deriving DecidableEq, Repr

/-- A tensor chain in progress (R169, R171): device address of its descriptors, their number, the next one, and what
the chain itself has written to local memory, none where it has written nothing (R158). -/
structure Chain where
  addr : Nat
  len : Nat
  next : Nat := 0
  localMem : Table (Option Byte) := []
  deriving DecidableEq, Repr

/-- A member of a run group as the group table gives it (Table 10-1), and what has been received from it. -/
structure Member where
  frameAddr : U64
  requester : U16
  joined : Bool := false
  joinRecord : List Byte := []
  credit : List U64 := []
  /-- DELTA phases and ENERGY records that have been honoured and not yet used, oldest first: epoch and bytes -/
  deltas : List (U64 × List Byte) := []
  energies : List (U64 × List Byte) := []
  /-- epochs for which it has been given credit (R232) -/
  given : List U64 := []
  foldedTo : U64 := 0
  /-- its END barrier has been honoured -/
  ended : Bool := false
  /-- microsecond since which this member is ready to honour its barriers (R237) -/
  since : Nat := 0
  deriving DecidableEq, Repr

/-- A phase that this member has written: its barrier and data stay at hand for a RESEND (R231). -/
structure SentPhase where
  phase : Nat
  bank : Nat
  epoch : U64
  /-- data writes: offset in the slot, and bytes -/
  parts : List (Nat × List Byte)
  deriving DecidableEq, Repr

/-- The group part of a run (R221-R241). -/
structure GroupRun where
  size : Nat
  position : Nat
  frame : Nat
  test : Bool
  tag : U64
  joinDeadline : Nat
  recoveryDeadline : Nat
  members : List Member
  joinSent : Bool := false
  joinDone : Bool := false
  proposal : Nat := 0
  /-- the run fell to loose exchange at this epoch (R238) -/
  looseFrom : Option U64 := none
  recovery : Bool := false
  /-- exchange closes completed, and the latest whose DELTA and ENERGY phases this member has sent -/
  closes : U64 := 0
  deltaSent : U64 := 0
  energySent : U64 := 0
  /-- this member's last ENERGY record had STATUS REPLAY (R234) -/
  replaySent : Bool := false
  /-- what each phase and bank last sent -/
  sent : List SentPhase := []
  /-- counted barriers that have arrived and are not honoured: sender, bank, 32 bytes (R230) -/
  barriers : List (Nat × Nat × List Byte) := []
  /-- slots into whose control area another member than the slot's has written a JOIN record (R236) -/
  claimed : List Nat := []
  deriving DecidableEq, Repr

/-- A run in progress (R195, R197), keyed by the queue that runs it. -/
structure Run where
  slot : Nat
  stages : List Stage
  /-- number of stages that have ended -/
  done : Nat := 0
  /-- the present stage has begun (BUILD and RESCORE run a chain; ANNEAL runs decisions) -/
  entered : Bool := false
  spans : List Span := []
  seed : Option U64 := none
  seedMode : Nat := 0
  problems : List Prob := []
  contexts : List Nat := []
  chain : Option Chain := none
  group : Option GroupRun := none
  startTime : U64 := 0
  endTime : U64 := 0
  result : Span := {}
  truncated : Bool := false
  kLimit : Nat := 0
  folded : Bool := false
  loose : Bool := false
  deriving DecidableEq, Repr

/-! ### Engines and their mapping (chapter 18) -/

/-- Which physical instance serves a logical one, and its fold (Table 19-2, MAP). -/
structure EngineMap where
  phys : Nat
  folded : Bool := false
  partner : Nat := 0
  guest : Bool := false
  /-- of a folded pair of tiles or engines: this logical instance runs now (R422) -/
  turn : Bool := true
  deriving DecidableEq, Repr

/-! ### Memory (chapter 12) -/

/-- What a word of device memory holds beside its data (R291): the metadata byte, and which sealing key it was written under
when its VERSION is not 0. -/
structure Tag where
  md : Byte := 0
  key : Nat := 0
  deriving DecidableEq, Repr

/-- Device addresses from lo up to hi, whose words have been rewritten under one tag. -/
structure TagRange where
  lo : Nat
  hi : Nat
  tag : Tag
  deriving DecidableEq, Repr

/-- The march test of a shared slice (R305). -/
structure March where
  testing : Bool := false
  window : Nat := 0
  /-- the window tested next -/
  next : Nat := 0
  deriving DecidableEq, Repr

/-- Sealing of a function's partition (R298, R299): MC_SEAL_CTRL.ENABLE, current and previous key generation with the keys
they name, and the rewrite in progress. -/
structure Seal where
  enabled : Bool := false
  version : Nat := 0
  previous : Nat := 0
  key : Nat := 0
  prevKey : Nat := 0
  rekeyBusy : Bool := false
  zeroing : Bool := false
  /-- the rewrite follows a function level reset (R375) -/
  byFlr : Bool := false
  deriving DecidableEq, Repr

/-! ### Log and lifetime (chapter 18) -/

/-- A peat log record (Table 18-4). -/
structure LogRec where
  seq : U32
  block : U32
  time : U64
  code : Nat
  severity : Nat
  flags : Nat
  storm : U32
  fn : Nat
  payload : List Byte
  deriving DecidableEq, Repr

/-- A storm counter (R432) with the last suppressed event, and the microsecond since which it is nonzero. -/
structure Storm where
  count : Nat
  last : LogRec
  since : Nat
  deriving DecidableEq, Repr

/-- The peat log (R426-R433). -/
structure Peat where
  seq : U32 := 0
  surface : List LogRec := []
  deep : List LogRec := []
  flashSurface : List LogRec := []
  flashDeep : List LogRec := []
  direct : Bool := false
  lastClear : U32 := 0
  storms : Table Storm := []
  /-- device microsecond of each source block's last record (R432), and of the last direct write -/
  lastBy : Table Nat := []
  lastDirect : Nat := 0
  /-- the read view of each function, and of the management controller at 16: PL_RSTATUS.STATE and the latched record; while
  it reads BUSY, the layer and SEQ being read (R429, R433) -/
  viewState : Table Nat := []
  viewData : Table (List Byte) := []
  viewWant : Table (Nat × Nat) := []
  deriving DecidableEq, Repr

/-! ### Random source and enclave (chapters 16 and 17) -/

/-- A consumer of random blocks that waits (R384, R385): rank, queue or function, and order of request. -/
structure Waiter where
  rank : Nat
  queue : Bool
  who : Nat
  deriving DecidableEq, Repr

/-- The physical random source (R379-R391); its counters are RN_ registers. -/
structure Rng where
  s : BitVec 256 := 0
  rctLast : Bool := false
  rctRun : Nat := 0
  aptFirst : Bool := false
  aptCount : Nat := 0
  aptSeen : Nat := 0
  samples : Nat := 0
  failures : List Nat := []
  pool : List (BitVec 512) := []
  waiters : List Waiter := []
  /-- holding buffers, by function: RN_HOLD.STATE and the block (R387) -/
  holdState : Table Nat := []
  holdBlock : Table (BitVec 512) := []
  deriving DecidableEq, Repr

/-- An SPDM session (R406). -/
structure Session where
  id : Nat
  transport : Transport
  finished : Bool := false
  deriving DecidableEq, Repr

/-- A function's upload key pair and unwrap (R408-R410). -/
structure Upload where
  keySeed : Option (BitVec 256) := none
  encapsKey : List Byte := []
  /-- the unwrap in progress: source and destination taken at GO -/
  src : Nat := 0
  dst : Nat := 0
  /-- a GO held until an on-demand self-test ends (R403) -/
  heldGo : Bool := false
  deriving DecidableEq, Repr

/-- How an SPDM request is refused: with an error, or with SessionLimitExceeded (R406). -/
inductive SpdmError where
  | refused | sessionLimit
  deriving DecidableEq, Repr

/-- An SPDM response: the error it carries, if any, and its body. -/
structure SpdmReply where
  transport : Transport
  error : Option SpdmError := none
  body : List Byte := []
  deriving DecidableEq, Repr

/-- The security enclave (R392-R411); its status fields are SE_ registers. -/
structure Enclave where
  drbgSeed : Option (BitVec 512) := none
  drbgCount : Nat := 0
  identity : Option (BitVec 256) := none
  sessions : List Session := []
  nextSession : Nat := 1
  uploads : Table Upload := []
  token : List Byte := []
  heldToken : Bool := false
  debugLevel : Nat := 0
  ideKeys : Table (BitVec 256) := []
  /-- SPDM requests held until an on-demand self-test ends (R403), and the responses made, oldest first -/
  heldRequests : List Instr := []
  replies : List SpdmReply := []
  deriving DecidableEq, Repr

/-! ### Flash (R393, R396, R377) -/

/-- A firmware slot: digest of its image, security version, sequence number, and whether its signature verifies. -/
structure Slot where
  digest : BitVec 256 := 0
  svn : Nat := 0
  seq : Nat := 0
  valid : Bool := false
  deriving DecidableEq, Repr

-- DESIGN CHOICE, unsafe: notes/assumptions/8.md.
/-- The module flash. -/
structure Flash where
  manifestValid : Bool := true
  manifestSvn : Nat := 0
  firmwareKeys : List (BitVec 256) := []
  planKeys : List (BitVec 256) := []
  debugKeys : List (BitVec 256) := []
  manifestKeys : Nat := 1
  slotA : Slot := { valid := true, seq := 1 }
  slotB : Slot := {}
  cfgValid : Bool := true
  cfgSvn : Nat := 0
  sris : Bool := false
  requireSignedAll : Bool := false
  cfgPlanKeys : List (BitVec 256) := []
  fwMin : Nat := 0
  cfgMin : Nat := 0
  manifestMin : Nat := 0
  certKey : BitVec 256 := 0
  retireMarks : List Nat := []
  retired : List Nat := []
  hardRows : List (Nat × Nat) := []
  channelCause : Bool := false
  lifetimeCause : Bool := false
  /-- step of a firmware update in progress: 0 none, 1 image, 2 signature, 3 sequence (R377) -/
  update : Nat := 0
  updateSlot : Slot := {}
  lifetime : Table U64 := []
  deriving DecidableEq, Repr

/-! ### Twilight domain and pins (chapters 13 and 20) -/

/-- The twilight domain (Table 13-6).  No reset of the core changes it (R328). -/
structure Twilight where
  count : U64 := 0
  auxFresh : Bool := true
  level : BitVec 4 := 0
  event : BitVec 8 := 0
  wakeEn : BitVec 8 := 0
  alertEn : BitVec 8 := 0xF0
  therm : BitVec 8 := 0x80
  cmp : List U64 := [0xFFFFFFFFFFFFFFFF, 0xFFFFFFFFFFFFFFFF, 0xFFFFFFFFFFFFFFFF, 0xFFFFFFFFFFFFFFFF]
  matched : List Bool := [false, false, false, false]
  lwSeq : U32 := 0
  lw : List U64 := [0, 0, 0, 0, 0, 0, 0, 0]
  lwNext : Nat := 0
  thermtrip : Bool := false
  /-- event flags whose setting asserted WAKE# and that still stand (R333) -/
  wakeBy : BitVec 8 := 0
  svcLed : Bool := false
  /-- the causes of the replacement request that stands (R468, R470) -/
  causes : Nat := 0
  straps : Nat := 0
  deriving DecidableEq, Repr

-- DESIGN CHOICE, unsafe: notes/assumptions/142.md.
/-- Rails, resets and power management. -/
structure Board where
  /-- the main rail is in its range; and the power stages run from it (R463, R473) -/
  mainIn : Bool := true
  mainOk : Bool := true
  auxOk : Bool := true
  perst : Bool := false
  /-- main power was absent at some time since the previous start (R362) -/
  mainWasLost : Bool := false
  /-- PHASE as the reset that is being held found it (R378) -/
  interrupted : Nat := 0
  power : Power := .d0
  /-- CLKREQ# released in L1.2 (R466) -/
  clkreqReleased : Bool := false
  l1 : Option L1Sub := none
  deriving DecidableEq, Repr

/-! ### PCI Express (chapter 14) -/

/-- A word of a slot's control area (Table 10-3, R231, R232, R236, R238, R241); its octets are not given. -/
inductive Control where
  | loose (epoch : U64)
  | abort (status : Byte)
  | resend (epoch : U64) (phase : Nat)
  | credit (epoch : U64)
  /-- offers of a member's one-lane copies in an epoch of a problem, or in the whole run of one without epochs: energy, bits, FIRST_SEEN -/
  | offers (problem : Nat) (states : List (Int × Nat × Nat))
  deriving DecidableEq, Repr

/-- A message or request the device sends on the link. -/
inductive Msg where
  | msix (fn vector : Nat)
  | pme
  /-- the completion of an ATS invalidation of a page of a function (R352) -/
  | invalidated (fn : Nat) (page : U64)
  /-- a write to a peer's frame: traffic class, virtual channel, and Relaxed Ordering (R233, R351) -/
  | posted (addr : Nat) (bytes : List Byte) (tc vc : Nat) (relaxed : Bool)
  | control (addr : Nat) (word : Control) (tc vc : Nat) (relaxed : Bool)
  deriving DecidableEq, Repr

/-- An error reported through AER (R354): the function concerned, and the bit of the standard's error status register. -/
structure AerError where
  fn : Nat
  correctable : Bool
  bit : Nat
  deriving DecidableEq, Repr

-- PRESUMED, unsafe: notes/assumptions/167.md.
/-- Configuration space and the MSI-X tables (R342-R358). -/
structure Pcie where
  bar2Log2 : Nat := 40
  vfBar2Log2 : Nat := 35
  memEnable : Bool := false
  vfMemEnable : Bool := false
  busMaster : Bool := false
  vfEnable : Bool := false
  numVfs : Nat := 0
  ari : Bool := false
  pmeEn : Bool := false
  atsEnable : List Nat := []
  /-- vectors unmasked, and vectors pending, keyed fn * 2048 + vector -/
  unmasked : Table Bool := []
  pending : Table Bool := []
  /-- MSI-X message addresses and data as written, keyed fn * 2^16 + BAR4 offset (R342) -/
  msixTable : Table U32 := []
  /-- requests sent, and requests held while the link is not in L0 (R339) -/
  sent : List Msg := []
  held : List Msg := []
  /-- Device Control and Device Control 2 of the physical function (R350) -/
  devControl : Nat := 0x2810
  devControl2 : Nat := 0
  /-- System Page Size of the SR-IOV capability: bit 0 4 KiB, bit 4 64 KiB -/
  sysPage : Nat := 1
  /-- base address registers as written, keyed by configuration offset (R342) -/
  bars : Table U32 := []
  /-- AER: errors whose status bits are set, and the header log, four entries, oldest first -/
  aer : List AerError := []
  aerLog : List AerError := []
  deriving DecidableEq, Repr

/-- The answer to the last access that returns something: a status code of the transaction, data bytes, and the words of
it that carry the poisoned mark. -/
structure Port where
  status : Nat := 0
  data : List Byte := []
  poisoned : List Nat := []
  deriving DecidableEq, Repr

/-- Power limiter and estimator (R318, R320, R321); ρ and its paced time are registers. -/
structure Limiter where
  /-- input power samples of the present 1 ms, newest first -/
  samples : List Nat := []
  /-- the East half is to be unparked as soon as it is parked (R325) -/
  wakeEast : Bool := false
  /-- an access to the East half is held (R324, R325) -/
  heldEast : Bool := false
  /-- the latest sample of the main rail, mV (Table 20-5) -/
  mainMv : Nat := 0
  /-- rail ramps in progress: target point by half -/
  rampWest : Option Nat := none
  rampEast : Option Nat := none
  deriving DecidableEq, Repr

/-- The state of the device. -/
structure State where
  /-- the commands that wait, first in, first out -/
  pending : List Instr
  part : Part
  /-- front-end interval timer: microseconds, and nanoseconds since the last twilight tick (R267, R329) -/
  us : Nat
  nsSinceTick : Nat
  /-- microsecond of t0 (R362) -/
  t0 : Nat
  /-- number of free values drawn: the model's own field -/
  draws : Nat
  regs : Table U32
  fnRegs : Table U32
  /-- captures of high words (R86), keyed fn * 2^24 + BAR0 offset -/
  captures : Table U32
  queues : Table Queue
  fronts : Table FrontEnd
  fns : Table FnCfg
  syncs : Table SyncObj
  stale : List StaleEntry
  ctxs : Table Ctx
  plans : Table Plan
  planGens : Table Nat
  runs : Table Run
  /-- lane mode of each anneal tile (Table 3-2) -/
  laneModes : Table Nat
  lanes : Table Lane
  frames : Table Frame
  maps : Table EngineMap
  /-- the pacing accumulator of each anneal and tensor tile, keyed class * 256 + number (R319) -/
  paces : Table Nat
  /-- what chains have written to the tensor tiles' local memory, keyed function * 2^23 + offset; zero elsewhere (R158, R308) -/
  localMem : Table Byte
  /-- physical instances out of service, keyed class * 256 + number (R413) -/
  retiredEngines : List Nat
  /-- physical control cores that serve logical 0 and 1, in that order (R16) -/
  cores : List Nat
  spareCores : List Nat
  mem : List Host.Cell
  /-- tags of the words that differ from the ranges', and the rewritten ranges, newest first -/
  memMeta : Table (Option Tag)
  ranges : List TagRange
  /-- sealing keys generated since the start -/
  keys : Nat
  memErr : Table Upset
  /-- words whose stored error is an injected one (R481); words rewritten as poison whose next read is due (R296) -/
  injected : List Nat
  rewritten : List Nat
  /-- words of a row in which corrected errors occurred within the scrub period, and the persistent-faulty rows (R296) -/
  rowErrors : Table (List Nat)
  faultyRows : List Nat
  /-- row whose repair holds its bank, by logical channel; rows repaired since start, by physical channel (R297) -/
  repairs : Table Nat
  rowRepairs : Table Nat
  scrubPos : Table Nat
  seals : Table Seal
  /-- the firmware area has been rewritten under VERSION 1, and its key is held (R298) -/
  areaSealed : Bool
  areaKey : Bool
  hostMem : List Host.Cell
  /-- device and host addresses, from the first up to the second, whose bytes are not fixed (R6) -/
  unfixedDev : List (Nat × Nat)
  unfixedHost : List (Nat × Nat)
  sliceMem : List Host.Cell
  /-- errors of slice words, keyed slice * 65536 + word, and spares used, keyed slice * 16 + bank (R300, R307) -/
  sliceErr : Table Upset
  sliceSpares : Table Nat
  marches : Table March
  /-- bytes received in each area of each slot of each frame (R230), and the areas' contents -/
  winCount : Table Nat
  winMem : List Host.Cell
  peat : Peat
  lifetime : Table U64
  rng : Rng
  enclave : Enclave
  flash : Flash
  tw : Twilight
  board : Board
  pcie : Pcie
  limiter : Limiter
  port : Port
  deriving DecidableEq, Repr

/-- Reasons a step stops.  All of them are raised for a command whose operand names nothing the device has; none is
raised on a well-formed command (WellFormed.lean).  Safe: no effect is claimed for such a command. -/
inductive Fault where
  /-- a queue number above 4,095 (R242), raised by every command that names a queue -/
  | noSuchQueue
  /-- a function number above 15 (R340), raised by every command that a function sends -/
  | noSuchFunction
  /-- a tile, engine, core or problem lane number beyond Table 1-1 and Table 3-2 -/
  | noSuchEngine
  /-- a channel beyond 47 (R287) or a slice beyond 127 (R300) -/
  | noSuchMemory
  /-- any other operand beyond the range its rule gives (a front end, frame, comparator, constellation, sensor) -/
  | noSuchOperand
  deriving DecidableEq, Repr

/-- Reasons the model has no meaning for a command. -/
inductive Refusal where
  /-- the command of this mnemonic is not modelled; raised by exec's arm alone.  Safe: nothing is claimed of it -/
  | notModelled (mnemonic : String)
  deriving DecidableEq, Repr

-- DESIGN CHOICE, unsafe: notes/assumptions/9.md.
/-- The device of part p at t0 of a cold start: phase 1 in progress, every register at its Reset column. -/
def State.resetOf (p : Part) : State where
  pending := []
  part := p
  us := 0
  nsSinceTick := 0
  t0 := 0
  draws := 0
  regs := []
  fnRegs := []
  captures := []
  queues := []
  fronts := []
  fns := []
  syncs := []
  stale := []
  ctxs := []
  plans := []
  planGens := []
  runs := []
  laneModes := []
  lanes := []
  frames := []
  maps := []
  paces := []
  localMem := []
  retiredEngines := []
  cores := [0, 1]
  spareCores := [2, 3]
  mem := []
  memMeta := []
  ranges := []
  keys := 0
  memErr := []
  injected := []
  rewritten := []
  rowErrors := []
  faultyRows := []
  repairs := []
  rowRepairs := []
  scrubPos := []
  seals := []
  areaSealed := false
  areaKey := false
  hostMem := []
  unfixedDev := []
  unfixedHost := []
  sliceMem := []
  sliceErr := []
  sliceSpares := []
  marches := []
  winCount := []
  winMem := []
  peat := {}
  lifetime := []
  rng := {}
  enclave := {}
  flash := {}
  tw := {}
  board := {}
  pcie := {}
  limiter := {}
  port := {}

-- DESIGN CHOICE, unsafe: notes/assumptions/7.md.
/-- The machine right after reset: an NRN-7200-C at t0 of a cold start (R362, R363). -/
def State.reset : State := State.resetOf .c7200

end Sys2Proof.Machine
end

