-- ==== Sys2Proof/Machine/RegMap.lean ====
section
/-! DEFINITION. The register map: which page holds which registers (Table 19-1), and for every register the Reset
column and the access code of each bit (Table 0-4).  The rows are the field tables of the manual, one row a register:
offset, reset value, and the masks of its RW (and RWL), W1C, WO and STKY bits; every other bit is read-only. -/

namespace Sys2Proof.Machine

/-- One register: its offset in the page, Reset column, and masks by access code (R13). -/
structure RegSpec where
  off : Nat
  reset : Nat
  rw : Nat
  w1c : Nat
  wo : Nat
  stky : Nat
  deriving DecidableEq, Repr

/-- The field tables of the manual, by the page they belong to (Table 19-8); `header` is Table 19-2. -/
inductive PageKind where
  | header | start | health | irq | power | fq | fe | ffn | fsync | at | tt | ce | mc | sm | se | sefn | sedbg | rn | pl | plr | lt | ltth | tw | px | constellation
  deriving DecidableEq, Repr

/-- The rows of each field table whose offsets are fixed; families such as TW_CMPn or RN_DATAw are views computed from
the state (Machine/Registers.lean), and page 3 is given by its formula below. -/
def regRows : PageKind → List RegSpec
  | .header => [
      ⟨0, 0, 0, 0, 0, 0⟩,
      ⟨0x4, 0, 0, 0, 0, 0⟩,
      ⟨0x8, 0x1, 0, 0, 0, 0⟩,
      ⟨0xc, 0, 0x1, 0, 0, 0⟩,
      ⟨0x10, 0, 0, 0xffff, 0, 0⟩,
      ⟨0x14, 0, 0x1ffff, 0, 0, 0⟩,
      ⟨0x18, 0, 0, 0xf, 0, 0⟩,
      ⟨0x1c, 0x1, 0xf, 0, 0, 0⟩,
      ⟨0x20, 0, 0, 0, 0, 0xffffffff⟩,
      ⟨0x24, 0, 0, 0, 0, 0xffffffff⟩,
      ⟨0x28, 0x1, 0, 0, 0, 0⟩,
      ⟨0x2c, 0, 0, 0, 0, 0⟩,
      ⟨0x30, 0, 0, 0, 0, 0⟩,
      ⟨0x34, 0, 0, 0, 0, 0⟩,
      ⟨0x38, 0, 0, 0, 0, 0⟩,
      ⟨0x3c, 0, 0, 0, 0, 0⟩]
  | .start => [
      ⟨0x40, 0x1, 0, 0, 0, 0xffff0000⟩,
      ⟨0x44, 0, 0, 0, 0, 0⟩,
      ⟨0x48, 0, 0, 0, 0, 0⟩,
      ⟨0x4c, 0, 0, 0, 0, 0⟩,
      ⟨0x50, 0, 0, 0, 0, 0⟩,
      ⟨0x54, 0, 0, 0, 0, 0⟩,
      ⟨0x60, 0, 0, 0, 0, 0⟩,
      ⟨0x64, 0x30c60, 0, 0, 0, 0⟩,
      ⟨0x68, 0, 0, 0, 0, 0⟩,
      ⟨0x6c, 0, 0, 0, 0, 0⟩,
      ⟨0x70, 0, 0, 0, 0, 0⟩]
  | .health => [
      ⟨0x40, 0, 0, 0, 0, 0⟩,
      ⟨0x44, 0xa964, 0, 0, 0, 0⟩,
      ⟨0x48, 0, 0, 0, 0, 0⟩]
  | .irq => [
      ⟨0x40, 0, 0x1, 0, 0, 0⟩,
      ⟨0x44, 0, 0x7ff, 0, 0, 0⟩,
      ⟨0x48, 0, 0, 0, 0, 0⟩]
  | .power => [
      ⟨0x40, 0x33, 0x77, 0, 0, 0⟩,
      ⟨0x44, 0x55, 0, 0, 0, 0⟩,
      ⟨0x48, 0x33, 0, 0, 0, 0⟩,
      ⟨0x4c, 0, 0, 0, 0, 0⟩,
      ⟨0x50, 0, 0, 0, 0, 0⟩,
      ⟨0x54, 0x258, 0x3ff, 0, 0, 0⟩,
      ⟨0x58, 0x2ee, 0, 0, 0, 0⟩,
      ⟨0x5c, 0x40000, 0, 0, 0, 0⟩,
      ⟨0x60, 0x64, 0, 0, 0, 0⟩,
      ⟨0x64, 0, 0, 0, 0, 0⟩,
      ⟨0x68, 0, 0, 0, 0, 0⟩,
      ⟨0x6c, 0x1, 0x1, 0, 0x6, 0⟩,
      ⟨0x70, 0, 0, 0, 0, 0⟩]
  | .fq => [
      ⟨0x40, 0, 0xfff, 0, 0, 0⟩,
      ⟨0x48, 0, 0xfffff001, 0, 0, 0⟩,
      ⟨0x4c, 0, 0xffffffff, 0, 0, 0⟩,
      ⟨0x50, 0, 0xfffff001, 0, 0, 0⟩,
      ⟨0x54, 0, 0xffffffff, 0, 0, 0⟩,
      ⟨0x58, 0x6, 0x7fffffff, 0, 0, 0⟩,
      ⟨0x5c, 0, 0xffffffff, 0, 0, 0⟩,
      ⟨0x60, 0, 0xffffffff, 0, 0, 0⟩,
      ⟨0x64, 0, 0x1, 0, 0x6, 0⟩,
      ⟨0x68, 0, 0, 0, 0, 0⟩,
      ⟨0x6c, 0, 0, 0, 0, 0⟩,
      ⟨0x70, 0, 0, 0, 0, 0⟩,
      ⟨0x74, 0, 0, 0, 0, 0⟩,
      ⟨0x78, 0, 0, 0, 0, 0⟩,
      ⟨0x80, 0, 0, 0, 0, 0⟩,
      ⟨0x84, 0, 0, 0, 0, 0⟩,
      ⟨0x88, 0, 0, 0, 0, 0⟩,
      ⟨0x8c, 0, 0, 0, 0, 0⟩,
      ⟨0x90, 0, 0, 0, 0, 0⟩,
      ⟨0x94, 0, 0, 0, 0, 0⟩,
      ⟨0x98, 0, 0, 0, 0, 0⟩,
      ⟨0x9c, 0, 0, 0, 0, 0⟩]
  | .fe => [
      ⟨0x40, 0, 0, 0, 0, 0⟩,
      ⟨0x48, 0, 0, 0, 0, 0⟩,
      ⟨0x4c, 0, 0, 0, 0, 0⟩]
  | .ffn => [
      ⟨0x40, 0, 0xf, 0, 0, 0⟩,
      ⟨0x44, 0, 0x1ffffff, 0, 0, 0⟩,
      ⟨0x48, 0, 0xffffffff, 0, 0, 0⟩,
      ⟨0x4c, 0, 0xffffffff, 0, 0, 0⟩,
      ⟨0x50, 0, 0xffffffff, 0, 0, 0⟩,
      ⟨0x54, 0, 0xffffffff, 0, 0, 0⟩,
      ⟨0x58, 0, 0xffffffff, 0, 0, 0⟩,
      ⟨0x5c, 0, 0xffffffff, 0, 0, 0⟩,
      ⟨0x60, 0, 0x1ffffff, 0, 0, 0⟩,
      ⟨0x64, 0, 0xffffffff, 0, 0, 0⟩,
      ⟨0x68, 0, 0x3fffff, 0, 0, 0⟩,
      ⟨0x6c, 0, 0x7fffff, 0, 0, 0⟩,
      ⟨0x70, 0, 0x1ffff, 0, 0, 0⟩]
  | .fsync => [
      ⟨0x40, 0, 0xffff, 0, 0, 0⟩,
      ⟨0x48, 0, 0xffffffff, 0, 0, 0⟩,
      ⟨0x4c, 0, 0xffffffff, 0, 0, 0⟩,
      ⟨0x50, 0, 0x2, 0, 0x4, 0⟩]
  | .at => [
      ⟨0x40, 0, 0, 0, 0, 0⟩,
      ⟨0x44, 0, 0, 0, 0, 0⟩,
      ⟨0x48, 0, 0xf, 0, 0, 0⟩,
      ⟨0x4c, 0, 0, 0, 0, 0⟩,
      ⟨0x50, 0, 0, 0, 0, 0⟩,
      ⟨0x54, 0, 0, 0, 0, 0⟩,
      ⟨0x58, 0, 0, 0, 0, 0⟩,
      ⟨0x5c, 0, 0, 0, 0, 0⟩,
      ⟨0x60, 0, 0, 0, 0, 0⟩,
      ⟨0x64, 0, 0, 0, 0, 0⟩,
      ⟨0x68, 0, 0, 0, 0, 0⟩,
      ⟨0x70, 0, 0, 0, 0, 0⟩,
      ⟨0x74, 0, 0, 0, 0, 0⟩,
      ⟨0x78, 0, 0, 0, 0, 0⟩,
      ⟨0x7c, 0, 0, 0, 0, 0⟩,
      ⟨0x80, 0, 0, 0, 0, 0⟩,
      ⟨0x84, 0, 0, 0, 0, 0⟩,
      ⟨0x88, 0, 0, 0, 0, 0⟩,
      ⟨0x8c, 0, 0, 0, 0, 0⟩,
      ⟨0x90, 0, 0, 0, 0, 0⟩,
      ⟨0x94, 0, 0, 0, 0, 0⟩,
      ⟨0x98, 0, 0, 0, 0, 0⟩,
      ⟨0x9c, 0, 0, 0, 0, 0⟩,
      ⟨0xa0, 0, 0, 0, 0, 0xfffff⟩]
  | .tt => [
      ⟨0x40, 0, 0, 0, 0, 0⟩,
      ⟨0x44, 0, 0, 0, 0, 0⟩,
      ⟨0x48, 0, 0, 0, 0, 0⟩,
      ⟨0x4c, 0, 0, 0, 0, 0⟩,
      ⟨0x50, 0, 0, 0, 0, 0⟩,
      ⟨0x54, 0, 0, 0, 0, 0⟩,
      ⟨0x58, 0, 0, 0, 0, 0⟩,
      ⟨0x5c, 0, 0, 0, 0, 0⟩,
      ⟨0x60, 0, 0, 0, 0, 0⟩,
      ⟨0x64, 0, 0, 0, 0, 0⟩,
      ⟨0x68, 0, 0, 0, 0, 0⟩,
      ⟨0x6c, 0, 0, 0, 0, 0⟩,
      ⟨0x70, 0, 0, 0, 0, 0⟩,
      ⟨0x74, 0, 0, 0, 0, 0⟩,
      ⟨0x78, 0, 0, 0, 0, 0xffff⟩,
      ⟨0x7c, 0, 0, 0, 0x1, 0⟩]
  | .ce => [
      ⟨0x40, 0, 0, 0, 0, 0⟩,
      ⟨0x44, 0, 0, 0, 0, 0⟩,
      ⟨0x48, 0, 0, 0, 0, 0⟩,
      ⟨0x4c, 0, 0x1f, 0, 0, 0⟩,
      ⟨0x50, 0, 0, 0, 0, 0⟩,
      ⟨0x54, 0, 0, 0, 0, 0⟩,
      ⟨0x58, 0, 0, 0, 0, 0⟩,
      ⟨0x5c, 0, 0, 0, 0, 0⟩,
      ⟨0x60, 0, 0, 0, 0, 0⟩,
      ⟨0x64, 0, 0, 0, 0, 0⟩,
      ⟨0x68, 0, 0, 0, 0, 0⟩,
      ⟨0x6c, 0, 0, 0, 0, 0⟩,
      ⟨0x70, 0, 0, 0, 0, 0⟩,
      ⟨0x74, 0, 0, 0, 0, 0⟩,
      ⟨0x78, 0, 0, 0, 0, 0⟩,
      ⟨0x7c, 0, 0, 0, 0, 0xffffff⟩]
  | .mc => [
      ⟨0x40, 0x1, 0, 0, 0, 0⟩,
      ⟨0x44, 0x120000, 0, 0, 0, 0⟩,
      ⟨0x48, 0, 0, 0, 0, 0⟩,
      ⟨0x4c, 0, 0, 0, 0, 0⟩,
      ⟨0x50, 0, 0, 0, 0, 0⟩,
      ⟨0x54, 0, 0, 0, 0, 0⟩,
      ⟨0x58, 0, 0, 0, 0, 0⟩,
      ⟨0x5c, 0, 0, 0, 0, 0⟩,
      ⟨0x60, 0, 0, 0, 0, 0⟩,
      ⟨0x64, 0, 0, 0, 0, 0⟩,
      ⟨0x68, 0, 0, 0, 0, 0⟩,
      ⟨0x6c, 0, 0, 0, 0, 0⟩,
      ⟨0x70, 0, 0, 0, 0, 0⟩,
      ⟨0x100, 0x3600030, 0, 0, 0, 0⟩,
      ⟨0x104, 0, 0, 0, 0, 0⟩,
      ⟨0x108, 0, 0, 0, 0, 0⟩,
      ⟨0x10c, 0x118, 0x1ff, 0, 0, 0⟩,
      ⟨0x110, 0, 0xf, 0, 0, 0⟩,
      ⟨0x114, 0, 0x1, 0, 0x2, 0⟩,
      ⟨0x118, 0, 0, 0, 0, 0⟩,
      ⟨0x11c, 0, 0xff, 0, 0, 0⟩]
  | .sm => [
      ⟨0x40, 0, 0, 0, 0, 0⟩,
      ⟨0x44, 0xa01, 0xff01, 0, 0, 0⟩,
      ⟨0x48, 0, 0, 0, 0, 0⟩,
      ⟨0x4c, 0, 0, 0, 0, 0⟩,
      ⟨0x50, 0, 0, 0, 0, 0⟩,
      ⟨0x54, 0, 0, 0, 0, 0⟩,
      ⟨0x58, 0, 0, 0, 0, 0⟩,
      ⟨0x5c, 0, 0, 0, 0, 0⟩]
  | .se => [
      ⟨0x40, 0, 0, 0, 0, 0⟩,
      ⟨0x44, 0, 0, 0, 0, 0⟩,
      ⟨0x48, 0, 0, 0, 0x3, 0⟩,
      ⟨0x4c, 0, 0, 0, 0, 0⟩,
      ⟨0x50, 0, 0, 0, 0, 0⟩,
      ⟨0x54, 0, 0, 0, 0, 0⟩,
      ⟨0x60, 0, 0, 0, 0, 0⟩,
      ⟨0x64, 0, 0, 0, 0, 0⟩,
      ⟨0x68, 0, 0, 0, 0, 0⟩,
      ⟨0x6c, 0, 0, 0, 0, 0⟩,
      ⟨0x70, 0, 0, 0, 0, 0⟩,
      ⟨0x74, 0, 0, 0, 0, 0⟩,
      ⟨0x78, 0, 0, 0, 0, 0⟩,
      ⟨0x7c, 0, 0, 0, 0, 0⟩]
  | .sefn => [
      ⟨0x40, 0, 0xf, 0, 0, 0⟩,
      ⟨0x44, 0, 0x3, 0, 0, 0⟩,
      ⟨0x48, 0, 0xffffffff, 0, 0, 0⟩,
      ⟨0x4c, 0, 0xffffffff, 0, 0, 0⟩,
      ⟨0x50, 0, 0, 0, 0x3, 0⟩,
      ⟨0x54, 0, 0, 0, 0, 0⟩,
      ⟨0x58, 0, 0xffffffff, 0, 0, 0⟩,
      ⟨0x5c, 0, 0xffffffff, 0, 0, 0⟩,
      ⟨0x60, 0, 0xffffffff, 0, 0, 0⟩,
      ⟨0x64, 0, 0xffffffff, 0, 0, 0⟩,
      ⟨0x68, 0, 0, 0, 0x1, 0⟩,
      ⟨0x6c, 0, 0, 0, 0, 0⟩]
  | .sedbg => [
      ⟨0x40, 0, 0, 0, 0, 0⟩,
      ⟨0x44, 0, 0, 0, 0, 0⟩,
      ⟨0x48, 0, 0, 0, 0, 0⟩,
      ⟨0x4c, 0, 0, 0, 0, 0⟩,
      ⟨0x50, 0, 0, 0, 0, 0⟩,
      ⟨0x54, 0, 0, 0, 0, 0⟩,
      ⟨0x58, 0, 0, 0, 0, 0⟩,
      ⟨0x5c, 0, 0, 0, 0, 0⟩,
      ⟨0x60, 0, 0xffffffff, 0, 0, 0⟩,
      ⟨0x64, 0, 0xffffffff, 0, 0, 0⟩,
      ⟨0x68, 0, 0, 0, 0x1, 0⟩,
      ⟨0x6c, 0, 0, 0, 0, 0⟩]
  | .rn => [
      ⟨0x40, 0, 0, 0, 0, 0⟩,
      ⟨0x44, 0, 0, 0, 0x1, 0⟩,
      ⟨0x48, 0, 0, 0, 0, 0⟩,
      ⟨0x4c, 0x32b3d, 0, 0, 0, 0⟩,
      ⟨0x50, 0, 0, 0, 0, 0⟩,
      ⟨0x54, 0, 0, 0, 0, 0⟩,
      ⟨0x58, 0, 0, 0, 0, 0⟩,
      ⟨0x5c, 0, 0, 0, 0, 0⟩,
      ⟨0x60, 0, 0, 0, 0, 0xffff⟩]
  | .pl => [
      ⟨0x40, 0, 0, 0, 0, 0⟩,
      ⟨0x44, 0, 0, 0, 0, 0⟩,
      ⟨0x48, 0, 0, 0, 0, 0⟩,
      ⟨0x4c, 0, 0, 0, 0, 0⟩,
      ⟨0x50, 0, 0, 0, 0, 0⟩,
      ⟨0x54, 0, 0, 0, 0x3, 0⟩,
      ⟨0x58, 0, 0, 0, 0, 0⟩]
  | .plr => [
      ⟨0x40, 0, 0x1, 0, 0, 0⟩,
      ⟨0x44, 0, 0xffffffff, 0, 0, 0⟩,
      ⟨0x48, 0, 0, 0, 0, 0⟩]
  | .lt => [
      ⟨0x40, 0, 0xff, 0, 0, 0⟩,
      ⟨0x44, 0, 0, 0, 0, 0⟩,
      ⟨0x48, 0, 0, 0, 0, 0⟩,
      ⟨0x4c, 0, 0, 0, 0, 0⟩]
  | .ltth => []
  | .tw => [
      ⟨0x40, 0, 0, 0, 0, 0⟩,
      ⟨0x44, 0, 0, 0, 0, 0⟩,
      ⟨0x48, 0x1, 0, 0x1, 0, 0⟩,
      ⟨0x4c, 0, 0, 0xff, 0, 0⟩,
      ⟨0x50, 0, 0xff, 0, 0, 0⟩,
      ⟨0x54, 0xf0, 0xff, 0, 0, 0⟩,
      ⟨0x58, 0x80, 0xff, 0, 0, 0⟩,
      ⟨0x80, 0, 0, 0, 0, 0⟩,
      ⟨0x84, 0, 0, 0, 0x1, 0⟩]
  | .px => [
      ⟨0x40, 0, 0, 0, 0, 0⟩,
      ⟨0x44, 0, 0, 0, 0, 0xffffffff⟩,
      ⟨0x48, 0, 0, 0, 0, 0xffffffff⟩,
      ⟨0x4c, 0, 0, 0, 0, 0xffffffff⟩,
      ⟨0x50, 0, 0, 0, 0, 0⟩,
      ⟨0x54, 0, 0, 0, 0, 0⟩,
      ⟨0x58, 0, 0xc0000000, 0, 0, 0⟩,
      ⟨0x5c, 0, 0xffffffff, 0, 0, 0⟩,
      ⟨0x60, 0, 0x7ff, 0, 0, 0⟩,
      ⟨0x64, 0, 0, 0, 0, 0⟩,
      ⟨0x68, 0, 0, 0, 0, 0⟩,
      ⟨0x6c, 0, 0, 0, 0, 0⟩]
  | .constellation => [⟨0x40, 0, 0, 0, 0, 0⟩, ⟨0x44, 0, 0, 0, 0, 0⟩]

/-- The page map of Table 19-1: the field table of a page that holds registers (R439, R440). -/
def pageKind (page : Nat) : Option PageKind :=
  if page = 0 then some .start
  else if page = 1 then some .health
  else if page = 2 then some .irq
  else if page = 3 then some .constellation
  else if page = 4 then some .power
  else if page = 16 then some .fq
  else if 17 ≤ page ∧ page ≤ 20 then some .fe
  else if page = 21 then some .ffn
  else if page = 22 then some .fsync
  else if 256 ≤ page ∧ page ≤ 351 then some .at
  else if 512 ≤ page ∧ page ≤ 535 then some .tt
  else if 768 ≤ page ∧ page ≤ 815 then some .ce
  else if 1024 ≤ page ∧ page ≤ 1071 then some .mc
  else if 1280 ≤ page ∧ page ≤ 1407 then some .sm
  else if page = 3072 then some .se
  else if page = 3073 then some .sefn
  else if page = 3074 then some .sedbg
  else if page = 3100 then some .rn
  else if page = 3200 then some .pl
  else if page = 3201 then some .plr
  else if page = 3300 then some .lt
  else if page = 3301 then some .ltth
  else if page = 3400 then some .tw
  else if page = 3500 then some .px
  else none

/-- The membership words of page 3 (Table 19-7): offset 0x100 + 0x40 n + 4 j, j from 0 to 11. -/
def constSpec (off : Nat) : Option RegSpec :=
  if 0x100 ≤ off ∧ off < 0x500 then
    match (off % 0x40) / 4 with
    | 3 => some ⟨off, 0, 0xFFFFFF, 0, 0, 0⟩
    | 5 => some ⟨off, 0, 0xFFFF, 0, 0, 0⟩
    | 7 => some ⟨off, 0, 0xFFFF, 0, 0, 0⟩
    | j => if j < 12 then some ⟨off, 0, 0xFFFFFFFF, 0, 0, 0⟩ else none
  else none

/-- The register at a BAR0 offset: the header's on a page that has one, else the page's own table. -/
def regSpec (a : Nat) : Option RegSpec :=
  let off := a % 4096
  match pageKind (a / 4096) with
  | none => none
  | some k =>
    if off < 0x40 then (regRows .header).find? (fun r => r.off == off)
    else match k with
      | .constellation =>
        match constSpec off with
        | some r => some r
        | none => (regRows k).find? (fun r => r.off == off)
      | k => (regRows k).find? (fun r => r.off == off)

/-- What a register reads as after a cold reset (the Reset column, R13); a reserved offset reads as zero (R12). -/
def regReset (a : Nat) : U32 :=
  match regSpec a with
  | some r => BitVec.ofNat 32 r.reset
  | none => 0

/-- The registers of which every function has its own (R441): pages 2, 3073 and 3201, the per-function registers of page
3100, and the selections of FE_QSEL and FE_SYNC_SEL (R281). -/
def isPerFn (a : Nat) : Bool :=
  let page := a / 4096
  let off := a % 4096
  page == 2 || page == 3073 || page == 3201
  || (page == 3100 && (off == 0x10 || off == 0x14 || off == 0x44 || off == 0x48 || 0x80 ≤ off))
  || (page == 16 && off == 0x40) || (page == 22 && 0x40 ≤ off)

/-- BAR0 offset of a register: page and offset in the page (R439). -/
def reg (page off : Nat) : Nat := 4096 * page + off

end Sys2Proof.Machine
end

