-- ==== Sys2Proof/Machine/Ops.lean ====
section
/-! DEFINITION. The named operations over tables, registers, device time and the memories: little-endian bytes (R10), the
channel interleave (R286), the SK256 code (R288-R290), demand reads and writes of device memory (R292, R293, R481),
host memory and the shared slices. -/

namespace Sys2Proof.Machine

/-! ### Tables -/

/-- What key k reads as. -/
def tget {α : Type} (d : Nat → α) : Table α → Nat → α
  | [], k => d k
  | (k', v) :: r, k => if k' = k then v else tget d r k

/-- Puts an entry into a table whose keys are present or absent; rising keys. -/
def tput {α : Type} : Table α → Nat → α → Table α
  | [], k, v => [(k, v)]
  | (k', v') :: r, k, v => if k < k' then (k, v) :: (k', v') :: r else if k' = k then (k, v) :: r else (k', v') :: tput r k v

/-- Takes the entries of a key out of a table. -/
def tdel {α : Type} (t : Table α) (k : Nat) : Table α := t.filter (fun e => e.1 != k)

/-- Writing key k, keeping the canonical form: rising keys, and no entry equal to the default. -/
def tset {α : Type} [DecidableEq α] (d : Nat → α) (t : Table α) (k : Nat) (v : α) : Table α :=
  if v = d k then tdel t k else tput (tdel t k) k v

/-- The canonical form of a table. -/
def tableWf {α : Type} [DecidableEq α] (d : Nat → α) : Table α → Bool
  | [] => true
  | [(k, v)] => decide (v ≠ d k)
  | (k, v) :: (k', v') :: r => decide (v ≠ d k) && decide (k < k') && tableWf d ((k', v') :: r)

/-! ### Operands that name an instance -/

/-- The outcome of a command. -/
abbrev Result := Host.Outcome State Fault Refusal

/-- What no command changes: the queue, which is the step's, the part, and but for TRAINING the retired channels (R297). -/
def keep (s t : State) : State :=
  { t with pending := s.pending, part := s.part, flash := { t.flash with retired := s.flash.retired } }

/-- A command whose operands name no instance. -/
def always (s : State) (f : State → State) : Result := .next (keep s (f s))

-- DESIGN CHOICE, safe: notes/assumptions/3.md.
/-- A command on queue q (R242). -/
def onQueue (q : Nat) (s : State) (f : State → State) : Result :=
  if q < 4096 then always s f else .fault .noSuchQueue

/-- A command of function fn (R340). -/
def onFn (fn : Nat) (s : State) (f : State → State) : Result :=
  if fn < 16 then always s f else .fault .noSuchFunction

/-- A command on logical or physical engine n of a class that has `count` of them (Table 1-1). -/
def onEngine (n count : Nat) (s : State) (f : State → State) : Result :=
  if n < count then always s f else .fault .noSuchEngine

/-- A command on a problem lane of an anneal tile (Table 3-2). -/
def onLane (tile lane : Nat) (s : State) (f : State → State) : Result :=
  if tile < 96 ∧ lane < 16 then always s f else .fault .noSuchEngine

/-- A command on channel or slice n of `count`. -/
def onMemory (n count : Nat) (s : State) (f : State → State) : Result :=
  if n < count then always s f else .fault .noSuchMemory

/-- A command whose operand must lie below a bound. -/
def onIndex (n count : Nat) (s : State) (f : State → State) : Result :=
  if n < count then always s f else .fault .noSuchOperand

/-! ### Little-endian values (R10) and fields -/

/-- The value of bytes, least significant first. -/
def ofLE : List Byte → Nat
  | [] => 0
  | b :: r => b.toNat + 256 * ofLE r

/-- n bytes of a value, least significant first. -/
def toLE : Nat → Nat → List Byte
  | 0, _ => []
  | n + 1, v => BitVec.ofNat 8 v :: toLE n (v / 256)

/-- The n-byte value at offset o of a byte string; bytes beyond its end read as zero. -/
def leAt (b : List Byte) (o n : Nat) : Nat := ofLE ((b.drop o).take n)

/-- Bits [lo + len - 1 : lo] of a number. -/
def bits (v lo len : Nat) : Nat := (v / 2 ^ lo) % 2 ^ len

/-- Replaces bits [lo + len - 1 : lo] of v by f (taken modulo the width). -/
def putBits (v lo len f : Nat) : Nat := v - 2 ^ lo * bits v lo len + 2 ^ lo * (f % 2 ^ len)

/-- Two's complement reading of the low n bits. -/
def signed (n v : Nat) : Int := if 2 ^ (n - 1) ≤ v % 2 ^ n then (v % 2 ^ n : Int) - 2 ^ n else (v % 2 ^ n : Int)

/-- The low n bits of an integer in two's complement. -/
def unsigned (n : Nat) (v : Int) : Nat := (v % (2 ^ n : Int)).toNat

/-- Ceiling of a quotient. -/
def ceilDiv (a b : Nat) : Nat := (a + b - 1) / b

/-- The next multiple of m. -/
def alignUp (a m : Nat) : Nat := ceilDiv a m * m

/-- A counter that saturates at its width. -/
def satAdd (width v n : Nat) : Nat := min (v + n) (2 ^ width - 1)

/-! ### Registers -/

/-- The value of the register at BAR0 offset a as function fn reads its stored copy. -/
def getReg (s : State) (fn a : Nat) : Nat :=
  if isPerFn a then (tget (fun k => regReset (k % 2 ^ 24)) s.fnRegs (2 ^ 24 * fn + a)).toNat
  else (tget regReset s.regs a).toNat

/-- Stores a register's value. -/
def setReg (s : State) (fn a v : Nat) : State :=
  if isPerFn a then
    { s with fnRegs := tset (fun k => regReset (k % 2 ^ 24)) s.fnRegs (2 ^ 24 * fn + a) (BitVec.ofNat 32 v) }
  else { s with regs := tset regReset s.regs a (BitVec.ofNat 32 v) }

/-- A field of a common register. -/
def fld (s : State) (a lo len : Nat) : Nat := bits (getReg s 0 a) lo len

/-- Writes a field of a common register from the device's side. -/
def setFld (s : State) (a lo len v : Nat) : State := setReg s 0 a (putBits (getReg s 0 a) lo len v)

/-- A 64-bit value in a low word and the next (R86). -/
def get64 (s : State) (a : Nat) : Nat := getReg s 0 a + 2 ^ 32 * getReg s 0 (a + 4)

def set64 (s : State) (a v : Nat) : State := setReg (setReg s 0 a (v % 2 ^ 32)) 0 (a + 4) (v / 2 ^ 32 % 2 ^ 32)

/-- Adds to a 64-bit counter. -/
def add64 (s : State) (a n : Nat) : State := set64 s a (get64 s a + n)

/-- Adds to a 32-bit counter that saturates. -/
def addSat (s : State) (a n : Nat) : State := setReg s 0 a (satAdd 32 (getReg s 0 a) n)

/-- Adds to a 32-bit counter that the manual does not call saturating: it wraps (R11). -/
def addCount (s : State) (a n : Nat) : State := setReg s 0 a ((getReg s 0 a + n) % 2 ^ 32)

/-! ### Accessors of the structured tables -/

def queueOf (s : State) (q : Nat) : Queue := tget (fun _ => {}) s.queues q
def setQueue (s : State) (q : Nat) (v : Queue) : State := { s with queues := tset (fun _ => {}) s.queues q v }
def fnOf (s : State) (fn : Nat) : FnCfg := tget (fun _ => {}) s.fns fn
def setFn (s : State) (fn : Nat) (v : FnCfg) : State := { s with fns := tset (fun _ => {}) s.fns fn v }
def syncOf (s : State) (o : Nat) : SyncObj := tget (fun _ => {}) s.syncs o
def setSync (s : State) (o : Nat) (v : SyncObj) : State := { s with syncs := tset (fun _ => {}) s.syncs o v }
def ctxOf (s : State) (c : Nat) : Ctx := tget (fun _ => {}) s.ctxs c
def sealOf (s : State) (fn : Nat) : Seal := tget (fun _ => {}) s.seals fn
def setSeal (s : State) (fn : Nat) (v : Seal) : State := { s with seals := tset (fun _ => {}) s.seals fn v }
def marchOf (s : State) (n : Nat) : March := tget (fun _ => {}) s.marches n
def setMarch (s : State) (n : Nat) (v : March) : State := { s with marches := tset (fun _ => {}) s.marches n v }
def uploadOf (s : State) (fn : Nat) : Upload := tget (fun _ => {}) s.enclave.uploads fn
def setUpload (s : State) (fn : Nat) (v : Upload) : State :=
  { s with enclave := { s.enclave with uploads := tset (fun _ => {}) s.enclave.uploads fn v } }

/-- Problem lanes are keyed tile * 16 + lane (Table 3-2). -/
def laneKey (tile lane : Nat) : Nat := tile * 16 + lane
def laneOf (s : State) (k : Nat) : Lane := tget (fun _ => {}) s.lanes k
def setLane (s : State) (k : Nat) (v : Lane) : State := { s with lanes := tset (fun _ => {}) s.lanes k v }

/-- The run of a queue, and a bound plan, when there is one. -/
def runOf (s : State) (q : Nat) : Option Run := (s.runs.find? (fun e => e.1 == q)).map (·.2)
def planOf (s : State) (slot : Nat) : Option Plan := (s.plans.find? (fun e => e.1 == slot)).map (·.2)
def frameOf (s : State) (k : Nat) : Option Frame := (s.frames.find? (fun e => e.1 == k)).map (·.2)

def setRun (s : State) (q : Nat) (r : Run) : State := { s with runs := tput s.runs q r }
def delRun (s : State) (q : Nat) : State := { s with runs := tdel s.runs q }
def setPlan (s : State) (slot : Nat) (p : Plan) : State := { s with plans := tput s.plans slot p }
def delPlan (s : State) (slot : Nat) : State := { s with plans := tdel s.plans slot }
def setFrame (s : State) (k : Nat) (f : Frame) : State := { s with frames := tput s.frames k f }
def delFrame (s : State) (k : Nat) : State := { s with frames := tdel s.frames k }

/-- GL_STATUS.READY (Table 15-3). -/
def isReady (s : State) : Bool := fld s 0x40 4 1 == 1

/-- GL_STATUS.PHASE. -/
def phaseOf (s : State) : Nat := fld s 0x40 0 4

/-- Main power is on, PERST# is released and the core is awake: the pages answer (R362, R323). -/
def awake (s : State) : Bool := s.board.mainOk && s.board.auxOk && !s.board.perst && s.board.power == .d0

/-- A BAR0 write of function fn: before READY it is discarded and counted in PX_DISCARD_CNT (R370). -/
def onBar0 (fn : Nat) (s : State) (f : State → State) : Result :=
  onFn fn s (fun s => if !awake s then s else if isReady s then f s else addCount s (reg 3500 0x54) 1)

/-! ### Time and free values -/

/-- Device time (R329): the twilight counter interpolated by the interval timer, in steps of 8 ns. -/
def deviceTime (s : State) : U64 :=
  let t := s.tw.count.toNat
  BitVec.ofNat 64 ((30517 * t + (37 * t) / 64 + min s.nsSinceTick 30512) / 8 * 8)

-- DESIGN CHOICE, safe: notes/assumptions/6.md.
/-- Draws a value the manual leaves open (R6). -/
def drawFree (s : State) : U64 × State := (Config.freeValue s.draws, { s with draws := s.draws + 1 })

/-- Bytes whose content is not fixed. -/
def drawBytes (s : State) (n : Nat) : List Byte × State :=
  ((List.range n).map (fun i => (Config.freeValue (s.draws + i)).setWidth 8), { s with draws := s.draws + n })

/-- An address lies in one of the ranges. -/
def covered (r : List (Nat × Nat)) (a : Nat) : Bool := r.any (fun e => decide (e.1 ≤ a) && decide (a < e.2))

/-- The ranges without the addresses from lo up to hi. -/
def cutOut (r : List (Nat × Nat)) (lo hi : Nat) : List (Nat × Nat) :=
  (r.map (fun e => [(e.1, min e.2 lo), (max e.1 hi, e.2)])).flatten.filter (fun e => decide (e.1 < e.2))

/-- What a read of bytes b at address a returns: the bytes that are not fixed are drawn anew at every read (R6). -/
def redraw (s : State) (r : List (Nat × Nat)) (a : Nat) (b : List Byte) : List Byte × State :=
  if (List.range b.length).any (fun i => covered r (a + i)) then
    let (f, s) := drawBytes s b.length
    ((b.zip f).mapIdx (fun i e => if covered r (a + i) then e.2 else e.1), s)
  else (b, s)

/-! ### Fit, address map and interleave (R284 to R287) -/

def isBig (p : Part) : Bool := p != .c7206

/-- Physical channels of the fit (Table 0-1). -/
def physChannels (p : Part) : Nat := if isBig p then 48 else 24

/-- Channels in service, C (R287). -/
def channels (s : State) : Nat := physChannels s.part - s.flash.retired.length

/-- Physical numbers of the channels in service, ascending: the index is the logical number (R287). -/
def channelMap (s : State) : List Nat :=
  (List.range (physChannels s.part)).filter (fun c => !s.flash.retired.contains c)

/-- A logical channel lies West when its physical one does (Table 1-2). -/
def channelWest (s : State) (c : Nat) : Bool := (channelMap s).getD c 0 < physChannels s.part / 2

def GiB : Nat := 2 ^ 30

/-- M, the capacity in effect (R284). -/
def capacity (s : State) : Nat := (18 * GiB) * channels s

/-- First address of the firmware area: the last GiB of the space below M (R284). -/
def firmwareArea (s : State) : Nat := GiB * (18 * channels s - 1)

/-- The channel and the channel offset of a device address (R286). -/
def place (a c : Nat) : Nat × Nat :=
  let g := a / 256
  let q := g / c
  let r := g % c
  let f := (q + q / 2 ^ 6 + q / 2 ^ 12 + q / 2 ^ 18 + q / 2 ^ 24) % c
  ((r + f) % c, q * 256 + a % 256)

def channelOf (s : State) (a : Nat) : Nat := (place a (channels s)).1

/-- Where an offset of a channel lies in the address space: the inverse of `place` (R286 is one-to-one). -/
def unplace (ch o c : Nat) : Nat :=
  let q := o / 256
  let f := (q + q / 2 ^ 6 + q / 2 ^ 12 + q / 2 ^ 18 + q / 2 ^ 24) % c
  let r := (ch + c - f) % c
  (q * c + r) * 256 + o % 256

def sliceBytes : Nat := 2 ^ 21

/-- The slice and offset of a shared slice address (Table 12-2). -/
def sliceAt (a : Nat) : Option (Nat × Nat) :=
  if 0x0100_0000_0000 ≤ a ∧ a < 0x0100_0000_0000 + 128 * sliceBytes then
    some (a % 0x0100_0000_0000 / sliceBytes, a % sliceBytes)
  else none

/-! ### SK256 (R288 to R290) -/

/-- Multiplication by α = 0x02 in GF(2^8) over 0x11D. -/
def gfDouble (a : Byte) : Byte := if a.msb then (a <<< 1) ^^^ 0x1D#8 else a <<< 1

/-- α^n times a. -/
def gfShift (a : Byte) : Nat → Byte
  | 0 => a
  | n + 1 => gfShift (gfDouble a) n

/-- The check symbols of the data symbols and the metadata byte (R288): the remainder of Σ d_j x^(j+3) + meta x^35 by
g(x) = x³ + 0x07 x² + 0x0E x + 0x08, highest power first.  The list holds the symbols from position 35 down to 3. -/
def skRemainder : List Byte → Byte × Byte × Byte → Byte × Byte × Byte
  | [], c => c
  | d :: r, (c0, c1, c2) =>
    let t := d ^^^ c2
    -- t times 0x08, 0x0E and 0x07
    let t2 := gfDouble t
    let t4 := gfDouble t2
    let t8 := gfDouble t4
    skRemainder r (t8, c0 ^^^ (t8 ^^^ t4 ^^^ t2), c1 ^^^ (t4 ^^^ t2 ^^^ t))

/-- A stored word by code position: 36 symbols, checks at 0 to 2, data at 3 to 34, metadata at 35 (R288). -/
def encodeWord (data : List Byte) (md : Byte) : List Byte :=
  let (c0, c1, c2) := skRemainder (md :: data.reverse) (0, 0, 0)
  c0 :: c1 :: c2 :: (data ++ [md])

/-- Where the symbol at code position p lies in a stored word W (R289). -/
def symbolBit (p : Nat) : Nat := if p < 3 then 256 + 8 * p else if p < 35 then 8 * (p - 3) else 280

/-- The symbol of an upset pattern at code position p. -/
def upsetAt (e : Upset) (p : Nat) : Byte := e.extractLsb' (symbolBit p) 8

/-- An upset of one symbol. -/
def upsetSymbol (p : Nat) (v : Byte) : Upset := (BitVec.zeroExtend 288 v) <<< symbolBit p

/-- S_k = Σ_p c_p α^(kp) (R290), by Horner's rule from the highest position. -/
def syndrome (k : Nat) (c : List Byte) : Byte := c.reverse.foldl (fun acc x => gfShift acc k ^^^ x) 0

/-- What a read finds (R290). -/
inductive Decoded where
  | clean
  | corrected (pos : Nat) (s0 : Byte)
  | uncorrectable (s0 : Byte)
  deriving DecidableEq, Repr

/-- R290 over a word of len symbols: the position is the p with S1 = S0 α^p, which with S1² = S0 S2 gives S2 = S1 α^p. -/
def decodeWord (c : List Byte) : Decoded :=
  let s0 := syndrome 0 c
  let s1 := syndrome 1 c
  let s2 := syndrome 2 c
  if s0 = 0 ∧ s1 = 0 ∧ s2 = 0 then .clean
  else if s0 = 0 ∨ s1 = 0 ∨ s2 = 0 then .uncorrectable s0
  else match (List.range c.length).find? (fun p => gfShift s0 p == s1 && gfShift s1 p == s2) with
    | some p => .corrected p s0
    | none => .uncorrectable s0

/-! ### Bytes of the memories -/

-- DESIGN CHOICE, unsafe: notes/assumptions/10.md.
/-- Device memory, host memory and the slices read as zero where nothing is listed: device memory by R368, slices by
R308, host memory by the log. -/
def memDefault : Nat → Byte := fun _ => 0

def readCells (m : List Host.Cell) (a : Nat) : Nat → List Byte
  | 0 => []
  | n + 1 => tget memDefault m a :: readCells m (a + 1) n

def writeCells (m : List Host.Cell) (a : Nat) : List Byte → List Host.Cell
  | [] => m
  | b :: r => writeCells (tset memDefault m a b) (a + 1) r

/-- The canonical form of a memory. -/
def memWf (m : List Host.Cell) : Bool := tableWf memDefault m

/-- Plain data of device memory, host memory and slice memory; bytes written are fixed from then on. -/
def peekDev (s : State) (a n : Nat) : List Byte := readCells s.mem a n
def pokeDev (s : State) (a : Nat) (b : List Byte) : State := { s with mem := writeCells s.mem a b }
def readHost (s : State) (a n : Nat) : List Byte := readCells s.hostMem a n
def writeHost (s : State) (a : Nat) (b : List Byte) : State :=
  { s with hostMem := writeCells s.hostMem a b, unfixedHost := cutOut s.unfixedHost a (a + b.length) }
def fixDev (s : State) (a n : Nat) : State := { s with unfixedDev := cutOut s.unfixedDev a (a + n) }

def errOf (s : State) (w : Nat) : Upset := tget (fun _ => 0) s.memErr w
def setErr (s : State) (w : Nat) (v : Upset) : State := { s with memErr := tset (fun _ => 0) s.memErr w v }

/-- POISON and VERSION of a metadata byte (R291). -/
def poisonBit (m : Byte) : Bool := m.getLsbD 0
def versionBits (m : Byte) : Nat := bits m.toNat 1 2
def mkMeta (poison : Bool) (version : Nat) : Byte := BitVec.ofNat 8 ((if poison then 1 else 0) + 2 * (version % 4))

/-- The tag of a word of device memory where nothing else is listed: the firmware area's, that of the newest rewritten range
that holds it, or plaintext (R298, R299). -/
def implicitTag (s : State) (a : Nat) : Tag :=
  if firmwareArea s ≤ a then { md := mkMeta false (if s.areaSealed then 1 else 0) }
  else match s.ranges.find? (fun r => decide (r.lo ≤ a) && decide (a < r.hi)) with
    | some r => r.tag
    | none => {}

def tagOf (s : State) (w : Nat) : Tag := (tget (fun _ => none) s.memMeta w).getD (implicitTag s (w * 32))
def setTag (s : State) (w : Nat) (t : Tag) : State :=
  { s with memMeta := tset (fun _ => none) s.memMeta w (if t = implicitTag s (w * 32) then none else some t) }

/-- The metadata byte of word w. -/
def metaOf (s : State) (w : Nat) : Byte := (tagOf s w).md

/-- The function whose partition holds an address, lowest number first (R243). -/
def ownerOf (s : State) (a : Nat) : Option Nat :=
  (List.range 16).find? (fun f =>
    let c := fnOf s f
    c.memBase.toNat ≤ a && a ≤ c.memLimit.toNat && !(c.memBase == 0#64 && c.memLimit == 0#64))

/-- The tag of a word written now at address a (R298): plaintext, or the current generation of what holds it. -/
def writeTag (s : State) (a : Nat) (poison : Bool) : Tag :=
  if firmwareArea s ≤ a then { md := mkMeta poison (if s.areaSealed && s.areaKey then 1 else 0) }
  else match ownerOf s a with
    | some f => { md := mkMeta poison (sealOf s f).version, key := if (sealOf s f).version = 0 then 0 else (sealOf s f).key }
    | none => { md := mkMeta poison 0 }

/-- A word takes 32 bytes of plain data with valid check symbols, under the tag a write there has now, unpoisoned (R292). -/
def putWord (s : State) (w : Nat) (d : List Byte) (poison : Bool) : State :=
  setErr (setTag (pokeDev s (w * 32) d) w (writeTag s (w * 32) poison)) w 0

/-- The key that VERSION v names at address a: none where it names neither the current nor the previous generation (R298). -/
def sealKey (s : State) (a v : Nat) : Option Nat :=
  if v = 0 then some 0
  else if firmwareArea s ≤ a then (if s.areaKey && v == 1 then some 0 else none)
  else match ownerOf s a with
    | some f => if v = (sealOf s f).version then some (sealOf s f).key else if v = (sealOf s f).previous then some (sealOf s f).prevKey else none
    | none => none

/-! ### The context table (R276, R284) -/

def CtxState.code : CtxState → Nat
  | .free => 0
  | .parked => 1
  | .resident => 2
  | .running => 3
  | .faulted => 4

/-- The 128 bytes of a descriptor (Table 11-9). -/
def ctxBytes (c : Ctx) : List Byte :=
  toLE 1 (CtxState.code c.state) ++ toLE 1 (if c.bsi16 then 1 else 0) ++ toLE 1 c.width ++ toLE 1 c.fn ++ toLE 2 c.n ++ toLE 2 c.np
    ++ toLE 1 (unsigned 8 c.eMax) ++ toLE 1 (unsigned 8 c.eH) ++ [c.fault] ++ toLE 1 0 ++ toLE 2 c.tile ++ toLE 1 c.lane ++ toLE 1 c.frame
    ++ toLE 8 c.imageAddr ++ toLE 8 c.imageBytes ++ toLE 8 c.csetAddr ++ toLE 8 c.csetBytes ++ toLE 8 c.stateAddr ++ toLE 8 c.lastRun.toNat
    ++ toLE 8 c.runs ++ toLE 56 0

/-- Device address of the descriptor of a global context number: the table fills the first 512 MiB of the firmware area. -/
def ctxAddr (s : State) (c : Nat) : Nat := firmwareArea s + 128 * c

-- DESIGN CHOICE, unsafe: notes/assumptions/150.md.
/-- The front end changes a descriptor, and writes its four words to the table. -/
def setCtx (s : State) (c : Nat) (v : Ctx) : State :=
  let t := { s with ctxs := tset (fun _ => {}) s.ctxs c v }
  let w := ctxAddr s c / 32
  (List.range 4).foldl (fun t i => putWord t (w + i) (((ctxBytes v).drop (32 * i)).take 32) false) t

end Sys2Proof.Machine
end

