-- ==== Sys2Proof/Machine/Fp.lean ====
section
/-! DEFINITION. Numbers of the tensor tiles and the tables of fixed values: FP32 by exact dyadic values rounded to nearest even and
flushed below 2^-126 (R162, R164, R174, Table 7-3), the MX element formats (R159 to R163), the noise table L (R97) and T (R179). -/

namespace Sys2Proof.Machine

/-! ### FP32 -/

/-- A value: NaN, an infinity, or (-1)^neg × m × 2^e. -/
inductive FV where
  | nan
  | inf (neg : Bool)
  | fin (neg : Bool) (m : Nat) (e : Int)
  deriving DecidableEq, Repr

/-- m / 2^k to the nearest integer, ties to even; m × 2^-k for k ≤ 0. -/
def rneShift (m : Nat) (k : Int) : Nat :=
  if k ≤ 0 then m * 2 ^ (-k).toNat
  else
    let d := 2 ^ k.toNat
    let q := m / d
    let r := m % d
    if 2 * r < d ∨ (2 * r = d ∧ q % 2 = 0) then q else q + 1

/-- An FP32 pattern as a descriptor reads it: subnormals are zeros (Table 7-3). -/
def ofF32 (v : Nat) : FV :=
  let neg := bits v 31 1 == 1
  let e := bits v 23 8
  let f := bits v 0 23
  if e = 255 then (if f = 0 then .inf neg else .nan) else if e = 0 then .fin neg 0 0 else .fin neg (2 ^ 23 + f) ((e : Int) - 150)

def signBit (neg : Bool) : Nat := if neg then 2 ^ 31 else 0
def canonicalNaN : Nat := 0x7FC00000

/-- Rounds m × 2^e to p significant bits: mantissa and exponent, the mantissa below 2^p. -/
def roundTo (p m : Nat) (e : Int) : Nat × Int :=
  let k : Int := (Nat.size m : Int) - p
  let r := rneShift m k
  if r = 2 ^ p then (2 ^ (p - 1), e + k + 1) else (r, e + k)

-- DEDUCED, safe: notes/assumptions/56.md.
/-- The FP32 pattern of a value: 24 significant bits, overflow to infinity, a result below 2^-126 flushed with its sign. -/
def toF32 : FV → Nat
  | .nan => canonicalNaN
  | .inf neg => signBit neg + 0x7F800000
  | .fin neg m e =>
    if m = 0 then signBit neg
    else
      let (r, x) := roundTo 24 m e
      if x + 23 < -126 then signBit neg
      else if 127 < x + 23 then signBit neg + 0x7F800000
      else signBit neg + (x + 150).toNat * 2 ^ 23 + r % 2 ^ 23

/-- The BF16 pattern of an FP32 pattern: 8 significant bits. -/
def toBf16 (v : Nat) : Nat :=
  match ofF32 v with
  | .nan => 0x7FC0
  | .inf neg => (signBit neg + 0x7F800000) / 2 ^ 16
  | .fin neg m e =>
    if m = 0 then signBit neg / 2 ^ 16
    else
      let (r, x) := roundTo 8 m e
      if x + 7 < -126 then signBit neg / 2 ^ 16
      else if 127 < x + 7 then (signBit neg + 0x7F800000) / 2 ^ 16
      else (signBit neg + (x + 134).toNat * 2 ^ 23) / 2 ^ 16 + r % 2 ^ 7

/-- A signed integer scaled by 2^e. -/
def FV.ofInt (v : Int) (e : Int) : FV := .fin (decide (v < 0)) v.natAbs e

/-- Exact sum. -/
def FV.add : FV → FV → FV
  | .nan, _ => .nan
  | _, .nan => .nan
  | .inf a, .inf b => if a = b then .inf a else .nan
  | .inf a, _ => .inf a
  | _, .inf b => .inf b
  | .fin a m e, .fin b n f =>
    if m = 0 ∧ n = 0 then .fin (a && b) 0 0
    else
      let g := min e f
      let x : Int := (if a then -1 else 1) * (m * 2 ^ (e - g).toNat : Nat)
      let y : Int := (if b then -1 else 1) * (n * 2 ^ (f - g).toNat : Nat)
      FV.ofInt (x + y) g

def FV.neg : FV → FV
  | .nan => .nan
  | .inf a => .inf (!a)
  | .fin a m e => .fin (!a) m e

def FV.isZero : FV → Bool
  | .fin _ m _ => m == 0
  | _ => false

/-- Exact product, IEEE 754. -/
def FV.mul : FV → FV → FV
  | .nan, _ => .nan
  | _, .nan => .nan
  | .inf a, .inf b => .inf (a != b)
  | .inf a, .fin b n _ => if n = 0 then .nan else .inf (a != b)
  | .fin a m _, .inf b => if m = 0 then .nan else .inf (a != b)
  | .fin a m e, .fin b n f => .fin (a != b) (m * n) (e + f)

/-- A product of the arrays: +0 when either element is zero (R164). -/
def FV.product (x y : FV) : FV := if FV.isZero x || FV.isZero y then .fin false 0 0 else FV.mul x y

/-- A quotient with 60 bits and a sticky bit, which rounds as the exact one. -/
def FV.div : FV → FV → FV
  | .nan, _ => .nan
  | _, .nan => .nan
  | .inf _, .inf _ => .nan
  | .inf a, .fin b _ _ => .inf (a != b)
  | .fin a _ _, .inf b => .fin (a != b) 0 0
  | .fin a m e, .fin b n f =>
    if n = 0 then (if m = 0 then .nan else .inf (a != b))
    else if m = 0 then .fin (a != b) 0 0
    else
      let s := 60 + Nat.size n
      let q := m * 2 ^ s / n
      let r := m * 2 ^ s % n
      .fin (a != b) (2 * q + (if r = 0 then 0 else 1)) (e - f - s - 1)

def addF (a b : Nat) : Nat := toF32 (FV.add (ofF32 a) (ofF32 b))
def subF (a b : Nat) : Nat := toF32 (FV.add (ofF32 a) (FV.neg (ofF32 b)))
def mulF (a b : Nat) : Nat := toF32 (FV.mul (ofF32 a) (ofF32 b))
def divF (a b : Nat) : Nat := toF32 (FV.div (ofF32 a) (ofF32 b))
def oneF : Nat := 0x3F800000

def isNaNF (v : Nat) : Bool := bits v 23 8 == 255 && bits v 0 23 != 0

/-- A flushed pattern. -/
def flushF (v : Nat) : Nat := toF32 (ofF32 v)

/-- An order key: numbers in their order, -0 below +0. -/
def orderF (v : Nat) : Int := if bits v 31 1 = 1 then -(bits v 0 31 : Int) - 1 else bits v 0 31

/-- Order of numbers with equal zeros. -/
def numF (v : Nat) : Int := if bits v 31 1 = 1 then -(bits v 0 31 : Int) else bits v 0 31

/-- The larger or smaller of two, NaN winning and +0 above -0 (R175). -/
def maxF (a b : Nat) : Nat := if isNaNF a || isNaNF b then canonicalNaN else if orderF a < orderF b then b else a
def minF (a b : Nat) : Nat := if isNaNF a || isNaNF b then canonicalNaN else if orderF b < orderF a then b else a

/-! ### Element formats (Table 7-2) -/

/-- Exponent bits, mantissa bits and bias of a float element format. -/
def miniFmt (f : Nat) : Nat × Nat × Nat :=
  if f = 2 then (4, 3, 7) else if f = 3 then (5, 2, 15) else if f = 4 then (2, 3, 1) else if f = 5 then (3, 2, 3) else (2, 1, 1)

/-- e_max of a format. -/
def fmtEmax (f : Nat) : Int := if f = 2 then 8 else if f = 3 then 15 else if f = 4 then 2 else if f = 5 then 4 else if f = 6 then 2 else 0

/-- The value of an element code without its scale. -/
def elemValue (f c : Nat) : FV :=
  if f = 0 then ofF32 c
  else if f = 1 then ofF32 (c * 2 ^ 16)
  else if f = 7 then FV.ofInt (signed 8 c) (-6)
  else if f = 8 then FV.ofInt (signed 4 c) (-2)
  else
    let (eb, mb, bias) := miniFmt f
    let neg := bits c (eb + mb) 1 == 1
    let e := bits c mb eb
    let m := bits c 0 mb
    if f = 2 ∧ e = 15 ∧ m = 7 then .nan
    else if f = 3 ∧ e = 31 then (if m = 0 then .inf neg else .nan)
    else if e = 0 then .fin neg m (1 - (bias : Int) - mb) else .fin neg (2 ^ mb + m) ((e : Int) - bias - mb)

/-- With the scale byte of its block; a zero element stays zero whatever the scale (R164). -/
def scaled (v : FV) (k : Nat) : FV :=
  if FV.isZero v then v
  else if k = 255 then .nan
  else match v with
    | .fin n m e => .fin n m (e + k - 127)
    | x => x

/-- Largest finite element of a float format, as mantissa and exponent, and its code without sign. -/
def fmtLargest (f : Nat) : Nat :=
  if f = 2 then 0x7E else if f = 3 then 0x7B else if f = 4 then 0x1F else if f = 5 then 0x1F else 0x7

/-- A magnitude m × 2^e in a format's code without sign, and whether it saturated (R163 step 6). -/
def encodeMag (f m : Nat) (e : Int) : Nat × Bool :=
  if m = 0 then (0, false)
  else if f = 7 ∨ f = 8 then
    let lim := if f = 7 then 127 else 7
    let r := rneShift m (-(e + (if f = 7 then 6 else 2)))
    (min r lim, decide (lim < r))
  else
    let (_, mb, bias) := miniFmt f
    let top : Int := (Nat.size m : Int) - 1 + e
    let emin : Int := 1 - (bias : Int)
    let step := max top emin - mb
    let r := rneShift m (step - e)
    -- r counts steps of 2^step; a carry to the next binade is the next code
    let code := ((max top emin - emin).toNat * 2 ^ mb + r)
    if fmtLargest f < code then (fmtLargest f, true) else (code, false)

/-- An element of a format, sign kept. -/
def encodeElem (f : Nat) (neg : Bool) (m : Nat) (e : Int) : Nat × Bool :=
  let (c, sat) := encodeMag f m e
  if f = 7 then ((if neg then (256 - c) % 256 else c), sat)
  else if f = 8 then ((if neg then (16 - c) % 16 else c), sat)
  else
    let (eb, mb, _) := miniFmt f
    (c + (if neg then 2 ^ (eb + mb) else 0), sat)

/-- R163: a block of FP32 patterns to scale byte and element codes, with the elements saturated and whether it is non-finite. -/
def encodeBlock (f : Nat) (vs : List Nat) : Nat × List Nat × Nat × Bool :=
  let xs := vs.map ofF32
  let bad := xs.any (fun v => match v with
    | .fin _ _ _ => false
    | _ => true)
  if bad then (255, vs.map (fun _ => 0), 0, true)
  else
    let tops := xs.filterMap (fun v => match v with
      | .fin _ m e => if m = 0 then none else some ((Nat.size m : Int) - 1 + e)
      | _ => none)
    let x : Int := match tops with
      | [] => -127
      | t :: r => max (-127) (min 127 (r.foldl max t - fmtEmax f))
    let es := xs.map (fun v => match v with
      | .fin n m e => encodeElem f n m (e - x)
      | _ => (0, false))
    ((x + 127).toNat, es.map (·.1), (es.filter (·.2)).length, false)

/-! ### The noise table (R97) and T (R179) -/

def fixedOne : Nat := 2 ^ 96

/-- ln 2 in units of 2^-96. -/
def ln2Fixed : Nat := 54916777467707473351141471128

/-- Σ t^(2i+1) / (2i+1), n terms from term k on, p = t^(2k+1) and q = t² in units of 2^-96. -/
def atanhSum (p q k : Nat) : Nat → Nat
  | 0 => 0
  | n + 1 => p / (2 * k + 1) + atanhSum (p * q / fixedOne) q (k + 1) n

/-- L(u) by the series ln x = 2 atanh((x - 1) / (x + 1)); no real value comes near a tie within the series' error. -/
def noiseL (u : Nat) : Nat :=
  let a := 2 * u + 1
  let n := Nat.size a - 1
  let t := (a - 2 ^ n) * fixedOne / (a + 2 ^ n)
  let v := (17 - n) * ln2Fixed - 2 * atanhSum t (t * t / fixedOne) 0 24
  min 4095 ((v * 512 + fixedOne) / (2 * fixedOne))

/-- 2^(2^i / 65,536) in units of 2^-96. -/
def rootTable : List Nat :=
  [ 79229000482219122111440011082, 79229838459036794155212045658, 79231514439261175779748764725, 79234866506068713947867698354
  , 79241571065139888961741854322, 79254981885274639038225885637, 79281810334857995344526032841, 79335494482037593178543608469
  , 79442971854562650309779985388, 79658363602065864296602447411, 80090900639232773493759855183, 80963033366431698391403892407
  , 82735892943544661968409507608, 86398923866664962375130072335, 94218694570555024373110687280, 112045541949572279837463876455 ]

/-- The FP32 value nearest to 2^(j / 65,536). -/
def pow2Table (j : Nat) : Nat :=
  let v := rootTable.zipIdx.foldl (fun v e => if bits j e.2 1 = 1 then v * e.1 / fixedOne else v) fixedOne
  toF32 (.fin false v (-96))

/-- Steps 2 and 3 of R179 on y: 2^⌊y⌋ × T(j), with j of y's fraction. -/
def expOf (y : Nat) : Nat :=
  match ofF32 y with
  | .nan => canonicalNaN
  | .inf neg => if neg then 0 else 0x7F800000
  | .fin neg m e =>
    let v : Int := if neg then -(m : Int) else m
    -- y in units of 2^-16, rounded down: the integer part and j
    let w : Int := if 0 ≤ e + 16 then v * 2 ^ (e + 16).toNat else v / 2 ^ (-(e + 16)).toNat
    match ofF32 (pow2Table (w % 65536).toNat) with
    | .fin _ m e => toF32 (.fin false m (e + w / 65536))
    | _ => canonicalNaN

/-- log2 e in FP32. -/
def log2eF : Nat := 0x3FB8AA3B

end Sys2Proof.Machine
end

