-- ==== Sys2Proof/Machine/Flags.lean ====
section
/-! DEFINITION. What raises a flag outside the command's own data: MSI-X vectors (R358), the page header's error and
interrupt fields (R443, R445, R449), the peat log (R426 to R433), the last-word file (R332), the lifetime store (R434,
R435) and the replacement request (R425). -/

namespace Sys2Proof.Machine

/-! ### Vectors (R358) -/

/-- MSI-X table size of a function (Table 14-6). -/
def tableSize (fn : Nat) : Nat := if fn = 0 then 2048 else 64

-- DEDUCED, safe: notes/assumptions/115.md.
-- DEDUCED, safe: notes/assumptions/176.md.
/-- A request the device sends: held while the link is not in L0 (R339). -/
def sendMsg (s : State) (m : Msg) : State :=
  if s.board.l1.isSome then { s with pcie := { s.pcie with held := s.pcie.held ++ [m] } }
  else { s with pcie := { s.pcie with sent := s.pcie.sent ++ [m] } }

/-- Virtual channel of a traffic class: TC7 rides VC1 when PX_LINK_STATUS shows it (R351). -/
def channelOfClass (s : State) (tc : Nat) : Nat := if tc = 7 ∧ fld s (reg 3500 0x40) 9 1 = 1 then 1 else 0

/-- Barriers and control words go out as TC7, Relaxed Ordering clear (R233). -/
def sendWord (s : State) (a : Nat) (w : Control) : State := sendMsg s (.control a w 7 (channelOfClass s 7) false)
def sendBarrier (s : State) (a : Nat) (b : List Byte) : State := sendMsg s (.posted a b 7 (channelOfClass s 7) false)

/-- Bulk writes go out as TC0, with Relaxed Ordering when Device Control enables it (R233, R350). -/
def sendBulk (s : State) (a : Nat) (b : List Byte) : State :=
  sendMsg s (.posted a b 0 0 (bits s.pcie.devControl 4 1 == 1))

/-- Max Payload Size as programmed, never above 512 (Table 14-7). -/
def maxPayload (s : State) : Nat := min 512 (128 * 2 ^ bits s.pcie.devControl 5 3)

def vectorKey (fn v : Nat) : Nat := 2048 * fn + v
def vectorUnmasked (s : State) (fn v : Nat) : Bool := tget (fun _ => false) s.pcie.unmasked (vectorKey fn v)
def vectorPending (s : State) (fn v : Nat) : Bool := tget (fun _ => false) s.pcie.pending (vectorKey fn v)

/-- Raises a vector of a function (R358). -/
def raiseVector (s : State) (fn v : Nat) : State :=
  if tableSize fn ≤ v then addCount s (reg 3500 0x6C) 1
  else if vectorUnmasked s fn v then sendMsg s (.msix fn v)
  else { s with pcie := { s.pcie with pending := tset (fun _ => false) s.pcie.pending (vectorKey fn v) true } }

/-! ### Reports through AER (R354) -/

/-- An error reported through AER: its status bit, and the header log of four entries. -/
def reportAer (s : State) (fn bit : Nat) (correctable : Bool) : State :=
  let e : AerError := { fn, bit, correctable }
  let aer := if s.pcie.aer.contains e then s.pcie.aer else s.pcie.aer ++ [e]
  { s with pcie := { s.pcie with aer, aerLog := if s.pcie.aerLog.length < 4 then s.pcie.aerLog ++ [e] else s.pcie.aerLog } }

/-! ### The page header (R443 to R449) -/

/-- An instance serves the page (R440). -/
def pageServed (s : State) (page : Nat) : Bool :=
  match pageKind page with
  | none => false
  | some .mc => decide (page - 1024 < channels s)
  | some _ => true

/-- Functions whose view covers a page (R449). -/
def viewers (page : Nat) : List Nat :=
  if page = 3073 ∨ page = 3100 ∨ page = 3201 then List.range 16 else [0]

/-- IRQ_STAT of a page in a function's view: the stored events and ERR (Table 19-2). -/
def irqStat (s : State) (fn page : Nat) : Nat :=
  bits (getReg s fn (reg page 0x10)) 0 16
  + (if (BitVec.ofNat 4 (getReg s fn (reg page 0x18)) &&& ~~~ BitVec.ofNat 4 (getReg s fn (reg page 0x1C))) = 0 then 0 else 2 ^ 16)

/-- A page is pending for a function (R449). -/
def pagePending (s : State) (fn page : Nat) : Bool :=
  (fn == 0 || (viewers page).length == 16) && pageServed s page
  && decide (Nat.land (irqStat s fn page) (getReg s fn (reg page 0x14)) ≠ 0)

/-- GL_IRQ_CTRL.ENABLE and GL_IRQ_VECTOR of a view; the physical function's vector is PX_EVT_VECTOR (Table 19-6). -/
def irqEnabled (s : State) (fn : Nat) : Bool := bits (getReg s fn (reg 2 0x40)) 0 1 == 1
def irqVector (s : State) (fn : Nat) : Nat :=
  if fn = 0 then fld s (reg 3500 0x60) 0 11 else bits (getReg s fn (reg 2 0x44)) 0 11

/-- One message for each view in which the page has gone from not pending to pending (R449). -/
def pageEdges (before after : State) (page : Nat) : State :=
  (viewers page).foldl (fun t fn =>
    if !pagePending before fn page && pagePending after fn page && irqEnabled after fn then raiseVector t fn (irqVector after fn)
    else t) after

/-- Stores a header register of a page from the device's side, with the message it causes. -/
def setHeader (s : State) (fn page off v : Nat) : State := pageEdges s (setReg s fn (reg page off) v) page

/-- Sets bits of ERR_STAT. -/
def setErrStat (s : State) (page m : Nat) : State :=
  setHeader s 0 page 0x18 (Nat.lor (getReg s 0 (reg page 0x18)) m)

/-- Sets bits of IRQ_STAT.EVENT. -/
def setEvent (s : State) (fn page m : Nat) : State :=
  setHeader s fn page 0x10 (Nat.lor (getReg s fn (reg page 0x10)) m)

/-- One corrected, one uncorrectable error of a page (R445). -/
def countCE (s : State) (page : Nat) : State := setErrStat (addSat s (reg page 0x20) 1) page 1
def countUE (s : State) (page : Nat) : State := setErrStat (addSat s (reg page 0x24) 1) page 2

/-- n corrected errors of a page. -/
def countCEs (s : State) (page n : Nat) : State := if n = 0 then s else setErrStat (addSat s (reg page 0x20) n) page 1

def healthAbsent : Nat := 0
def healthGood : Nat := 1
def healthDegraded : Nat := 2
def healthFaulted : Nat := 3

/-- HEALTH of a page; a change sets HEALTH_CHANGE (R445). -/
def setHealth (s : State) (page v : Nat) : State :=
  if getReg s 0 (reg page 0x28) = v then s else setErrStat (setReg s 0 (reg page 0x28) v) page 8

/-- HEALTH that DEGRADED names, unless the page is FAULTED already. -/
def degrade (s : State) (page : Nat) : State :=
  if getReg s 0 (reg page 0x28) = healthFaulted then s else setHealth s page healthDegraded

/-! ### The last-word file (R332) -/

/-- Writes one last-word entry. -/
def lastWord (s : State) (code : Nat) : State :=
  let e : U64 := BitVec.ofNat 64 (code % 2 ^ 16 + 2 ^ 16 * (s.tw.count.toNat % 2 ^ 48))
  { s with tw := { s.tw with lw := s.tw.lw.set s.tw.lwNext e, lwNext := (s.tw.lwNext + 1) % 8, lwSeq := s.tw.lwSeq + 1 } }

/-! ### Engines and their pages -/

def EngineClass.no : EngineClass → Nat
  | .anneal => 1
  | .tensor => 2
  | .constraint => 3

/-- Logical instances of a class, and spares of it in one half (Table 1-1). -/
def EngineClass.logical : EngineClass → Nat
  | .anneal => 96
  | .tensor => 24
  | .constraint => 48

def EngineClass.spares : EngineClass → Nat
  | .anneal => 4
  | .tensor => 1
  | .constraint => 2

/-- Physical instances of one half. -/
def EngineClass.physHalf (c : EngineClass) : Nat := EngineClass.logical c / 2 + EngineClass.spares c

/-- First BAR0 page of a class (Table 19-1), and its Table 19-3 code. -/
def EngineClass.page : EngineClass → Nat
  | .anneal => 256
  | .tensor => 512
  | .constraint => 768

def EngineClass.blockType : EngineClass → Nat
  | .anneal => 0x10
  | .tensor => 0x11
  | .constraint => 0x12

def engineKey (c : EngineClass) (n : Nat) : Nat := EngineClass.no c * 256 + n

/-- The physical instance that serves a logical one when none has failed: each half's spares follow its own instances. -/
def homePhys (c : EngineClass) (l : Nat) : Nat :=
  if l < EngineClass.logical c / 2 then l else l + EngineClass.spares c

def homeMap (k : Nat) : EngineMap :=
  { phys := homePhys (if k / 256 = 1 then .anneal else if k / 256 = 2 then .tensor else .constraint) (k % 256) }

def mapOf (s : State) (c : EngineClass) (l : Nat) : EngineMap := tget homeMap s.maps (engineKey c l)
def setMap (s : State) (c : EngineClass) (l : Nat) (m : EngineMap) : State :=
  { s with maps := tset homeMap s.maps (engineKey c l) m }

/-- Free good physical instances of a class in a half: not retired, and serving no logical instance (R17, R413). -/
def freePhys (s : State) (c : EngineClass) (east : Bool) : List Nat :=
  let lo := if east then EngineClass.physHalf c else 0
  let used := (List.range (EngineClass.logical c)).map (fun l => (mapOf s c l).phys)
  ((List.range (EngineClass.physHalf c)).map (· + lo)).filter
    (fun p => !s.retiredEngines.contains (engineKey c p) && !used.contains p)

def classes : List EngineClass := [.anneal, .tensor, .constraint]

/-- Folded logical instances, GL_SPARES.FOLDS: the guests. -/
def folds (s : State) : Nat :=
  (classes.map (fun c => ((List.range (EngineClass.logical c)).filter (fun l => (mapOf s c l).guest)).length)).sum

/-- SPARES_OUT holds (Table 18-3). -/
def sparesOut (s : State) : Bool :=
  classes.any (fun c => (freePhys s c false).isEmpty || (freePhys s c true).isEmpty)
  || s.spareCores.isEmpty || folds s != 0

/-- BLOCK_ID (Table 19-2, R444). -/
def blockId (ty logical phys : Nat) : Nat := 2 ^ 24 * ty + 4096 * (logical % 4096) + phys % 4096
def engineBlock (s : State) (c : EngineClass) (l : Nat) : Nat :=
  blockId (EngineClass.blockType c) l (mapOf s c l).phys
def channelBlock (ch : Nat) : Nat := blockId 0x20 ch ch

/-! ### The peat log (R426 to R433) -/

/-- Severity of an event code (Table 18-5). -/
def severityOf (code : Nat) : Nat :=
  if code ∈ [0x204, 0x303, 0x402, 0x601, 0x603, 0x702, 0xB01] then 1
  else if code = 0x101 then 2
  else if code ∈ [0x103, 0x104, 0x106, 0x202, 0x203, 0x205, 0x301, 0x501, 0xC01] then 3
  else if code ∈ [0x602, 0x701, 0xB02] then 5
  else 4

/-- The SEQ after another (R426). -/
def nextSeq (q : U32) : U32 := if q = 0xFFFFFFFF#32 then 1 else q + 1

/-- Puts a record into the layers: the surface keeps the last 8,192, the deep layer its first 512, and what goes deep, or
comes in FLASH_DIRECT, goes to flash at once (R427, R428, R433). -/
def pushRecord (p : Peat) (r : LogRec) : Peat :=
  let surface := p.surface ++ [r]
  let surface := surface.drop (surface.length - 8192)
  let deep := if p.deep.length < 512 then p.deep ++ [r] else p.deep
  { p with seq := r.seq, surface, deep, flashDeep := deep, flashSurface := if p.direct then surface else p.flashSurface }

/-- Makes a record of an event with the next SEQ and the storm count of its code, which returns to 0 (R432). -/
def makeRecord (s : State) (r : LogRec) : LogRec :=
  let st := (s.peat.storms.find? (fun e => e.1 == r.code)).map (fun e => e.2.count)
  { r with seq := nextSeq s.peat.seq, storm := BitVec.ofNat 32 (st.getD 0), flags := r.flags % 2 + (if s.peat.direct then 2 else 0) }

/-- Writes a record unconditionally. -/
def writeRecord (s : State) (r : LogRec) : State :=
  let p := pushRecord s.peat (makeRecord s r)
  { s with peat := { p with storms := tdel p.storms r.code } }

/-- Counts an event that the limits suppress (R432). -/
def suppress (s : State) (r : LogRec) : State :=
  let st := match (s.peat.storms.find? (fun e => e.1 == r.code)).map (·.2) with
    | some o => { o with count := satAdd 32 o.count 1, last := r }
    | none => { count := 1, last := r, since := s.us }
  { s with peat := { s.peat with storms := tput s.peat.storms r.code st } }

/-- The event's record before it has a SEQ. -/
def eventRecord (s : State) (block code fn : Nat) (payload : List Byte) : LogRec :=
  { seq := 0, block := BitVec.ofNat 32 block, time := deviceTime s, code, severity := severityOf code, flags := 0, storm := 0,
    fn, payload := (payload ++ List.replicate 32 0).take 32 }

/-- The source of a record: the type and the physical instance of its BLOCK (R432). -/
def sourceOf (block : Nat) : Nat := block / 2 ^ 24 * 4096 + block % 4096

-- DEDUCED, unsafe: notes/assumptions/135.md.
/-- An event of a source block: at most one record per 10 µs from one source (R432), and in FLASH_DIRECT at most one per
1 ms over all (R433). -/
def logEvent (s : State) (block code fn : Nat) (payload : List Byte) : State :=
  let r := eventRecord s block code fn payload
  let exempt := code == 0xB01 || code == 0xB02 || severityOf code == 5
  let limited := match (s.peat.lastBy.find? (fun e => e.1 == sourceOf block)).map (·.2) with
    | some t => decide (s.us < t + 10)
    | none => false
  let slow := s.peat.direct && decide (s.us < s.peat.lastDirect + 1000)
  if (limited || slow) && !exempt then suppress s r
  else
    let s := writeRecord s r
    { s with peat := { s.peat with lastBy := tput s.peat.lastBy (sourceOf block) s.us, lastDirect := if s.peat.direct then s.us else s.peat.lastDirect } }

def noFn : Nat := 0xFF

/-! ### The replacement request and the lifetime store (R425, R434, R435) -/

/-- A cause of the replacement request comes to hold: bit 1 SPARES_OUT, 2 CHANNEL_RETIRED, 3 LIFETIME of GL_HEALTH. -/
def raiseReplace (s : State) (bit : Nat) : State :=
  if fld s (reg 1 0x40) bit 1 = 1 then s
  else
    let s := setFld (setFld s (reg 1 0x40) 0 1 1) (reg 1 0x40) bit 1 1
    let s := { s with tw := { s.tw with svcLed := true, causes := fld s (reg 1 0x40) 1 3 }
                      flash := { s.flash with channelCause := s.flash.channelCause || bit == 2, lifetimeCause := s.flash.lifetimeCause || bit == 3 } }
    let s := logEvent s (blockId 0x01 1 1) 0xC01 noFn (toLE 1 (fld s (reg 1 0x40) 1 3))
    lastWord s 0x0102

def lifeOf (s : State) (i : Nat) : Nat := (tget (fun _ => 0) s.lifetime i).toNat
def lifeSum (s : State) (lo n : Nat) : Nat := ((List.range n).map (fun i => lifeOf s (lo + i))).sum

/-- The threshold of each bit of GL_LIFETIME_CAUSE (Table 18-7). -/
def lifeThreshold : Nat → Nat
  | 0 => 5256000
  | 1 => 50000
  | 2 => 600000
  | 3 => 1000000000
  | _ => 32

/-- The quantity that bit compares with it. -/
def lifeMeasure (s : State) : Nat → Nat
  | 0 => lifeSum s 0 12 / 2
  | 1 => lifeOf s 12
  | 2 => lifeSum s 37 9
  | 3 => ((List.range 48).map (fun i => lifeOf s (110 + i))).foldl max 0
  | _ => lifeSum s 158 4

/-- Crossed thresholds raise LIFETIME (R435). -/
def checkLifetime (s : State) : State :=
  let c := (List.range 5).foldl (fun acc b => if lifeThreshold b ≤ lifeMeasure s b then Nat.lor acc (2 ^ b) else acc) 0
  if c = 0 then s
  else raiseReplace (setReg s 0 (reg 1 0x48) (Nat.lor (getReg s 0 (reg 1 0x48)) c)) 3

/-- Adds to a lifetime entry (R434). -/
def addLife (s : State) (i n : Nat) : State :=
  checkLifetime { s with lifetime := tset (fun _ => 0) s.lifetime i (BitVec.ofNat 64 (lifeOf s i + n)) }

end Sys2Proof.Machine
end

