-- ==== Sys2Proof/Machine/Access.lean ====
section
/-! DEFINITION. Reads and writes of device memory word by word as the channel controllers make them: decoding (R290),
write-back (R293), poison (R292), injection (R481), the row fault record (R296), sealing versions (R298), the counters of
the MC_ page (R310), and spans of bytes over it, host memory and the hole (R285). -/

namespace Sys2Proof.Machine

/-- Page of a logical channel. -/
def channelPage (ch : Nat) : Nat := 1024 + ch

/-- The block of a page lies in the East half (Table 1-2, R287, R300). -/
def pageEast (s : State) (page : Nat) : Bool :=
  if 256 ≤ page ∧ page < 352 then decide (304 ≤ page)
  else if 512 ≤ page ∧ page < 536 then decide (524 ≤ page)
  else if 768 ≤ page ∧ page < 816 then decide (792 ≤ page)
  else if 1024 ≤ page ∧ page < 1072 then !channelWest s (page - 1024)
  else if 1280 ≤ page ∧ page < 1408 then decide (1344 ≤ page)
  else false

/-- The East half is parked, or not yet back. -/
def eastDown (s : State) : Bool := decide (2 ≤ fld s (reg 4 0x70) 0 2)

/-- A BAR0 access to this page meets a parked block (R442). -/
def pageParked (s : State) (page : Nat) : Bool := eastDown s && pageEast s page

/-- One access discarded, counted in PX_DISCARD_CNT. -/
def discard (s : State) : State := addCount s (reg 3500 0x54) 1

/-- Logical channel and channel offset of word w (device address >> 5). -/
def wordPlace (s : State) (w : Nat) : Nat × Nat := place (w * 32) (channels s)

/-- Physical number of a logical channel (R287). -/
def physChannel (s : State) (ch : Nat) : Nat := (channelMap s).getD ch 0

/-- The DRAM row of a word: channel, aligned 4 KiB range of channel offset, subchannel (R283). -/
def rowKey (s : State) (w : Nat) : Nat :=
  let (ch, o) := wordPlace s w
  (2 ^ 23 * physChannel s ch + o / 4096) * 2 + (o / 32) % 2

/-- Data of a word as stored, without its errors. -/
def wordData (s : State) (w : Nat) : List Byte := peekDev s (w * 32) 32

/-- Data symbols of a word as they stand in memory: encrypted under its key unless its VERSION is 0 (R298). -/
def wordSymbols (s : State) (w : Nat) : List Byte :=
  if versionBits (metaOf s w) = 0 then wordData s w
  else toLE 32 (Config.xtsEncrypt (tagOf s w).key w (BitVec.ofNat 256 (ofLE (wordData s w)))).toNat

/-- The stored codeword of a word: the encoding of its symbols and metadata, disturbed by its error pattern (R288, R289). -/
def storedWord (s : State) (w : Nat) : List Byte :=
  let e := errOf s w
  (encodeWord (wordSymbols s w) (metaOf s w)).mapIdx (fun p c => c ^^^ upsetAt e p)

-- DEDUCED, safe: notes/assumptions/151.md.
/-- DQ pin and beat of a burst (R283): pin i carries symbol 3i + k of a stored word in beats 8k to 8k + 7, a bit a beat.  The symbol and
its bit. -/
def burstPlace (pin beat : Nat) : Nat × Nat := (3 * pin + beat / 8, beat % 8)

/-- The bit of a stored word W that a pin carries in a beat; symbols are numbered as W holds them, eight bits each (R289). -/
def burstBit (pin beat : Nat) : Nat := 8 * (burstPlace pin beat).1 + (burstPlace pin beat).2

/-- The upset that faults of one pin in some of the 24 beats make. -/
def pinUpset (pin : Nat) (beats : List Nat) : Upset := beats.foldl (fun u b => u ^^^ BitVec.ofNat 288 (2 ^ burstBit pin b)) 0

/-- What a read of the word finds (R290); a word with no error pattern is a codeword. -/
def checkWord (s : State) (w : Nat) : Decoded :=
  if errOf s w = 0 then .clean else decodeWord (storedWord s w)

-- DESIGN CHOICE, safe: notes/assumptions/13.md.
/-- Makes a word what its disturbed codeword, with S0 added at position p when the read was corrected, now says, and drops
its error pattern.  A sealed word whose symbols are not those written says what they decrypt to. -/
def settleWord (s : State) (w : Nat) (fix : Option (Nat × Byte)) : State :=
  let c := storedWord s w
  let c := match fix with
    | some (p, v) => c.mapIdx (fun i x => if i = p then x ^^^ v else x)
    | none => c
  let d := (c.drop 3).take 32
  let m := c.getD 35 0
  let same := decide (d = wordSymbols s w) && versionBits m == versionBits (metaOf s w)
  let d := if versionBits m = 0 then d
    else if same then wordData s w
    else toLE 32 (Config.xtsDecrypt (tagOf s w).key w (BitVec.ofNat 256 (ofLE d))).toNat
  setErr (setTag (pokeDev s (w * 32) d) w { tagOf s w with md := m }) w 0

-- DEDUCED, unsafe: notes/assumptions/92.md.
/-- Poison: data 0, POISON = 1 and valid check symbols (R292), under the version a write there has now. -/
def poisonWord (s : State) (w : Nat) : State := fixDev (putWord s w (List.replicate 32 0) true) (w * 32) 32

/-- MC_ERR_ADDR and MC_ERR_INFO (Table 12-4). -/
def setErrInfo (s : State) (ch w pos : Nat) (ue scrub : Bool) (s0 : Byte) : State :=
  let p := reg (channelPage ch)
  set64 (setReg s 0 (p 0x50) (pos % 64 + (if ue then 64 else 0) + (if scrub then 128 else 0) + s0.toNat * 256)) (p 0x48) (w * 32)

def markRowFaulty (s : State) (k : Nat) : State :=
  if s.faultyRows.contains k then s else { s with faultyRows := s.faultyRows ++ [k] }

/-- A corrected read of a word: the write-back, the counts and the record (R293, R296, R412). -/
def onCorrected (s : State) (w pos : Nat) (s0 : Byte) (scrub : Bool) : State :=
  let ch := (wordPlace s w).1
  let injected := s.injected.contains w
  let again := s.rewritten.contains w
  let s := settleWord s w (some (pos, s0))
  let s := { s with injected := s.injected.filter (· != w) }
  let s := countCE (setErrInfo s ch w pos false scrub s0) (channelPage ch)
  let s := addLife s (110 + physChannel s ch) 1
  let s := logEvent s (channelBlock ch) 0x101 noFn (toLE 8 (w * 32) ++ toLE 1 pos ++ [s0])
  if injected then s
  else
    let k := rowKey s w
    let ws := tget (fun _ => []) s.rowErrors k
    let ws := if ws.contains w then ws else ws ++ [w]
    let s := { s with rowErrors := tset (fun _ => []) s.rowErrors k ws }
    if again || 3 ≤ ws.length then markRowFaulty s k else s

/-- A word found uncorrectable: counted once, poisoned and recorded (R292). -/
def onUncorrectable (s : State) (w : Nat) (s0 : Byte) (scrub : Bool) : State :=
  let ch := (wordPlace s w).1
  let injected := s.injected.contains w
  let again := s.rewritten.contains w
  let s := poisonWord s w
  let s := { s with injected := s.injected.filter (· != w)
                    rewritten := if injected then s.rewritten.filter (· != w) else (s.rewritten.filter (· != w)) ++ [w] }
  let s := countUE (setErrInfo s ch w 0 true scrub s0) (channelPage ch)
  let s := logEvent s (channelBlock ch) 0x102 noFn (toLE 8 (w * 32))
  if again && !injected then markRowFaulty s (rowKey s w) else s

/-- Data of a word as read under a key (R298). -/
def readUnder (s : State) (w k : Nat) : List Byte :=
  if versionBits (metaOf s w) = 0 ∨ k = (tagOf s w).key then wordData s w
  else toLE 32 (Config.xtsDecrypt k w (BitVec.ofNat 256 (ofLE (wordSymbols s w)))).toNat

-- DEDUCED, unsafe: notes/assumptions/148.md.
/-- A read of word w by the channel controller, the scrubber's too: what R290 to R293 do to the word, and its data when its consumer gets
any. -/
def visitWord (s : State) (w : Nat) (scrub : Bool) : Option (List Byte) × State :=
  let r := checkWord s w
  let s := match r with
    | .clean => { (if errOf s w = 0 then s else settleWord s w none) with rewritten := s.rewritten.filter (· != w) }
    | .corrected p s0 =>
      let t := onCorrected s w p s0 scrub
      { t with rewritten := t.rewritten.filter (· != w) }
    | .uncorrectable s0 => onUncorrectable s w s0 scrub
  match r with
  | .uncorrectable _ => (none, s)
  | _ =>
    let m := metaOf s w
    if poisonBit m then (none, addSat s (reg (channelPage (wordPlace s w).1) 0x58) 1)
    else match sealKey s (w * 32) (versionBits m) with
      | some k => (some (readUnder s w k), s)
      | none => (none, onUncorrectable s w 0 scrub)

/-- Unparks a parked East half; one that is being parked is unparked once it is parked (R325). -/
def unparkEast (s : State) : State :=
  if fld s (reg 4 0x70) 0 2 = 2 then setFld s (reg 4 0x70) 0 2 3
  else if fld s (reg 4 0x70) 0 2 = 1 then { s with limiter := { s.limiter with wakeEast := true } }
  else s

-- DEDUCED, safe: notes/assumptions/98.md.
/-- An access that needs the East half: unless the half runs, it is held and unparks it (R325). -/
def wakeEast (s : State) : State :=
  if fld s (reg 4 0x70) 0 2 = 0 then s
  else let s := unparkEast s; { s with limiter := { s.limiter with heldEast := true } }

/-- A demand access of word w reaches its channel. -/
def reachWord (s : State) (w : Nat) : State := if channelWest s (wordPlace s w).1 then s else wakeEast s

-- DESIGN CHOICE, unsafe: notes/assumptions/91.md.
/-- A demand read of one word (R293), counted in MC_RD_BYTES; bytes that are not fixed are drawn anew (R6). -/
def readWord (s : State) (w : Nat) : Option (List Byte) × State :=
  let s := reachWord s w
  match visitWord (add64 s (reg (channelPage (wordPlace s w).1) 0x60) 32) w false with
  | (some d, s) =>
    let (d, s) := redraw s s.unfixedDev (w * 32) d
    (some d, s)
  | (none, s) => (none, s)

/-- The error pattern of an injection (R481). -/
def injectPattern (v : Nat) : Upset :=
  let p := v % 64
  upsetSymbol p 0x01#8 ^^^ (if bits v 6 1 = 1 then upsetSymbol ((p + 1) % 36) 0x02#8 else 0)

/-- Stores new data into a word: check symbols of the data, the injection if the channel is armed, the present sealing
version, POISON clear (R292, R298, R481). -/
def storeWord (s : State) (w : Nat) (d : List Byte) : State :=
  let s := putWord s w d false
  let s := { s with injected := s.injected.filter (· != w), rewritten := s.rewritten.filter (· != w) }
  let a := reg (channelPage (wordPlace s w).1) 0x11C
  let v := getReg s 0 a
  if bits v 7 1 = 1 then
    let s := setErr (setReg s 0 a (v % 128)) w (injectPattern v)
    { s with injected := s.injected ++ [w] }
  else s

/-- A demand write of bytes d at offset o of word w; fewer than 32 bytes merge, and leave a poisoned word poisoned. -/
def writeWord (s : State) (w o : Nat) (d : List Byte) : State :=
  let s := reachWord s w
  let s := add64 s (reg (channelPage (wordPlace s w).1) 0x68) 32
  if d.length = 32 then fixDev (storeWord s w d) (w * 32) 32
  else if errOf s w = 0 ∧ poisonBit (metaOf s w) then s
  else
    match visitWord s w false with
    | (some old, s) => fixDev (storeWord s w (old.take o ++ d ++ old.drop (o + d.length))) (w * 32 + o) d.length
    | (none, s) => s

/-! ### Shared slices (R300 to R307) -/

def sliceBlock (n : Nat) : Nat := blockId 0x21 n n
def slicePage (n : Nat) : Nat := 1280 + n
def sliceWordKey (n w : Nat) : Nat := 65536 * n + w
def sliceErrOf (s : State) (n w : Nat) : Upset := tget (fun _ => 0) s.sliceErr (sliceWordKey n w)
def setSliceErr (s : State) (n w : Nat) (u : Upset) : State := { s with sliceErr := tset (fun _ => 0) s.sliceErr (sliceWordKey n w) u }

/-- Data of word w of a slice as stored, without its errors. -/
def sliceWord (s : State) (n w : Nat) : List Byte := readCells s.sliceMem (sliceBytes * n + w * 32) 32
def pokeSlice (s : State) (n o : Nat) (b : List Byte) : State := { s with sliceMem := writeCells s.sliceMem (sliceBytes * n + o) b }

/-- The 35 stored symbols of an on-chip word (R288): no metadata. -/
def sliceStored (s : State) (n w : Nat) : List Byte :=
  let e := sliceErrOf s n w
  ((encodeWord (sliceWord s n w) 0).take 35).mapIdx (fun p c => c ^^^ upsetAt e p)

def sliceCheck (s : State) (n w : Nat) : Decoded := if sliceErrOf s n w = 0 then .clean else decodeWord (sliceStored s n w)

/-- SM_ERR_INFO. -/
def setSliceInfo (s : State) (n w pos : Nat) (ue march : Bool) : State :=
  setReg s 0 (reg (slicePage n) 0x58) (w + 2 ^ 16 * (pos % 64) + (if ue then 2 ^ 22 else 0) + (if march then 2 ^ 23 else 0))

/-- The data symbols of a stored word, with S0 added at a position. -/
def fixedData (c : List Byte) (fix : Option (Nat × Byte)) : List Byte :=
  let c := match fix with
    | some (p, v) => c.mapIdx (fun i x => if i = p then x ^^^ v else x)
    | none => c
  (c.drop 3).take 32

/-- A read of a word: its data, or none when uncorrectable; the counts; and the write-back unless a write takes the word in
the same handshake (R303). -/
def readSlice (s : State) (n w : Nat) (back march : Bool) : Option (List Byte) × State :=
  let c := sliceStored s n w
  match sliceCheck s n w with
  | .clean => (some (fixedData c none), s)
  | .corrected p s0 =>
    let d := fixedData c (some (p, s0))
    let s := countCE (setSliceInfo s n w p false march) (slicePage n)
    (some d, if back then setSliceErr (pokeSlice s n (w * 32) d) n w 0 else s)
  | .uncorrectable _ => (none, countUE (setSliceInfo s n w 0 true march) (slicePage n))

-- DESIGN CHOICE, unsafe: notes/assumptions/101.md.
/-- A write merges into the word inside the bank (R301); a whole word is written afresh. -/
def writeSlice (s : State) (n o : Nat) (b : List Byte) : State :=
  let w := o / 32
  let b := b.take (32 - o % 32)
  if b.length = 32 then setSliceErr (pokeSlice s n o b) n w 0
  else
    match readSlice s n w true false with
    | (_, s) => pokeSlice s n o b

def PortAccess.off : PortAccess → Nat
  | .read o _ _ => o % sliceBytes
  | .write o _ => o % sliceBytes

def PortAccess.isWrite : PortAccess → Bool
  | .read _ _ _ => false
  | .write _ _ => true

def PortAccess.word (a : PortAccess) : Nat := PortAccess.off a / 32

/-- The word of a 4 KiB window. -/
def inWindow (m : March) (w : Nat) : Bool := w / 128 == m.window

/-- The march stops, every saved word is back, and the window is tested again later (R306). -/
def preempt (s : State) (n : Nat) : State :=
  let s := setMarch s n { marchOf s n with testing := false }
  addSat (setFld s (reg (slicePage n) 0x40) 0 2 0) (reg (slicePage n) 0x50) 1

/-- The upset that a read meets. -/
def strikeSlice (s : State) (n : Nat) : PortAccess → State
  | .read o _ u => setSliceErr s n (o % sliceBytes / 32) (sliceErrOf s n (o % sliceBytes / 32) ^^^ u)
  | .write _ _ => s

/-- What an access reads, before the handshake's writes; `taken` tells whether a word is written in this handshake. -/
def portRead (s : State) (n : Nat) (taken : Nat → Bool) : PortAccess → List Byte × List Nat × State
  | .read o len _ =>
    let o := o % sliceBytes
    match readSlice s n (o / 32) (!taken (o / 32)) false with
    | (some d, s) => ((d.drop (o % 32)).take len, [], s)
    | (none, s) => (List.replicate (min len (32 - o % 32)) 0, [o / 32], s)
  | .write _ _ => ([], [], s)

def portWrite (s : State) (n : Nat) : PortAccess → State
  | .write o b => writeSlice s n (o % sliceBytes) b
  | .read _ _ _ => s

/-- One handshake on the ports of a slice: the data read, the words that read uncorrectable, and the state after it. -/
def serve (s : State) (n : Nat) (ports : List PortAccess) : List Byte × List Nat × State :=
  let s := if 64 ≤ n then wakeEast s else s
  let m := marchOf s n
  let s := if m.testing && ports.any (fun p => inWindow m (PortAccess.word p)) then preempt s n else s
  let s := ports.foldl (fun s p => strikeSlice s n p) s
  let writes := ports.filter PortAccess.isWrite
  let taken := fun w => writes.any (fun p => PortAccess.word p == w)
  let (b, bad, s) := ports.foldl (fun (acc : List Byte × List Nat × State) p =>
    let (b, bad, s) := portRead acc.2.2 n taken p
    (acc.1 ++ b, acc.2.1 ++ bad, s)) ([], [], s)
  let s := writes.foldl (fun s p => portWrite s n p) s
  let s := match writes with
    | [x, y] => if PortAccess.word x = PortAccess.word y then add64 s (reg (slicePage n) 0x48) 1 else s
    | _ => s
  (b, bad, s)

/-! ### Spans of device memory -/

/-- n words from word w: data with zeros for the bad words, and the device addresses of the bad words, ascending. -/
def readWords (s : State) (w : Nat) : Nat → List Byte × List Nat × State
  | 0 => ([], [], s)
  | n + 1 =>
    match readWord s w with
    | (some d, s) =>
      let (r, bad, s) := readWords s (w + 1) n
      (d ++ r, bad, s)
    | (none, s) =>
      let (r, bad, s) := readWords s (w + 1) n
      (List.replicate 32 0 ++ r, w * 32 :: bad, s)

/-- An access to a hole, or to no word: logged, zero on a read, discarded on a write (R285). -/
def holeAccess (s : State) (a fn : Nat) : State :=
  logEvent s (blockId 0x02 0 0) 0x105 fn (toLE 8 a ++ toLE 1 fn)

/-- A demand read of n bytes of device memory from address a, all below the capacity. -/
def readBelow (s : State) (a n : Nat) : List Byte × List Nat × State :=
  if n = 0 then ([], [], s)
  else
    let w := a / 32
    let (d, bad, s) := readWords s w ((a + n - 1) / 32 + 1 - w)
    ((d.drop (a % 32)).take n, bad, s)

/-- First address of the shared slices, and the bytes of all of them (Table 12-2). -/
def sliceBase : Nat := 0x0100_0000_0000
def sliceSpace : Nat := 128 * sliceBytes

/-- n bytes of the slices from offset o of them, a word at a time, at most k words: data, and the device addresses of the bad words. -/
def readSlices (s : State) (o n : Nat) : Nat → List Byte × List Nat × State
  | 0 => ([], [], s)
  | k + 1 =>
    if n = 0 then ([], [], s)
    else
      let m := min n (32 - o % 32)
      let (d, bad, s) := serve s (o / sliceBytes) [.read (o % sliceBytes) m 0]
      let (r, bad', s) := readSlices s (o + m) (n - m) k
      (d ++ r, bad.map (fun _ => sliceBase + o / 32 * 32) ++ bad', s)

/-- A read at the capacity or above: shared slices, else a hole. -/
def readAbove (s : State) (fn a n : Nat) : List Byte × List Nat × State :=
  if sliceBase ≤ a ∧ a + n ≤ sliceBase + sliceSpace then readSlices s (a - sliceBase) n (n / 32 + 2)
  else (List.replicate n 0, [], holeAccess s a fn)

/-- A demand read of n bytes at device address a for function fn. -/
def readDev (s : State) (fn a n : Nat) : List Byte × List Nat × State :=
  let k := min n (capacity s - a)
  let (d, bad, s) := readBelow s a k
  if k = n then (d, bad, s)
  else
    let (e, bad', s) := readAbove s fn (a + k) (n - k)
    (d ++ e, bad ++ bad', s)

/-- A demand write of a nonempty list of bytes at device address a, in ascending address; at most k words. -/
def writeChunks (s : State) (a : Nat) (b : List Byte) : Nat → State
  | 0 => s
  | k + 1 =>
    if b.isEmpty then s
    else
      let o := a % 32
      let d := b.take (32 - o)
      writeChunks (writeWord s (a / 32) o d) (a + d.length) (b.drop d.length) k

/-- The same in the slices, from offset o of them. -/
def writeSlices (s : State) (o : Nat) (b : List Byte) : Nat → State
  | 0 => s
  | k + 1 =>
    if b.isEmpty then s
    else
      let d := b.take (32 - o % 32)
      writeSlices (serve s (o / sliceBytes) [.write (o % sliceBytes) d]).2.2 (o + d.length) (b.drop d.length) k

def writeAbove (s : State) (fn a : Nat) (b : List Byte) : State :=
  if sliceBase ≤ a ∧ a + b.length ≤ sliceBase + sliceSpace then writeSlices s (a - sliceBase) b (b.length / 32 + 2) else holeAccess s a fn

def writeDev (s : State) (fn a : Nat) (b : List Byte) : State :=
  let k := min b.length (capacity s - a)
  let s := writeChunks s a (b.take k) (k / 32 + 2)
  if k = b.length then s else writeAbove s fn (a + k) (b.drop k)

/-- Poisons the words that n bytes at a touch (R292, R347). -/
def poisonSpan (s : State) (a n : Nat) : State :=
  if n = 0 ∨ capacity s < a + n then s
  else (List.range ((a + n - 1) / 32 + 1 - a / 32)).foldl (fun s i => poisonWord s (a / 32 + i)) s

/-! ### Relocated spans -/

/-- Bytes [off, off + n) of a span: device or host memory. -/
def readSpan (s : State) (fn : Nat) (p : Span) (off n : Nat) : List Byte × List Nat × State :=
  if p.host then
    let (b, s) := redraw s s.unfixedHost (p.addr + off) (readHost s (p.addr + off) n)
    (b, [], s)
  else readDev s fn (p.addr + off) n

/-- A read of a span that reports its first bad word. -/
def fetchSpan (s : State) (fn : Nat) (p : Span) (off n : Nat) : Except Nat (List Byte) × State :=
  match readSpan s fn p off n with
  | (b, [], s) => (.ok b, s)
  | (_, a :: _, s) => (.error a, s)

def writeSpan (s : State) (fn : Nat) (p : Span) (off : Nat) (b : List Byte) : State :=
  if p.host then writeHost s (p.addr + off) b else writeDev s fn (p.addr + off) b

/-- A span whose contents the manual leaves open: until it is written again, two reads may differ (R6). -/
def unfix (s : State) (p : Span) : State :=
  if p.len = 0 then s
  else if p.host then { s with unfixedHost := s.unfixedHost ++ [(p.addr, p.addr + p.len)] }
  else { s with unfixedDev := s.unfixedDev ++ [(p.addr, p.addr + p.len)] }

end Sys2Proof.Machine
end

