-- ==== Sys2Proof/Machine/Operands.lean ====
section
/-! DEFINITION. The operands of a 64-byte command: the header of Table 11-1, the bodies of Table 11-3, handles and their
relocation (R257, R258), indirect words (R260), and the relative numbers of queues, sync objects, contexts and bound plans
(R242, R243, R256). -/

namespace Sys2Proof.Machine

/-! ### Status codes (Table 11-8) -/

def stOk : Nat := 0x00
def stTruncated : Nat := 0x01
def stLoose : Nat := 0x02
def stFolded : Nat := 0x03
def stBadCommand : Nat := 0x10
def stBadHandle : Nat := 0x11
def stTooLarge : Nat := 0x12
def stCoeffRange : Nat := 0x13
def stPlanInvalid : Nat := 0x14
def stWaitTimeout : Nat := 0x20
def stQueueTimeout : Nat := 0x21
def stFenceError : Nat := 0x22
def stMemory : Nat := 0x30
def stTileFault : Nat := 0x31
def stRng : Nat := 0x40
def stDenied : Nat := 0x41
def stHostWrite : Nat := 0x50
def stAborted : Nat := 0x60

/-- An outcome of a command. -/
def outcome (status detail result : Nat) : Outcome3 :=
  { status := BitVec.ofNat 8 status, detail := BitVec.ofNat 32 detail, result := BitVec.ofNat 64 result }

/-- OK with a RESULT (R272). -/
def okWith (result : Nat) : Outcome3 := outcome stOk 0 result

/-- BAD_COMMAND naming a byte offset and the source of the field (Table 11-8). -/
def badCommand (src off : Nat) : Outcome3 := outcome stBadCommand (2 ^ 16 * src + off) 0

/-- BAD_HANDLE by a check of Table 11-5 (R258). -/
def badHandle (check src off : Nat) : Outcome3 := outcome stBadHandle (2 ^ 20 * check + 2 ^ 16 * src + off) 0

/-- BAD_HANDLE at a relocation entry: bit 30 set (R258, R190). -/
def badEntry (check idx : Nat) : Outcome3 := outcome stBadHandle (2 ^ 30 + 2 ^ 20 * check + idx) 0

/-- BAD_HANDLE at an index of the context list: bit 29 set (R258, R279). -/
def badContext (check idx : Nat) : Outcome3 := outcome stBadHandle (2 ^ 29 + 2 ^ 20 * check + idx) 0

/-- MEMORY_UNCORRECTABLE naming the bad word (R292). -/
def memoryBad (addr : Nat) : Outcome3 := outcome stMemory 0 addr

/-- OK-class statuses lie below 0x10 (Table 11-8). -/
def isError (o : Outcome3) : Bool := decide (0x10 ≤ o.status.toNat)

/-! ### Checks in order -/

/-- The first failing field of a list of checks (offset, fails). -/
def firstFail (l : List (Nat × Bool)) : Option Nat := (l.find? (·.2)).map (·.1)

/-- Some byte of [o, o + n) is nonzero. -/
def anyByte (b : List Byte) (o n : Nat) : Bool := ((b.drop o).take n).any (· != 0)

/-! ### Header fields (Table 11-1) -/

def Cmd.opcode (c : Cmd) : Nat := leAt c.bytes 0x00 1
def Cmd.flags (c : Cmd) : Nat := leAt c.bytes 0x01 1
def Cmd.irq (c : Cmd) : Bool := bits (Cmd.flags c) 0 1 == 1
def Cmd.quiet (c : Cmd) : Bool := bits (Cmd.flags c) 1 1 == 1
def Cmd.waitEn (c : Cmd) : Bool := bits (Cmd.flags c) 2 1 == 1
def Cmd.signalEn (c : Cmd) : Bool := bits (Cmd.flags c) 3 1 == 1
def Cmd.indirectEn (c : Cmd) : Bool := bits (Cmd.flags c) 4 1 == 1
def Cmd.waitObj (c : Cmd) : Nat := leAt c.bytes 0x02 2
def Cmd.signalObj (c : Cmd) : Nat := leAt c.bytes 0x04 2
def Cmd.indMask (c : Cmd) : Nat := leAt c.bytes 0x06 2
def Cmd.tag (c : Cmd) : U32 := BitVec.ofNat 32 (leAt c.bytes 0x08 4)
def Cmd.indHandle (c : Cmd) : Nat := leAt c.bytes 0x0C 4
def Cmd.waitValue (c : Cmd) : Nat := leAt c.bytes 0x10 8
def Cmd.signalValue (c : Cmd) : Nat := leAt c.bytes 0x18 8
/-- A body field. -/
def Cmd.fld (c : Cmd) (off size : Nat) : Nat := leAt c.bytes off size
/-- Where a body field came from: 0 the command, 1 an indirect block (R260). -/
def Cmd.src (c : Cmd) (off : Nat) : Nat := if 0x20 ≤ off then bits c.indirect ((off - 0x20) / 8) 1 else 0
/-- The span a handle field was relocated to at the command's start. -/
def Cmd.span (c : Cmd) (off : Nat) : Span := ((c.spans.find? (fun e => e.1 == off)).map (·.2)).getD {}
def Cmd.hasSpan (c : Cmd) (off : Nat) : Bool := c.spans.any (fun e => e.1 == off)

/-! ### Opcodes (Table 11-2) -/

def opNop : Nat := 0x01
def opBindPlan : Nat := 0x02
def opReleasePlan : Nat := 0x03
def opRun : Nat := 0x04
def opExecBuffer : Nat := 0x05
def opPatch : Nat := 0x06
def opCopy : Nat := 0x07
def opFill : Nat := 0x08
def opContext : Nat := 0x09
def opRandomFill : Nat := 0x0A
def opTimestamp : Nat := 0x0B
def opSyncClear : Nat := 0x0C

/-- Body fields of an opcode (Table 11-3): offset and size. -/
def bodyFields (op : Nat) : List (Nat × Nat) :=
  if op = opBindPlan then [(0x20, 4), (0x24, 4), (0x28, 4), (0x2C, 4), (0x30, 1)]
  else if op = opReleasePlan then [(0x20, 4)]
  else if op = opRun then [(0x20, 4), (0x24, 4), (0x28, 8), (0x30, 4), (0x34, 2), (0x36, 1), (0x38, 4)]
  else if op = opExecBuffer then [(0x20, 4), (0x24, 4), (0x28, 8)]
  else if op = opPatch then [(0x20, 4), (0x24, 1), (0x28, 8), (0x30, 16)]
  else if op = opCopy then [(0x20, 4), (0x24, 4), (0x28, 8), (0x30, 8), (0x38, 8)]
  else if op = opFill then [(0x20, 4), (0x28, 8), (0x30, 8), (0x38, 8)]
  else if op = opContext then [(0x20, 1), (0x24, 4), (0x28, 4), (0x2C, 4), (0x30, 4)]
  else if op = opRandomFill then [(0x20, 4), (0x28, 8), (0x30, 8)]
  else if op = opTimestamp then [(0x20, 4), (0x28, 8)]
  else if op = opSyncClear then [(0x20, 2)]
  else []

/-- A byte offset that no listed field covers is reserved (R255). -/
def bodyReserved (op off : Nat) : Bool := !(bodyFields op).any (fun f => f.1 ≤ off && off < f.1 + f.2)

/-! ### Functions and relative numbers -/

/-- The function whose block holds global queue q (R242). -/
def fnOfQueue (s : State) (q : Nat) : Option Nat :=
  (List.range 16).find? (fun f => let c := fnOf s f; c.qBase ≤ q && q < c.qBase + c.qCount)

/-- The function of a queue; a queue in no block never becomes enabled. -/
def queueFn (s : State) (q : Nat) : Nat := (fnOfQueue s q).getD 0

/-- Global number of a function's relative queue (R242). -/
def globalQueue (s : State) (fn r : Nat) : Option Nat :=
  let c := fnOf s fn
  if r < c.qCount then some (c.qBase + r) else none

/-- Global number of a relative sync object; COUNT holds the objects minus 1 (Table 11-11). -/
def globalSync (s : State) (fn r : Nat) : Option Nat :=
  let c := fnOf s fn
  if r ≤ c.syncCount then some (c.syncBase + r) else none

/-- Global number of a relative context (R243). -/
def globalCtx (s : State) (fn r : Nat) : Option Nat :=
  let c := fnOf s fn
  if r < c.ctxCount then some (c.ctxBase + r) else none

/-- The bound plan of a function that a PLAN_ID names (R256). -/
def planById (s : State) (fn id : Nat) : Option (Nat × Plan) :=
  match planOf s (id % 2 ^ 16) with
  | some p => if p.fn = fn ∧ p.gen = id / 2 ^ 16 then some (id % 2 ^ 16, p) else none
  | none => none

/-! ### Relocation (R257, R258) -/

/-- What a handle field needs. -/
structure Need where
  read : Bool := false
  write : Bool := false
  device : Bool := false
  deriving DecidableEq, Repr

/-- The answer of a relocation. -/
inductive Reloc where
  | ok (p : Span)
  | bad (check : Nat)
  | memory (addr : Nat)
  deriving DecidableEq, Repr

/-- Checks 2 to 6 of Table 11-5 on the 32 bytes of a table entry. -/
def checkEntry (s : State) (fn h : Nat) (e : List Byte) (need : Need) (off len : Nat) : Reloc :=
  let addr := leAt e 0x00 8
  let length := leAt e 0x08 8
  let flags := leAt e 0x10 1
  let host := bits flags 1 1 == 1
  let c := fnOf s fn
  if bits flags 0 1 = 0 ∨ length = 0 ∨ 2 ^ 48 < length ∨ flags / 16 ≠ 0 ∨ leAt e 0x12 14 ≠ 0 ∨ leAt e 0x11 1 ≠ h / 2 ^ 24 then .bad 2
  else if length < off + len then .bad 3
  else if (need.read && bits flags 2 1 == 0) || (need.write && bits flags 3 1 == 0) then .bad 4
  else if !host && (decide (addr < c.memBase.toNat) || decide (c.memLimit.toNat < addr + length - 1) || decide (capacity s < addr + length)) then .bad 5
  else if need.device && host then .bad 6
  else .ok { host, addr, len := length, read := bits flags 2 1 == 1, write := bits flags 3 1 == 1 }

/-- Of the forms of a table entry, new and old, the one that a relocation sees: which is not fixed (R259). -/
def pickEntry (s : State) (new : List Byte) (old : List (List Byte)) : List Byte × State :=
  if old.isEmpty then (new, s)
  else
    let (v, s) := drawFree s
    ((new :: old).getD (v.toNat % (old.length + 1)) new, s)

/-- Relocates handle h of function fn for a field that uses [off, off + len) of the buffer (Table 11-5); `old` are the old forms of
entries that the command may still see. -/
def relocate (s : State) (old : List (Nat × List Byte)) (fn h : Nat) (need : Need) (off len : Nat) : Reloc × State :=
  let c := fnOf s fn
  let idx := h % 2 ^ 24
  let a := c.htBase.toNat + 32 * idx
  if idx = 0 ∨ c.htSize ≤ idx then (.bad 1, s)
  else
    match readDev s fn a 32 with
    | (e, [], s) =>
      let (e, s) := pickEntry s e ((old.filter (fun x => x.1 == a)).map (·.2))
      (checkEntry s fn h e need off len, s)
    | (_, a :: _, s) => (.memory a, s)

/-! ### Checks of a command's fields in ascending byte offset (R258) -/

/-- What is checked at one byte offset. -/
inductive Rule where
  /-- a reserved value: the field fails when the flag is set -/
  | value (bad : Bool)
  /-- a handle field: need, offset and length used -/
  | handle (need : Need) (off len : Nat)
  /-- a handle field that may be 0 -/
  | optional (need : Need) (off len : Nat)
  /-- PLAN_ID -/
  | plan
  /-- a relative context with its operation's state check (R278) -/
  | context
  /-- a relative sync object -/
  | sync
  deriving DecidableEq, Repr

def rd : Need := { read := true }
def wr : Need := { write := true }
def rw : Need := { read := true, write := true }
def onDevice (n : Need) : Need := { n with device := true }

/-- States from which a CONTEXT operation is listed (Table 11-10). -/
def ctxFrom (op : Nat) (st : CtxState) : Bool :=
  match op with
  | 0 => st == .free
  | 1 => st == .parked
  | 2 => st == .resident || st == .parked
  | 3 => st == .parked || st == .resident || st == .faulted
  | 4 => st != .free
  | 5 => st == .parked || st == .resident || st == .faulted
  | _ => true

/-- Bytes of a state vector of N variables. -/
def stateBytes (n : Nat) : Nat := ceilDiv n 8

/-- What Table 11-3 asks at a body offset. -/
def bodyRule (s : State) (fn : Nat) (c : Cmd) (off : Nat) : Option Rule :=
  let f := Cmd.fld c
  let op := Cmd.opcode c
  if op = opBindPlan then
    match off with
    | 0x20 => some (.handle rd 0 0)
    | 0x24 => some (.handle (onDevice rw) 0 0)
    | 0x28 => some (.handle wr 0 0)
    | 0x2C => some (if f 0x30 1 = 0 then .optional rd 0 0 else .handle rd 0 (4 * f 0x30 1))
    | 0x30 => some (.value (64 < f 0x30 1))
    | _ => none
  else if op = opReleasePlan then (if off = 0x20 then some .plan else none)
  else if op = opRun then
    match off with
    | 0x20 => some .plan
    | 0x24 => some (if f 0x36 1 = 0 then .optional rd 0 0 else .handle rd 0 (4 * f 0x36 1))
    | 0x30 => some (if f 0x34 2 = 0 then .optional rd 0 0 else .handle rd 0 (4 * f 0x34 2))
    | 0x34 => some (.value (64 < f 0x34 2))
    | 0x36 => some (.value (64 < f 0x36 1))
    | 0x38 => some (.optional rd 0 64)
    | _ => none
  else if op = opExecBuffer then
    match off with
    | 0x20 => some (.handle (onDevice rd) (f 0x28 8) (64 * f 0x24 4))
    | 0x24 => some (.value (f 0x24 4 == 0 || decide (4096 < f 0x24 4)))
    | 0x28 => some (.value (f 0x28 8 % 64 != 0))
    | _ => none
  else if op = opPatch then
    match off with
    | 0x20 => some (.handle (onDevice wr) (f 0x28 8) (f 0x24 1))
    | 0x24 => some (.value (f 0x24 1 == 0 || decide (16 < f 0x24 1)))
    | 0x28 => some (.value (64 < f 0x28 8 % 64 + f 0x24 1))
    | _ => none
  else if op = opCopy then
    match off with
    | 0x20 => some (.handle rd (f 0x30 8) (f 0x28 8))
    | 0x24 => some (.handle wr (f 0x38 8) (f 0x28 8))
    | 0x28 => some (.value (f 0x28 8 == 0 || decide (2 ^ 40 < f 0x28 8)))
    | _ => none
  else if op = opFill then
    match off with
    | 0x20 => some (.handle wr (f 0x30 8) (f 0x28 8))
    | 0x28 => some (.value (f 0x28 8 % 8 != 0 || f 0x28 8 == 0 || decide (2 ^ 40 < f 0x28 8)))
    | 0x30 => some (.value (f 0x30 8 % 8 != 0))
    | _ => none
  else if op = opContext then
    let o := f 0x20 1
    match off with
    | 0x20 => some (.value (6 < o))
    | 0x24 => some .context
    | 0x28 =>
      if o = 0 then some (.handle rd 0 0)
      else if o = 4 ∨ o = 5 then
        let n := match globalCtx s fn (f 0x24 4) with
          | some g => (ctxOf s g).n
          | none => 0
        some (.handle (if o = 4 then wr else rd) 0 (stateBytes n))
      else if o = 6 then some (.handle wr 0 128)
      else some (.value (f 0x28 4 != 0))
    | 0x2C => some (if o = 0 then .optional rd 0 0 else .value (f 0x2C 4 != 0))
    | 0x30 => some (if o = 0 then .handle (onDevice rw) 0 512 else .value (f 0x30 4 != 0))
    | _ => none
  else if op = opRandomFill then
    match off with
    | 0x20 => some (.handle wr (f 0x30 8) (f 0x28 8))
    | 0x28 => some (.value (f 0x28 8 % 64 != 0 || f 0x28 8 == 0 || decide (2 ^ 32 < f 0x28 8)))
    | 0x30 => some (.value (f 0x30 8 % 64 != 0))
    | _ => none
  else if op = opTimestamp then
    match off with
    | 0x20 => some (.handle wr (f 0x28 8) 8)
    | 0x28 => some (.value (f 0x28 8 % 8 != 0))
    | _ => none
  else if op = opSyncClear then (if off = 0x20 then some .sync else none)
  else none

/-- The answer of the checks: the first failure, or the command with its relocated fields. -/
abbrev Checked := Except Outcome3 Cmd

/-- One handle field. -/
def checkHandle (s : State) (fn : Nat) (c : Cmd) (off : Nat) (need : Need) (o n : Nat) : Checked × State :=
  match relocate s c.stale fn (Cmd.fld c off 4) need o n with
  | (.ok p, s) => (.ok { c with spans := c.spans ++ [(off, p)] }, s)
  | (.bad k, s) => (.error (badHandle k (Cmd.src c off) off), s)
  | (.memory a, s) => (.error (memoryBad a), s)

/-- One rule at its offset. -/
def checkRule (s : State) (fn : Nat) (c : Cmd) (off : Nat) (r : Rule) : Checked × State :=
  match r with
  | .value bad => (if bad then .error (badCommand (Cmd.src c off) off) else .ok c, s)
  | .handle need o n => checkHandle s fn c off need o n
  | .optional need o n => if Cmd.fld c off 4 = 0 then (.ok c, s) else checkHandle s fn c off need o n
  | .plan => (if (planById s fn (Cmd.fld c off 4)).isSome then .ok c else .error (outcome stPlanInvalid 0 0), s)
  | .context =>
    match globalCtx s fn (Cmd.fld c off 4) with
    | none => (.error (badHandle 1 (Cmd.src c off) off), s)
    | some g =>
      let st := (ctxOf s g).state
      (if ctxFrom (Cmd.fld c 0x20 1) st || st == .running then .ok c else .error (badCommand (Cmd.src c 0x20) 0x20), s)
  | .sync => (if (globalSync s fn (Cmd.fld c off 2)).isSome then .ok c else .error (badHandle 1 (Cmd.src c off) off), s)

/-- Checks the body from offset 0x40 - n on. -/
def checkBody (s : State) (fn : Nat) (c : Cmd) : Nat → Checked × State
  | 0 => (.ok c, s)
  | n + 1 =>
    let off := 0x40 - (n + 1)
    if bodyReserved (Cmd.opcode c) off && leAt c.bytes off 1 != 0 then (.error (badCommand (Cmd.src c off) off), s)
    else
      match bodyRule s fn c off with
      | none => checkBody s fn c n
      | some r =>
        match checkRule s fn c off r with
        | (.ok c, s) => checkBody s fn c n
        | (.error o, s) => (.error o, s)

/-- The header fields before IND_HANDLE, in ascending offset (R253, R254, R264): the first failure. -/
def headerFail (s : State) (fn : Nat) (c : Cmd) : Option Outcome3 :=
  if Cmd.opcode c = 0 ∨ 0x0C < Cmd.opcode c then some (badCommand 0 0x00)
  else if 32 ≤ Cmd.flags c then some (badCommand 0 0x01)
  else if !Cmd.waitEn c && Cmd.waitObj c != 0 then some (badCommand 0 0x02)
  else if Cmd.waitEn c && (globalSync s fn (Cmd.waitObj c)).isNone then some (badHandle 1 0 0x02)
  else if !Cmd.signalEn c && Cmd.signalObj c != 0 then some (badCommand 0 0x04)
  else if Cmd.signalEn c && (globalSync s fn (Cmd.signalObj c)).isNone then some (badHandle 1 0 0x04)
  else if 16 ≤ Cmd.indMask c then some (badCommand 0 0x06)
  else none

/-- The header fields after IND_HANDLE. -/
def valueFail (c : Cmd) : Option Outcome3 :=
  if !Cmd.waitEn c && Cmd.waitValue c != 0 then some (badCommand 0 0x10)
  else if !Cmd.signalEn c && Cmd.signalValue c != 0 then some (badCommand 0 0x18)
  else none

/-- Replaces the body words of IND_MASK by those of a 32-byte block (R260). -/
def replaceWords (b blk : List Byte) (mask : Nat) : List Byte :=
  b.take 0x20 ++ (List.range 4).flatMap (fun w =>
    if bits mask w 1 = 1 then (blk.drop (8 * w)).take 8 else (b.drop (0x20 + 8 * w)).take 8)

-- DESIGN CHOICE, unsafe: notes/assumptions/33.md.
/-- All checks of a command at its start (R253 to R260): header, indirect block, body. -/
def checkCommand (s : State) (fn : Nat) (c : Cmd) : Checked × State :=
  match headerFail s fn c with
  | some o => (.error o, s)
  | none =>
    if !Cmd.indirectEn c then
      if Cmd.indHandle c != 0 then (.error (badCommand 0 0x0C), s)
      else match valueFail c with
        | some o => (.error o, s)
        | none => checkBody s fn c 0x20
    else
      match relocate s c.stale fn (Cmd.indHandle c) (onDevice rd) 0 32 with
      | (.bad k, s) => (.error (badHandle k 0 0x0C), s)
      | (.memory a, s) => (.error (memoryBad a), s)
      | (.ok p, s) =>
        match valueFail c with
        | some o => (.error o, s)
        | none =>
          match readDev s fn p.addr 32 with
          | (_, a :: _, s) => (.error (memoryBad a), s)
          | (blk, [], s) => checkBody s fn { c with bytes := replaceWords c.bytes blk (Cmd.indMask c), indirect := Cmd.indMask c } 0x20

end Sys2Proof.Machine
end

