-- ==== Sys2Proof/Machine/RunOps.lean ====
section
/-! DEFINITION. What a run and a context hold of the engines: lane modes (R57, R61), frames and their choice (R252, R280), the
states of a context (Table 11-10), words to group peers (R227, R241), and the end of a run (R62, R196, R279). -/

namespace Sys2Proof.Machine

/-! ### Lane modes and frames (R57, R61, R280) -/

/-- Lane mode of a tile: 0 ONE, 1 FOUR, 2 SIXTEEN. -/
def laneMode (s : State) (tile : Nat) : Nat := tget (fun _ => 0) s.laneModes tile

/-- Problem lanes and frames per problem lane of a mode (Table 3-2). -/
def modeLanes (m : Nat) : Nat := if m = 0 then 1 else if m = 1 then 4 else 16
def modeFrames (m : Nat) : Nat := if m = 0 then 1 else if m = 1 then 4 else 16
/-- Variables of a problem lane at BSI8. -/
def modeWidth (m : Nat) : Nat := if m = 0 then 4096 else if m = 1 then 1024 else 256
/-- The narrowest mode whose problem lane holds np variables (R277). -/
def modeFor (np : Nat) (bsi16 : Bool) : Nat :=
  let k := if bsi16 then 2 else 1
  if np * k ≤ 256 then 2 else if np * k ≤ 1024 then 1 else 0

/-- WIDTH of a context descriptor names its mode: 0 is 256, 1 is 1,024, 2 is 4,096. -/
def widthMode (w : Nat) : Nat := 2 - w

def frameKey (tile lane frame : Nat) : Nat := (tile * 16 + lane) * 16 + frame

def laneRunning (s : State) (tile lane : Nat) : Bool := (laneOf s (laneKey tile lane)).running
def tileRunning (s : State) (tile : Nat) : Bool := (List.range 16).any (fun l => laneRunning s tile l)

/-- Frames of a tile that hold a context. -/
def tileFrames (s : State) (tile : Nat) : List (Nat × Frame) := s.frames.filter (fun e => e.1 / 256 == tile)

/-- A context that loses its frame (R61, Table 11-10). -/
def parkCtx (c : Ctx) : Ctx := { c with state := .parked, tile := 0xFFFF, lane := 0, frame := 0 }

/-- Parks every RESIDENT context of a tile; a RUNNING one whose run has not taken its place yet loses its frame. -/
def parkTile (s : State) (tile : Nat) : State :=
  (tileFrames s tile).foldl (fun s e =>
    let c := ctxOf s e.2.ctx
    delFrame (setCtx s e.2.ctx (if c.state = .resident then parkCtx c else { c with tile := 0xFFFF, lane := 0, frame := 0 })) e.1) s

/-- The lane mode changes, only while no problem lane of the tile runs; its contexts become PARKED and its lane registers
read as zero until the next run there (R61, R85). -/
def setMode (s : State) (tile m : Nat) : State :=
  if laneMode s tile = m then s
  else
    let s := parkTile s tile
    { s with laneModes := tset (fun _ => 0) s.laneModes tile m
             lanes := s.lanes.filter (fun e => e.1 / 16 != tile) }

/-- Takes a tile whole: its RESIDENT contexts become PARKED and its mode is ONE (R252). -/
def takeTile (s : State) (tile : Nat) : State := setMode (parkTile s tile) tile 0

/-- A logical tile may be given work: its engine serves it now, and its half is not parked (R324, R422). -/
def eastParked (s : State) : Bool := fld s (reg 4 0x70) 0 2 != 0
def tileUsable (s : State) (tile : Nat) : Bool := !(eastParked s && decide (48 ≤ tile))

/-- A running lane whose records no frame's context accounts for: it runs no context, or one spread over whole tiles. -/
def laneFrameless (s : State) (l : Lane) : Bool :=
  match l.context with
  | none => true
  | some c => (ctxOf s c).tile == 0xFFFF

/-- Records and terms that constraint engine k holds: of the contexts in frames of its tiles and of running problems that
hold none (R115). -/
def engineLoad (s : State) (k : Nat) : Nat × Nat :=
  let fr := (s.frames.filter (fun e => e.1 / 512 == k)).map (fun e => let c := ctxOf s e.2.ctx; (c.records, c.terms))
  let ln := (s.lanes.filter (fun e => e.1 / 32 == k && e.2.running && laneFrameless s e.2)).map
    (fun e => (e.2.records.length, (e.2.records.map (fun r => r.terms.length)).sum))
  ((fr ++ ln).map (·.1) |>.sum, (fr ++ ln).map (·.2) |>.sum)

/-- The engine of a tile has the capacity left for records and terms more (R116). -/
def engineRoom (s : State) (tile records terms : Nat) : Bool :=
  let l := engineLoad s (tile / 2)
  l.1 + records ≤ 16384 && l.2 + terms ≤ 262144

/-- Frames of a problem lane that are free: no context in them and no run that names none. -/
def freeFrame (s : State) (tile lane : Nat) : Option Nat :=
  let l := laneOf s (laneKey tile lane)
  (List.range (modeFrames (laneMode s tile))).find? (fun f =>
    (frameOf s (frameKey tile lane f)).isNone && !(l.running && l.context.isNone && l.frame == f))

/-- A problem lane of a tile with a free frame; for a run the lane must have its running place free (R62). -/
def freeLane (s : State) (tile : Nat) (forRun : Bool) : Option (Nat × Nat) :=
  ((List.range (modeLanes (laneMode s tile))).filterMap (fun l =>
    if forRun && laneRunning s tile l then none else (freeFrame s tile l).map (fun f => (l, f)))).head?

/-- Steps 1 to 3 of R280 for a problem of mode m with the given records and terms: a tile, lane and frame, and the state in
which they are free. -/
def chooseFrame (s : State) (m records terms : Nat) (forRun : Bool) : Option ((Nat × Nat × Nat) × State) :=
  let tiles := (List.range 96).filter (fun t => tileUsable s t && engineRoom s t records terms)
  match tiles.filterMap (fun t => if laneMode s t = m then (freeLane s t forRun).map (fun p => (t, p)) else none) with
  | (t, p) :: _ => some ((t, p.1, p.2), s)
  | [] =>
    -- a tile at rest in another mode, whose own contexts no longer count once it is taken
    match (List.range 96).find? (fun t => tileUsable s t && !tileRunning s t && laneMode s t != m && engineRoom (setMode s t m) t records terms) with
    | some t => some ((t, 0, 0), setMode s t m)
    | none =>
      if eastParked s then none else
      -- eviction, on a tile whose engine then has room: the RESIDENT context that has gone longest without running, ties to the lowest
      let evict := fun (e : Nat × Frame) => delFrame (setCtx s e.2.ctx (parkCtx (ctxOf s e.2.ctx))) e.1
      let cands := s.frames.filter (fun e =>
        let t := e.1 / 256
        let l := e.1 / 16 % 16
        tileUsable s t && laneMode s t == m && (ctxOf s e.2.ctx).state == .resident && !(forRun && laneRunning s t l)
          && engineRoom (evict e) t records terms)
      let best := cands.foldl (fun b e =>
        match b with
        | none => some e
        | some b => if e.2.lastRun.toNat < b.2.lastRun.toNat ∨ (e.2.lastRun = b.2.lastRun ∧ e.2.ctx < b.2.ctx) then some e else some b) none
      best.map (fun e => ((e.1 / 256, e.1 / 16 % 16, e.1 % 16), evict e))

/-! ### Pacing (R319) -/

def powerStatus : Nat := reg 4 0x5C
def rho (s : State) : Nat := fld s powerStatus 10 9

def paceOf (s : State) (k : Nat) : Nat := tget (fun _ => 0) s.paces k
def setPace (s : State) (k a : Nat) : State := { s with paces := tset (fun _ => 0) s.paces k a }

-- DESIGN CHOICE, safe: notes/assumptions/166.md.
/-- A paced engine comes to its next step: whether the step runs, or idle beats are inserted in its place. -/
def paceStep (s : State) (k : Nat) : Bool × State :=
  let a := paceOf s k + rho s
  if 256 ≤ a then (true, setPace s k (a - 256)) else (false, setPace s k a)

/-! ### Words to group peers (R227) -/

/-- Bus address of the control area of this member's slot in a peer's frame. -/
def controlAddr (m : Member) (position : Nat) : Nat := m.frameAddr.toNat + 2 ^ 22 * position + 0x3FE000

/-- Writes a control word to every peer. -/
def tellPeers (s : State) (g : GroupRun) (w : Control) : State :=
  (g.members.zipIdx.filter (fun e => e.2 != g.position)).foldl (fun s e => sendWord s (controlAddr e.1 g.position) w) s

/-! ### The end of a run (R62, R196, R279, Table 11-10) -/

/-- How a run ends, for the contexts it names. -/
inductive CtxEnd where
  | ended
  | stopped
  | refused
  | faulted (status : Byte)
  deriving DecidableEq, Repr

-- DESIGN CHOICE, unsafe: notes/assumptions/72.md.
/-- The context of a run as the run's end leaves it; `single` when it lay in one problem lane. -/
def ctxAfter (c : Ctx) (e : CtxEnd) (single : Bool) (now : U64) : Ctx :=
  let c := { c with lastRun := now, runs := c.runs + 1 }
  match e with
  | .ended => if single then { c with state := .resident } else parkCtx c
  | .stopped => parkCtx c
  | .refused => parkCtx c
  | .faulted st => { parkCtx c with state := .faulted, fault := st }

/-- State bits packed in 512 bytes, variable i at bit i mod 8 of byte ⌊i / 8⌋ (R189). -/
def packState (n : Nat) (x : Nat) : List Byte := toLE 512 (x % 2 ^ n)

/-- Whether a problem lies in one problem lane. -/
def Prob.single (p : Prob) : Bool := p.tiles == 1 && p.replicas == 1 && !p.rotates

/-- Takes a context's frame from it. -/
def dropFrame (s : State) (x : Ctx) : State := if x.tile = 0xFFFF then s else delFrame s (frameKey x.tile x.lane x.frame)

/-- Frees what a problem holds: its lanes stop and keep their values (R85), its context takes its next state. -/
def releaseProb (s : State) (p : Prob) (e : CtxEnd) (store : Bool) : State :=
  let s := p.lanes.foldl (fun s k => let l := laneOf s k; setLane s k { l with running := false }) s
  match p.context with
  | none => s
  | some c =>
    let old := ctxOf s c
    let now := deviceTime s
    let after := ctxAfter old e (Prob.single p && old.tile != 0xFFFF) now
    let s := match (if after.state = .resident then frameOf s (frameKey old.tile old.lane old.frame) else none) with
      | some f => setFrame s (frameKey old.tile old.lane old.frame) { f with lastRun := now }
      | none => if old.tile = 0xFFFF then s else delFrame s (frameKey old.tile old.lane old.frame)
    let s := setCtx s c after
    match (if store then p.selected.head? else none) with
    | some st => writeDev s old.fn old.stateAddr (packState old.n st.bits)
    | none => s

/-- A context that the run named and no problem ran goes back to what it was, or shares the fate of the run's contexts
(Table 11-10). -/
def releaseNamed (s : State) (r : Run) (e : CtxEnd) : State :=
  (r.contexts.filter (fun c => !r.problems.any (fun p => p.context == some c))).foldl (fun s c =>
    let x := ctxOf s c
    match e with
    | .ended => setCtx s c { x with state := if x.tile = 0xFFFF then .parked else .resident }
    | .faulted st => setCtx (dropFrame s x) c { parkCtx x with state := .faulted, fault := st }
    | _ => setCtx (dropFrame s x) c (parkCtx x)) s

/-- The function of a bound plan. -/
def planFn (s : State) (slot : Nat) : Nat := ((planOf s slot).map (·.fn)).getD 0

/-- A stage of the run has begun. -/
def Run.begun (r : Run) : Bool := r.entered || decide (0 < r.done)

/-- Ends the run of a queue: its problems let go of lanes, frames and contexts, each context as `e` says; an error after a stage
began leaves the result buffer open (R205); group peers are told of an error (R241); its plan is free, and gone if a
RELEASE_PLAN waited (R196); its exchange frame is free (R223). -/
def endRun (s : State) (q : Nat) (status : Nat) (e : Option Prob → CtxEnd) (tell : Bool) : State :=
  match runOf s q with
  | none => s
  | some r =>
    let ok := decide (status < 0x10)
    let s := if !ok && Run.begun r then unfix s r.result else s
    let s := releaseNamed (r.problems.foldl (fun s p => releaseProb s p (e (some p)) ok) s) r (e none)
    let s := match r.group with
      | some g => { (if tell && !ok then tellPeers s g (.abort (BitVec.ofNat 8 status)) else s) with
          winCount := s.winCount.filter (fun e => e.1 / 512 != g.frame) }
      | none => s
    let s := match planOf s r.slot with
      | some p => if p.released then delPlan s r.slot else setPlan s r.slot { p with running := none }
      | none => s
    delRun s q

/-- The stage KIND a run is in, for QUEUE_TIMEOUT (Table 11-8); 0xFF when no run is in a stage. -/
def stageKind (s : State) (q : Nat) : Nat :=
  match runOf s q with
  | some r => ((r.stages[r.done]?).map (·.kind)).getD 0xFF
  | none => 0xFF

end Sys2Proof.Machine
end

