-- ==== Sys2Proof/Machine/Queues.lean ====
section
/-! DEFINITION. The shared operations of the front ends: reading ring entries (R248), signals (R264, R266), completing a
command and writing its record (R249, R254, R272), guilty queues (Table 11-6, R480, R275), the doorbells (R245 to R247) and
FE_Q_CTRL (R479). -/

namespace Sys2Proof.Machine

/-! ### Rings -/

def Queue.size (q : Queue) : Nat := 2 ^ q.log2Size
/-- Commands in the submission ring, records in the completion ring (R245). -/
def Queue.waiting (q : Queue) : Nat := (q.sqTail - q.sqHead).toNat
def Queue.records (q : Queue) : Nat := (q.cqTail - q.cqHead).toNat
def Queue.sqSlot (q : Queue) (c : U32) : Nat := q.sqBase.toNat + 64 * (c.toNat % Queue.size q)
def Queue.cqSlot (q : Queue) : Nat := q.cqBase.toNat + 32 * (q.cqTail.toNat % Queue.size q)

/-- The command at SQ_HEAD lies before counter value t, by a doorbell that came earlier. -/
def pendingBefore (Q : Queue) (t : U32) : Bool := decide (0 < (t - Q.sqHead).toNat) && decide ((t - Q.sqHead).toNat ≤ Queue.size Q)

/-- The bytes of the entry that counter value c names: those fetched ahead (R261), or read now; with the bad word when the
read is uncorrectable. -/
def readEntry (s : State) (q : Nat) (c : U32) : List Byte × Option Nat × State :=
  let Q := queueOf s q
  match (Q.fetched.find? (fun e => e.1 == c)).map (·.2) with
  | some b => (b, none, s)
  | none =>
    if Q.sqDev then
      let (b, bad, s) := readDev s (queueFn s q) (Queue.sqSlot Q c) 64
      (b, bad.head?, s)
    else (readHost s (Queue.sqSlot Q c) 64, none, s)

/-- The bytes of an inner command at a device address. -/
def readInner (s : State) (q a : Nat) : List Byte × Option Nat × State :=
  match ((queueOf s q).fetchedBuffer.find? (fun e => e.1 == a)).map (·.2) with
  | some b => (b, none, s)
  | none =>
    let (b, bad, s) := readDev s (queueFn s q) a 64
    (b, bad.head?, s)

/-! ### Sync objects (R264, R266) -/

/-- A signal: the value rises, never falls, and an errored signal sets ERROR. -/
def signalSync (s : State) (o v : Nat) (err : Bool) : State :=
  let y := syncOf s o
  setSync s o { value := if y.value.toNat < v then BitVec.ofNat 64 v else y.value, error := y.error || err }

/-! ### The command in progress -/

/-- The command that runs or waits now, and whether it is an inner one; none while a buffer is between two of them. -/
def activeCmd (Q : Queue) : Option (Bool × Cmd) :=
  match Q.innerCur with
  | some c => some (true, c)
  | none => if Q.buffer.isSome then none else Q.cur.map (fun c => (false, c))

def setActive (Q : Queue) (inner : Bool) (c : Cmd) : Queue := if inner then { Q with innerCur := some c } else { Q with cur := some c }

/-- The record of a command that completes (R254, R266, R272). -/
def makeOut (s : State) (q : Nat) (inner : Bool) (c : Cmd) (o : Outcome3) (dest : Option (Nat × Span)) : OutRec :=
  { tag := Cmd.tag c, out := o, inner, irq := Cmd.irq c, quiet := Cmd.quiet c && o.status == 0
    signal := if Cmd.signalEn c then (globalSync s (queueFn s q) (Cmd.signalObj c)).map (fun g => (g, BitVec.ofNat 64 (Cmd.signalValue c))) else none
    time := deviceTime s, hostDest := dest }

-- DEDUCED, unsafe: notes/assumptions/36.md.
/-- A command ends: its record is ready, and a ring command's slot is passed.  A command buffer fetched ahead is kept until its own
EXEC_BUFFER ends (R261). -/
def conclude (s : State) (q : Nat) (inner : Bool) (c : Cmd) (o : Outcome3) (dest : Option (Nat × Span)) : State :=
  let Q := queueOf s q
  let r := makeOut s q inner c o dest
  let Q := if inner then { Q with innerCur := none }
    else { Q with cur := none, buffer := none, innerCur := none, sqHead := Q.sqHead + 1
                  fetchedBuffer := if Cmd.opcode c = opExecBuffer then [] else Q.fetchedBuffer, fetched := Q.fetched.filter (fun e => e.1 != Q.sqHead) }
  setQueue s q { Q with out := Q.out ++ [r] }

/-- Completes the active command. -/
def finishTo (s : State) (q : Nat) (o : Outcome3) (dest : Option (Nat × Span)) : State :=
  match activeCmd (queueOf s q) with
  | some (inner, c) => conclude s q inner c o dest
  | none => s

def finish (s : State) (q : Nat) (o : Outcome3) : State := finishTo s q o none

-- DESIGN CHOICE, safe: notes/assumptions/100.md.
/-- Holds the active command until a resource is free (R251).  What needs more tiles than the West half has free unparks the
East half (R325). -/
def holdCmd (s : State) (q : Nat) (h : Hold) : State :=
  let s := if h = .tiles then wakeEast s else s
  match activeCmd (queueOf s q) with
  | some (inner, c) => setQueue s q (setActive (queueOf s q) inner { c with phase := .held h })
  | none => s

/-- Replaces the active command. -/
def updateCmd (s : State) (q : Nat) (f : Cmd → Cmd) : State :=
  match activeCmd (queueOf s q) with
  | some (inner, c) => setQueue s q (setActive (queueOf s q) inner (f c))
  | none => s

-- DESIGN CHOICE, safe: notes/assumptions/4.md.
/-- What a started command of the wanted kind does; otherwise nothing happens. -/
def onStarted (q : Nat) (want : Cmd → Bool) (f : Nat → Cmd → State → State) (s : State) : State :=
  match activeCmd (queueOf s q) with
  | some (_, c) => if c.phase = .started ∧ want c = true then f (queueFn s q) c s else s
  | none => s

/-! ### Completion records (R249, R254, R272) -/

/-- The 32 bytes of a record, as it would be written now (Table 11-7). -/
def recordBytes (Q : Queue) (r : OutRec) : List Byte :=
  let phase := if Q.cqTail.toNat / Queue.size Q % 2 = 0 then 1 else 0
  toLE 4 Q.sqHead.toNat ++ toLE 4 r.tag.toNat ++ toLE 4 r.out.detail.toNat ++ [r.out.status]
    ++ toLE 1 (phase + (if r.inner then 2 else 0)) ++ toLE 2 0 ++ toLE 8 r.time.toNat ++ toLE 8 r.out.result.toNat

/-- Makes the first record's signal, once (R266). -/
def signalOut (s : State) (q : Nat) : State :=
  let Q := queueOf s q
  match Q.out with
  | [] => s
  | r :: rest =>
    if r.signalled then s
    else
      let s := setQueue s q { Q with out := { r with signalled := true } :: rest }
      match r.signal with
      | some (g, v) => signalSync s g v.toNat (isError r.out)
      | none => s

/-- One command of a front end has completed: FE_CMD_CNT (R250). -/
def countCmd (s : State) (q : Nat) : State := add64 s (reg (17 + q / 1024) 0x48) 1

/-- The first record is done with: its command has completed and the next command becomes the next (R250), and the hold of R249 does
not count toward the timer of an EXEC_BUFFER in progress (R267). -/
def popOut (s : State) (q : Nat) : State :=
  let s := countCmd s q
  let Q := queueOf s q
  let lag := if Q.recordHeld then s.us - Q.heldSince else 0
  setQueue s q { Q with out := Q.out.drop 1, recordHeld := false, nextSince := s.us
                        cur := Q.cur.map (fun c => { c with since := c.since + lag }) }

/-- Writes the first record to the ring's free slot and raises the vector if required. -/
def putRecord (s : State) (q : Nat) (r : OutRec) : State :=
  let Q := queueOf s q
  let b := recordBytes Q r
  let fn := queueFn s q
  let s := if Q.cqDev then writeDev s fn (Queue.cqSlot Q) b else writeHost s (Queue.cqSlot Q) b
  let s := setQueue s q { queueOf s q with cqTail := Q.cqTail + 1 }
  let s := popOut s q
  if r.irq || isError r.out then raiseVector s fn Q.cplVector else s

/-- The first record: signalled, then dropped when QUIET says so, written into a free slot, or held. -/
def advanceOut (s : State) (q : Nat) : State :=
  let s := signalOut s q
  let Q := queueOf s q
  match Q.out with
  | [] => s
  | r :: _ =>
    if r.quiet then popOut s q
    else if !Q.undelivered.isEmpty then s
    else if Queue.records Q < Queue.size Q then putRecord s q r
    else if Q.recordHeld then s
    else setQueue s q { Q with recordHeld := true, heldSince := s.us }

/-- Writes what the ring takes of n records. -/
def drainOut (s : State) (q : Nat) : Nat → State
  | 0 => s
  | n + 1 => drainOut (advanceOut s q) q n

/-- Writes the records of a queue that its ring takes. -/
def drain (s : State) (q : Nat) : State := drainOut s q (queueOf s q).out.length

/-- After the last inner record, EXEC_BUFFER completes with COUNT (R263). -/
def closeBuffer (s : State) (q : Nat) : State :=
  let Q := queueOf s q
  match Q.buffer, Q.cur with
  | some b, some c => if b.next = b.count ∧ Q.innerCur.isNone ∧ Q.out.isEmpty then conclude s q false c (okWith b.count) none else s
  | _, _ => s

/-! ### Guilty queues (Table 11-6, R480) -/

/-- A record of the guilt: made and signalled at once with the error flag; it is written in its turn, like any other. -/
def reap (s : State) (q : Nat) (inner : Bool) (c : Cmd) (o : Outcome3) : State :=
  let r := makeOut s q inner c o none
  let s := match r.signal with
    | some (g, v) => signalSync s g v.toNat true
    | none => s
  let Q := queueOf s q
  setQueue s q { Q with out := Q.out ++ [{ r with signalled := true, quiet := false }] }

/-- A command whose bytes cannot be read: TAG 0, and no flags (R480). -/
def blankCmd : Cmd := { bytes := List.replicate 64 0 }

def abortedBehind : Outcome3 := outcome stAborted 2 0

/-- Completes n unrun inner commands from address a with RESET_ABORTED, DETAIL 2. -/
def reapInner (s : State) (q a : Nat) : Nat → State
  | 0 => s
  | n + 1 =>
    let (b, bad, s) := readInner s q a
    reapInner (reap s q true (if bad.isSome then blankCmd else { bytes := b }) abortedBehind) q (a + 64) n

/-- Completes n ring commands from SQ_HEAD with RESET_ABORTED, DETAIL 2. -/
def reapRing (s : State) (q : Nat) : Nat → State
  | 0 => s
  | n + 1 =>
    let (b, bad, s) := readEntry s q (queueOf s q).sqHead
    let Q := queueOf s q
    let s := setQueue s q { Q with sqHead := Q.sqHead + 1, fetched := Q.fetched.filter (fun e => e.1 != Q.sqHead) }
    reapRing (reap s q false (if bad.isSome then blankCmd else { bytes := b }) abortedBehind) q n

/-! ### The group table of a RUN (R222) -/

/-- The first failing field of a group table's header. -/
def groupHeadFail (b : List Byte) : Option Nat :=
  let size := leAt b 4 1
  let within := fun (v lo hi : Nat) => v == 0 || (decide (lo ≤ v) && decide (v ≤ hi))
  firstFail
    [ (0, leAt b 0 4 != 0x4E524754), (4, decide (size < 2) || decide (64 < size)), (5, decide (size ≤ leAt b 5 1)), (6, decide (3 < leAt b 6 1))
    , (7, decide (1 < leAt b 7 1)), (8, leAt b 8 8 == 0), (0x10, !within (leAt b 0x10 4) 100 1000000), (0x14, !within (leAt b 0x14 4) 1000 10000000)
    , (0x18, anyByte b 0x18 40) ]

/-- The first failing field of a group table; the entry at the member's own POSITION is not read. -/
def groupFail (b : List Byte) : Option Nat :=
  match groupHeadFail b with
  | some f => some f
  | none => (List.range (leAt b 4 1)).findSome? (fun p =>
      let o := 0x40 + 32 * p
      if p = leAt b 5 1 then none else firstFail [(o, leAt b o 8 % 2 ^ 29 != 0), (o + 0x0A, anyByte b (o + 0x0A) 22)])

def parseGroup (b : List Byte) : GroupRun :=
  let size := leAt b 4 1
  { size, position := leAt b 5 1, frame := leAt b 6 1, test := leAt b 7 1 == 1, tag := BitVec.ofNat 64 (leAt b 8 8)
    joinDeadline := if leAt b 0x10 4 = 0 then 5000 else leAt b 0x10 4
    recoveryDeadline := if leAt b 0x14 4 = 0 then 50000 else leAt b 0x14 4
    members := (List.range size).map (fun p =>
      { frameAddr := BitVec.ofNat 64 (leAt b (0x40 + 32 * p) 8), requester := BitVec.ofNat 16 (leAt b (0x48 + 32 * p) 2) }) }

/-- The entries of a group table but the one at POSITION: those before it and those after it. -/
def readEntries (s : State) (fn : Nat) (p : Span) (size pos : Nat) : Except Nat (List Byte) × State :=
  match fetchSpan s fn p 0x40 (32 * pos) with
  | (.error a, s) => (.error a, s)
  | (.ok before, s) =>
    match fetchSpan s fn p (0x60 + 32 * pos) (32 * (size - pos - 1)) with
    | (.error a, s) => (.error a, s)
    | (.ok after, s) => (.ok (before ++ List.replicate 32 0 ++ after), s)

/-- Reads the group table that a RUN names. -/
def readTable (s : State) (fn : Nat) (c : Cmd) : Except Outcome3 GroupRun × State :=
  let p := Cmd.span c 0x38
  match fetchSpan s fn p 0 64 with
  | (.error a, s) => (.error (memoryBad a), s)
  | (.ok h, s) =>
    match groupHeadFail h with
    | some f => (.error (badCommand 2 f), s)
    | none =>
      if p.len < 64 + 32 * leAt h 4 1 then (.error (badHandle 3 (Cmd.src c 0x38) 0x38), s)
      else match readEntries s fn p (leAt h 4 1) (leAt h 5 1) with
        | (.error a, s) => (.error (memoryBad a), s)
        | (.ok m, s) =>
          match groupFail (h ++ m) with
          | some f => (.error (badCommand 2 f), s)
          | none => (.ok (parseGroup (h ++ m)), s)

/-- The peers of a run that fails are told (R241). -/
def abortPeers (s : State) (g : Option GroupRun) (status : Nat) : State :=
  match g with
  | some g => tellPeers s g (.abort (BitVec.ofNat 8 status))
  | none => s

/-- A RUN fails before it begins: the peers that its table names are told. -/
def abortNamed (s : State) (fn : Nat) (c : Cmd) (status : Nat) : State :=
  if Cmd.fld c 0x38 4 = 0 then s
  else match readTable s fn c with
    | (.ok g, s) => abortPeers s (some g) status
    | (.error _, s) => s

/-- Step 2: what the command in progress was doing stops.  A RUN returns its tiles and leaves its contexts PARKED; a
RANDOM_FILL waits no longer; a waiting RELEASE_PLAN releases nothing. -/
def stopActive (s : State) (q : Nat) (status : Nat) : State :=
  let s := match activeCmd (queueOf s q) with
    | some (_, c) => if Cmd.opcode c = opRun ∧ c.phase ≠ .waiting ∧ (runOf s q).isNone then abortNamed s (queueFn s q) c status else s
    | none => s
  let s := endRun s q status (fun _ => .stopped) true
  let s := { s with rng := { s.rng with waiters := s.rng.waiters.filter (fun w => !(w.queue && w.who == q)) } }
  match activeCmd (queueOf s q) with
  | some (_, c) =>
    if Cmd.opcode c = opRandomFill ∧ c.phase = .started then
      -- the bytes not yet written are open (R388)
      let dst := Cmd.span c 0x20
      unfix s { dst with addr := dst.addr + Cmd.fld c 0x30 8 + c.progress, len := Cmd.fld c 0x28 8 - c.progress }
    else if Cmd.opcode c = opReleasePlan ∧ c.phase = .held .plan then
      match planById s (queueFn s q) (Cmd.fld c 0x20 4) with
      | some (slot, p) => setPlan s slot { p with released := false }
      | none => s
    else s
  | none => s

/-- Step 3, and the records of R480 for an EXEC_BUFFER. -/
def reapCurrent (s : State) (q : Nat) (o : Outcome3) : State :=
  let Q := queueOf s q
  match Q.cur with
  | none => s
  | some c =>
    let s := setQueue s q { Q with cur := none, buffer := none, innerCur := none, sqHead := Q.sqHead + 1
                                   fetched := Q.fetched.filter (fun e => e.1 != Q.sqHead) }
    match Q.buffer with
    | none => reap s q false c o
    | some b =>
      let s := match Q.innerCur with
        | some i => reap s q true i o
        | none => s
      let s := reapInner s q (b.addr + 64 * b.next) (b.count - b.next)
      let s := setQueue s q { queueOf s q with fetchedBuffer := [] }
      let detail := if o.status.toNat = stQueueTimeout then 0xFF else o.detail
      reap s q false c { o with detail, result := BitVec.ofNat 64 b.started }

/-- The TAG that the QUEUE_GUILTY record carries: of the command completed in step 3 (R480). -/
def guiltyTag (Q : Queue) : Nat := ((Q.cur.map (fun c => (Cmd.tag c).toNat))).getD 0

/-- A queue becomes guilty: steps 1 to 6 of Table 11-6.  `cause` is FE_Q_STATUS.CAUSE, `o` the outcome of step 3. -/
def makeGuilty (s : State) (q : Nat) (cause : Nat) (o : Outcome3) : State :=
  let Q := queueOf s q
  let tag := guiltyTag Q
  let later := Queue.waiting Q - (if Q.cur.isSome then 1 else 0)
  let s := setQueue s q { Q with state := .stopped, guilty := true, cause := BitVec.ofNat 8 cause, fetchFailed := false }
  let s := stopActive s q o.status.toNat
  let s := reapCurrent s q o
  let s := reapRing s q later
  let s := raiseVector s (queueFn s q) (queueOf s q).errVector
  logEvent s (blockId 0x02 (q / 1024 + 1) (q / 1024 + 1)) 0x401 (queueFn s q) (toLE 2 q ++ toLE 1 cause ++ toLE 4 tag)

/-- A record cannot be written (R275): it stays in the undelivered slot with its own status, and the queue is guilty with
HOST_WRITE_FAILED; a running EXEC_BUFFER whose inner command's record it was stops with it. -/
def undeliverable (s : State) (q : Nat) : State :=
  let s := signalOut s q
  let Q := queueOf s q
  match Q.out with
  | [] => s
  | r :: rest =>
    let s := countCmd (setQueue s q { Q with out := rest, recordHeld := false, undelivered := recordBytes Q r }) q
    makeGuilty s q stHostWrite (outcome stHostWrite 1 0)

/-! ### Doorbells (R246, R247) -/

def badDoorbell (s : State) (q v : Nat) : State :=
  let Q := queueOf s q
  let s := setQueue s q { Q with badDoorbell := satAdd 12 Q.badDoorbell 1 }
  logEvent s (blockId 0x02 (q / 1024 + 1) (q / 1024 + 1)) 0x402 (queueFn s q) (toLE 2 q ++ toLE 4 v)

/-- A new SQ_TAIL, accepted from the old one to SQ_HEAD + SIZE in counter order. -/
def ringTail (s : State) (q : Nat) (v : U32) : State :=
  let Q := queueOf s q
  if (v - Q.sqTail).toNat ≤ Queue.size Q - Queue.waiting Q then
    setQueue s q { Q with sqTail := v, nextSince := if Q.sqHead = Q.sqTail then s.us else Q.nextSince }
  else badDoorbell s q v.toNat

/-- A new CQ_HEAD, accepted from the old one to CQ_TAIL. -/
def ringHead (s : State) (q : Nat) (v : U32) : State :=
  let Q := queueOf s q
  if (v - Q.cqHead).toNat ≤ Queue.records Q then setQueue s q { Q with cqHead := v } else badDoorbell s q v.toNat

-- DESIGN CHOICE, unsafe: notes/assumptions/31.md.
/-- A doorbell write, SQ_TAIL first. -/
def doorbell (s : State) (fn r : Nat) (tail head : Option U32) : State :=
  if !isReady s then s
  else match globalQueue s fn r with
    | none => addCount s (reg 3500 0x54) 1
    | some q =>
      if (queueOf s q).state = .disabled then s
      else
        let s := match tail with
          | some v => ringTail s q v
          | none => s
        match head with
        | some v => ringHead s q v
        | none => s

/-! ### FE_Q_CTRL (R479) -/

/-- R244 and R285: a ring in device memory lies within the partition, and the partition below the firmware area. -/
def ringInside (s : State) (fn : Nat) (base bytes : Nat) : Bool :=
  let c := fnOf s fn
  decide (c.memBase.toNat ≤ base) && decide (base + bytes ≤ c.memLimit.toNat + 1)

def enableChecks (s : State) (fn : Nat) (Q : Queue) : Bool :=
  (!Q.sqDev || ringInside s fn Q.sqBase.toNat (64 * Queue.size Q))
  && (!Q.cqDev || ringInside s fn Q.cqBase.toNat (32 * Queue.size Q))
  && decide ((fnOf s fn).memLimit.toNat < firmwareArea s)

-- DEDUCED, unsafe: notes/assumptions/41.md.
/-- Ignored while a function level reset has the partition rewritten (R375). -/
def enableQueue (s : State) (fn q : Nat) : State :=
  let Q := queueOf s q
  if Q.state != .disabled || ((sealOf s fn).zeroing && (sealOf s fn).byFlr) then s
  else if enableChecks s fn Q then
    let s := { s with stale := s.stale.filter (fun e => !e.tails.any (fun t => t.1 == q)) }
    setQueue s q { Q with state := .running, sqHead := 0, sqTail := 0, cqHead := 0, cqTail := 0, nextSince := s.us }
  else setQueue s q { Q with cause := BitVec.ofNat 8 stBadHandle }

def Queue.idle (Q : Queue) : Bool :=
  Q.sqHead == Q.sqTail && Q.cur.isNone && Q.out.isEmpty && Q.undelivered.isEmpty

def disableQueue (s : State) (q : Nat) : State :=
  let Q := queueOf s q
  if Q.state != .disabled && Queue.idle Q then setQueue s q { Q with state := .disabled } else s

/-- FE_Q_CTRL.RESET: RESET_ABORTED, DETAIL 1 (R269). -/
def resetQueue (s : State) (q : Nat) : State :=
  if (queueOf s q).state = .disabled then s else makeGuilty s q stAborted (outcome stAborted 1 0)

/-- FE_Q_CTRL.RESUME (R270, R275). -/
def resumeQueue (s : State) (q : Nat) : State :=
  let Q := queueOf s q
  if Q.state = .stopped then setQueue s q { Q with state := .running, guilty := false, undelivered := [], nextSince := s.us } else s

/-- A write of FE_Q_CTRL to queue q. -/
def writeQctrl (s : State) (fn q : Nat) (v : U32) : State :=
  if v.getLsbD 1 then resetQueue s q
  else if v.getLsbD 2 then resumeQueue s q
  else if v.getLsbD 0 then enableQueue s fn q
  else disableQueue s q

/-- The queue that FE_QSEL selects for a function (R281). -/
def selectedQueue (s : State) (fn : Nat) : Option Nat := globalQueue s fn (bits (getReg s fn (reg 16 0x40)) 0 12)

/-- The sync object that FE_SYNC_SEL selects. -/
def selectedSync (s : State) (fn : Nat) : Option Nat := globalSync s fn (bits (getReg s fn (reg 22 0x40)) 0 16)

/-! ### Function and sync pages (R242, R266, R281) -/

/-- Blocks of different functions do not overlap and end at or below queue 4,095 (R242). -/
def blockFits (s : State) (fn base count : Nat) : Bool :=
  decide (base + count ≤ 4096)
  && (List.range 16).all (fun f => f == fn || count == 0 || (fnOf s f).qCount == 0
      || decide (base + count ≤ (fnOf s f).qBase) || decide ((fnOf s f).qBase + (fnOf s f).qCount ≤ base))

/-- The function that FE_FNSEL selects. -/
def selectedFn (s : State) : Nat := fld s (reg 21 0x40) 0 4

/-- Every queue of a function is DISABLED. -/
def fnQuiet (s : State) (fn : Nat) : Bool :=
  (List.range (fnOf s fn).qCount).all (fun r => (queueOf s ((fnOf s fn).qBase + r)).state == .disabled)

-- DEDUCED, unsafe: notes/assumptions/40.md.
/-- A write of FE_FN_QUEUES for the selected function; like its other settings it changes only while the function's queues are
DISABLED (R243). -/
def writeFnQueues (s : State) (v : U32) : State :=
  let fn := selectedFn s
  let base := bits v.toNat 0 12
  let count := bits v.toNat 12 13
  if fnQuiet s fn && blockFits s fn base count then setFn s fn { fnOf s fn with qBase := base, qCount := count } else s

/-- A write of FE_SYNC_VALUE_HI: signals with VALUE, with ERROR when SET_ERROR was last written 1, which it clears. -/
def writeSyncHi (s : State) (fn : Nat) (v : U32) : State :=
  match selectedSync s fn with
  | none => s
  | some g =>
    let ctrl := getReg s fn (reg 22 0x50)
    let s := setReg s fn (reg 22 0x50) (putBits ctrl 1 1 0)
    signalSync s g (getReg s fn (reg 22 0x48) + 2 ^ 32 * v.toNat) (bits ctrl 1 1 == 1)

/-- FE_SYNC_CTRL.CLEAR_ERROR (R264). -/
def clearSyncError (s : State) (fn : Nat) : State :=
  match selectedSync s fn with
  | none => s
  | some g => setSync s g { syncOf s g with error := false }

end Sys2Proof.Machine
end

