-- ==== Sys2Proof/Machine/Scaler.lean ====
section
/-! DEFINITION. The scaler (chapter 2): exact input values (R34, R36), the Ising transform (R32), block-scaled quantization (R39 to
R45), the error bound (R52), the refusals (R53), and the coefficient image, dense (R46) and sparse (R148, R149), with its
checks (R47, R150).  Exact values are integers in units of 2^-256, which every FP32, BF16 and INT32 input and every sum of
R32 and R34 is a multiple of. -/

namespace Sys2Proof.Machine

/-! ### Exact input values (R36) -/

def exactUnit : Nat := 256

-- DEDUCED, safe: notes/assumptions/54.md.
/-- An FP32 bit pattern as an exact value; none when NaN or infinite. -/
def fp32Exact (v : Nat) : Option Int :=
  let e := bits v 23 8
  let f := bits v 0 23
  let m : Nat := if e = 0 then f * 2 ^ (exactUnit - 149) else (2 ^ 23 + f) * 2 ^ (exactUnit + e - 150)
  if e = 255 then none else some (if bits v 31 1 = 1 then -(m : Int) else m)

/-- One input element of type ELEM: 0 FP32, 1 INT32, 2 BF16. -/
def elemExact (elem : Nat) (inputExp : Int) (v : Nat) : Option Int :=
  if elem = 1 then some (signed 32 v * 2 ^ ((exactUnit : Int) + inputExp).toNat)
  else if elem = 2 then fp32Exact (2 ^ 16 * (v % 2 ^ 16))
  else fp32Exact v

def elemBytes (elem : Nat) : Nat := if elem = 2 then 2 else 4

/-! ### Combined values (R32, R34) -/

/-- A coupling is keyed by its pair i < j. -/
def pairKey (i j : Nat) : Nat := 2 ^ 24 * min i j + max i j

/-- The combined values of a problem: linear terms and couplings that are not 0, and the constant. -/
structure Combined where
  n : Nat
  h : Table Int := []
  j : Table Int := []
  c : Int := 0
  deriving DecidableEq, Repr

def Combined.addH (p : Combined) (i : Nat) (v : Int) : Combined :=
  { p with h := tset (fun _ => 0) p.h i (tget (fun _ => 0) p.h i + v) }

def Combined.addJ (p : Combined) (i j : Nat) (v : Int) : Combined :=
  let k := pairKey i j
  { p with j := tset (fun _ => 0) p.j k (tget (fun _ => 0) p.j k + v) }

/-- One entry (i, j, v) of a source (R34). -/
def Combined.add (p : Combined) (e : Nat × Nat × Int) : Combined :=
  if e.1 = e.2.1 then Combined.addH p e.1 e.2.2 else Combined.addJ p e.1 e.2.1 e.2.2

/-- R32: J = 4 J', h = 2 h' - 2 Σ J', c = c' - Σ h' + Σ J'. -/
def isingToQubo (p : Combined) : Combined :=
  let c := p.c - (p.h.map (·.2)).sum + (p.j.map (·.2)).sum
  let h := p.h.map (fun e => (e.1, 2 * e.2))
  let q : Combined := { n := p.n, h := h, j := p.j.map (fun e => (e.1, 4 * e.2)), c := c }
  p.j.foldl (fun q e => Combined.addH (Combined.addH q (e.1 / 2 ^ 24) (-2 * e.2)) (e.1 % 2 ^ 24) (-2 * e.2)) q

/-! ### Quantization (R39 to R45, R52) -/

/-- The least e with 2a < k × 2^e, for a > 0 in units of 2^-256: for a < 127.5 × 2^e take k = 255 (R40). -/
def leastExp (a k : Nat) : Int := (Nat.size (2 ^ 17 * a / k) : Int) - 16 - exactUnit

/-- a / 2^e rounded to the nearest integer, ties to even, a in units of 2^-256 (R42). -/
def roundAt (a : Int) (e : Int) : Int :=
  let t := e + exactUnit
  if t ≤ 0 then a * 2 ^ (-t).toNat
  else
    let d : Int := 2 ^ t.toNat
    let q := a / d
    let r := a % d
    if 2 * r < d ∨ (2 * r = d ∧ q % 2 = 0) then q else q + 1

def padded (n : Nat) : Nat := 64 * ceilDiv n 64

/-- A quantized problem: mantissas by pair, stored exponents of the non-empty blocks p ≤ q keyed p × 2^24 + q. -/
structure Quant where
  n : Nat
  bsi16 : Bool
  domain : Nat
  eMax : Int
  eH : Int
  blocks : Table Int := []
  mant : Table Int := []
  h : Table Int := []
  cQ : Int := 0
  qerr : Nat := 0
  zeroed : Nat := 0
  nonzero : Nat := 0
  clamped : Nat := 0
  deriving DecidableEq, Repr

/-- Block of a pair key. -/
def blockKey (k : Nat) : Nat := 2 ^ 24 * (k / 2 ^ 24 / 64) + k % 2 ^ 24 / 64

/-- Largest magnitude of each non-empty block. -/
def blockMax (p : Combined) : Table Nat :=
  p.j.foldl (fun t e => let b := blockKey e.1; tset (fun _ => 0) t b (max (tget (fun _ => 0) t b) e.2.natAbs)) []

/-- Couplings of each non-empty block, n_b. -/
def blockCount (p : Combined) : Table Nat :=
  p.j.foldl (fun t e => let b := blockKey e.1; tset (fun _ => 0) t b (tget (fun _ => 0) t b + 1)) []

/-- R40 to R45 and R52. -/
def quantize (p : Combined) (bsi16 : Bool) (domain : Nat) : Quant :=
  let raw := (blockMax p).map (fun e => (e.1, leastExp e.2 (if bsi16 then 65535 else 255)))
  let hMax := (p.h.map (fun e => e.2.natAbs)).foldl max 0
  let eh := leastExp hMax (2 ^ 32 - 1)
  let ex : Int × Int := match raw with
    | [] => if hMax = 0 then (15, 0) else (eh + 15, eh)
    | r :: rs =>
      let em := rs.foldl (fun m e => max m e.2) r.2
      (em, if hMax = 0 then em - 15 else max eh (em - 15))
  let eMax := ex.1
  let eH := ex.2
  let stored := raw.map (fun e => (e.1, max e.2 (eMax - 15)))
  let mant := p.j.map (fun e => (e.1, roundAt e.2 (tget (fun _ => eMax - 15) stored (blockKey e.1))))
  let h := p.h.map (fun e => (e.1, roundAt e.2 eH))
  let counts := blockCount p
  let bound := (stored.map (fun e => tget (fun _ => 0) counts e.1 * 2 ^ (e.2 - eMax + 15).toNat)).sum
    + p.h.length * 2 ^ (eH - eMax + 15).toNat + 1
  { n := p.n, bsi16, domain, eMax, eH, blocks := stored, mant := mant.filter (fun e => e.2 != 0), h := h.filter (fun e => e.2 != 0)
    cQ := roundAt p.c (eMax - 15), qerr := min bound (2 ^ 64 - 1)
    zeroed := (mant.filter (fun e => e.2 == 0)).length + (h.filter (fun e => e.2 == 0)).length
    nonzero := p.j.length, clamped := (raw.filter (fun e => decide (e.2 < eMax - 15))).length }

/-- Shift code of a block: stored exponent less E_max - 15 (R56). -/
def Quant.shift (q : Quant) (bk : Nat) : Nat := (tget (fun _ => q.eMax - 15) q.blocks bk - (q.eMax - 15)).toNat

/-- |J_ij| and |h_i| in field units (R48). -/
def Quant.jUnits (q : Quant) (e : Nat × Int) : Nat := e.2.natAbs * 2 ^ Quant.shift q (blockKey e.1)
def Quant.hUnits (q : Quant) (v : Int) : Nat := v.natAbs * 2 ^ (q.eH - q.eMax + 15).toNat

/-- Σ_j |J_ij| + |h_i| of every row that has any, keyed by row. -/
def Quant.rowSums (q : Quant) : Table Nat :=
  let add := fun (t : Table Nat) i v => tset (fun _ => 0) t i (tget (fun _ => 0) t i + v)
  let t := q.h.foldl (fun t e => add t e.1 (Quant.hUnits q e.2)) []
  q.mant.foldl (fun t e => add (add t (e.1 / 2 ^ 24) (Quant.jUnits q e)) (e.1 % 2 ^ 24) (Quant.jUnits q e)) t

def Quant.energySum (q : Quant) : Nat :=
  q.cQ.natAbs + (q.h.map (fun e => Quant.hUnits q e.2)).sum + (q.mant.map (Quant.jUnits q)).sum

/-- A refusal of R53: reason code, place, index. -/
structure Refuse where
  reason : Nat
  place : Nat := 0
  index : Nat := 0
  deriving DecidableEq, Repr

/-- Checks 4 to 7 of Table 2-4. -/
def Quant.refuse (q : Quant) : Option Refuse :=
  if 127 < q.eMax ∨ 127 < q.eH then some ⟨4, 0, 0⟩
  else if q.eMax - 15 < -128 then some ⟨5, 0, 0⟩
  else match (Quant.rowSums q).find? (fun e => decide (2 ^ 47 - 1 < e.2)) with
    | some e => some ⟨6, 0, e.1⟩
    | none => if 2 ^ 63 - 1 < Quant.energySum q then some ⟨7, 0, 0⟩ else none

/-! ### The coefficient image (R46, R148, R149) -/

/-- R148: the image is sparse. -/
def isSparse (np nonzero : Nat) (bsi16 : Bool) : Bool :=
  decide (524288 < np) || decide (16 * nonzero < (if bsi16 then 2 else 1) * np * np)

/-- Bytes of a dense and of a sparse image, each part at a multiple of 256. -/
def denseParts (np : Nat) (bsi16 : Bool) : Nat × Nat × Nat :=
  let nb := np / 64
  let m := alignUp (256 + nb * nb) 256
  let l := alignUp (m + 4096 * (nb * nb) * (if bsi16 then 2 else 1)) 256
  (m, l, l + 4 * np)

def sparseParts (np entries : Nat) : Nat × Nat × Nat :=
  let e := alignUp (256 + 8 * (np + 1)) 256
  let l := alignUp (e + 8 * entries) 256
  (e, l, l + 4 * np)

def padTo (b : List Byte) (n : Nat) : List Byte := b ++ List.replicate (n - b.length) 0

/-- Sum modulo 2^64 of the little-endian 8-byte words of a byte string. -/
def sumWords : List Byte → Nat
  | a :: b :: c :: d :: e :: f :: g :: h :: r => (ofLE [a, b, c, d, e, f, g, h] + sumWords r) % 2 ^ 64
  | _ => 0

/-- The parts after the header, from offset 256. -/
def Quant.parts (q : Quant) : List Byte :=
  let np := padded q.n
  let nb := np / 64
  let lin := (List.range np).flatMap (fun i => toLE 4 (unsigned 32 (tget (fun _ => 0) q.h i)))
  let mantAt := fun i j => if i = j then 0 else tget (fun _ => 0) q.mant (pairKey i j)
  if isSparse np q.nonzero q.bsi16 then
    let cols := (List.range np).map (fun j => (List.range np).filterMap (fun i =>
      let m := mantAt i j
      if m = 0 then none
      else some (toLE 8 (i + 2 ^ 24 * Quant.shift q (pairKey (i / 64) (j / 64)) + 2 ^ 32 * unsigned 16 m))))
    let ptrs := cols.foldl (fun (acc : List Nat) c => acc ++ [acc.getLastD 0 + c.length]) [0]
    let (e, l, _) := sparseParts np (ptrs.getLastD 0)
    padTo (padTo (ptrs.flatMap (toLE 8)) (e - 256) ++ cols.flatten.flatten) (l - 256) ++ lin
  else
    let (m, l, _) := denseParts np q.bsi16
    let exps := (List.range nb).flatMap (fun p => (List.range nb).map (fun r =>
      BitVec.ofInt 8 (tget (fun _ => q.eMax - 15) q.blocks (pairKey p r))))
    let w := if q.bsi16 then 2 else 1
    let mants := (List.range nb).flatMap (fun p => (List.range nb).flatMap (fun r =>
      (List.range 64).flatMap (fun i => (List.range 64).flatMap (fun j => toLE w (unsigned (8 * w) (mantAt (64 * p + i) (64 * r + j)))))))
    padTo (padTo exps (m - 256) ++ mants) (l - 256) ++ lin

/-- The image: header of Table 2-3 and the parts. -/
def Quant.image (q : Quant) : List Byte :=
  let np := padded q.n
  let parts := Quant.parts q
  let fmt := (if q.bsi16 then 1 else 0) + (if isSparse np q.nonzero q.bsi16 then 2 else 0)
  let hdr := toLE 4 q.n ++ toLE 4 np ++ toLE 1 fmt ++ toLE 1 q.domain ++ toLE 1 (unsigned 8 q.eMax) ++ toLE 1 (unsigned 8 q.eH)
    ++ toLE 4 q.clamped ++ toLE 8 (unsigned 64 q.cQ) ++ toLE 8 q.qerr ++ toLE 8 q.zeroed ++ toLE 8 q.nonzero ++ toLE 8 (sumWords parts)
    ++ toLE 8 0
  padTo hdr 256 ++ parts

/-! ### Reading a problem source (R33, R34, R53) -/

/-- Why a load stops: an uncorrectable word, or a refusal. -/
inductive LoadFail where
  | memory (addr : Nat)
  | refused (r : Refuse)
  deriving DecidableEq, Repr

/-- count little-endian values of w bytes each. -/
def chunks (w : Nat) (b : List Byte) : Nat → List Nat
  | 0 => []
  | n + 1 => leAt b 0 w :: chunks w (b.drop w) n

/-- The fields of Table 2-2 the scaler uses, with the spans its handles name. -/
structure SourceDesc where
  n : Nat
  domain : Nat
  layout : Nat
  elem : Nat
  bsi16 : Bool
  inputExp : Int
  hPresent : Bool
  cPresent : Bool
  count : Nat
  stride : Nat
  cValue : Nat
  hSpan : Span := {}
  qSpan : Span := {}
  idxSpan : Span := {}
  ptrSpan : Span := {}
  outSpan : Span := {}
  deriving DecidableEq, Repr

/-- The raw elements of a source: h, the entries with their element index, and the pointers of a CSR source. -/
structure RawSource where
  h : List Nat := []
  /-- element index, i, j, raw value -/
  q : List (Nat × Nat × Nat × Nat) := []
  ptr : List Nat := []
  deriving DecidableEq, Repr

/-- Reads rows [r, r + k) of a dense layout. -/
def readRows (s : State) (fn : Nat) (d : SourceDesc) (r : Nat) : Nat → Except Nat (List (Nat × Nat × Nat × Nat)) × State
  | 0 => (.ok [], s)
  | k + 1 =>
    let lo := if d.layout = 1 then r else 0
    let w := elemBytes d.elem
    match fetchSpan s fn d.qSpan (r * d.stride + lo * w) ((d.n - lo) * w) with
    | (.error a, s) => (.error a, s)
    | (.ok b, s) =>
      let es := (chunks w b (d.n - lo)).zipIdx.map (fun e => (r * d.n + lo + e.2, r, lo + e.2, e.1))
      match readRows s fn d (r + 1) k with
      | (.error a, s) => (.error a, s)
      | (.ok rest, s) => (.ok (es ++ rest), s)

/-- The row of entry e by its pointers. -/
def csrRow (ptr : List Nat) (e : Nat) : Nat := (ptr.drop 1).countP (fun p => decide (p ≤ e))

-- DESIGN CHOICE, safe: notes/assumptions/153.md.
/-- Reads a source once, h first (R38). -/
def readSource (s : State) (fn : Nat) (d : SourceDesc) : Except Nat RawSource × State :=
  let w := elemBytes d.elem
  match (if d.hPresent then fetchSpan s fn d.hSpan 0 (d.n * w) else (.ok [], s)) with
  | (.error a, s) => (.error a, s)
  | (.ok hb, s) =>
    let h := if d.hPresent then chunks w hb d.n else []
    match d.layout with
    | 2 =>
      match fetchSpan s fn d.qSpan 0 (12 * d.count) with
      | (.error a, s) => (.error a, s)
      | (.ok b, s) =>
        (.ok { h, q := (List.range d.count).map (fun t => (t, leAt b (12 * t) 4, leAt b (12 * t + 4) 4, leAt b (12 * t + 8) w)) }, s)
    | 3 =>
      match fetchSpan s fn d.qSpan 0 (d.count * w) with
      | (.error a, s) => (.error a, s)
      | (.ok vb, s) =>
        match fetchSpan s fn d.idxSpan 0 (4 * d.count) with
        | (.error a, s) => (.error a, s)
        | (.ok ib, s) =>
          match fetchSpan s fn d.ptrSpan 0 (8 * (d.n + 1)) with
          | (.error a, s) => (.error a, s)
          | (.ok pb, s) =>
            let ptr := chunks 8 pb (d.n + 1)
            (.ok { h, ptr, q := ((chunks w vb d.count).zip (chunks 4 ib d.count)).zipIdx.map (fun e => (e.2, csrRow ptr e.2, e.1.2, e.1.1)) }, s)
    | 4 => (.ok { h }, s)
    | _ =>
      match readRows s fn d 0 d.n with
      | (.error a, s) => (.error a, s)
      | (.ok q, s) => (.ok { h, q }, s)

/-- CSR_ORDER: the failing pointer index (Table 2-4). -/
def csrFail (d : SourceDesc) (ptr : List Nat) : Option Nat :=
  if ptr.headD 0 ≠ 0 then some 0
  else match ((ptr.zip (ptr.drop 1)).zipIdx.find? (fun e => decide (e.1.2 < e.1.1))) with
    | some e => some (e.2 + 1)
    | none => if ptr.getLastD 0 ≠ d.count then some d.n else none

/-- Checks 1 to 3 of Table 2-4, then the combined values in QUBO form. -/
def combine (d : SourceDesc) (r : RawSource) : Except Refuse Combined :=
  let ex := elemExact d.elem d.inputExp
  match r.h.zipIdx.find? (fun e => (ex e.1).isNone) with
  | some e => .error ⟨1, 1, e.2⟩
  | none =>
    match r.q.find? (fun e => (ex e.2.2.2).isNone) with
    | some e => .error ⟨1, 2, e.1⟩
    | none =>
      let cRaw := if d.elem = 2 then d.cValue % 2 ^ 16 else d.cValue
      if d.cPresent && (ex cRaw).isNone then .error ⟨1, 3, 0⟩
      else
        let sparse := d.layout == 2 || d.layout == 3
        match (if sparse then r.q.find? (fun e => decide (d.n ≤ (if d.layout = 2 then max e.2.1 e.2.2.1 else e.2.2.1))) else none) with
        | some e => .error ⟨2, 0, e.1⟩
        | none =>
          match (if d.layout = 3 then csrFail d r.ptr else none) with
          | some i => .error ⟨3, 0, i⟩
          | none =>
            let p : Combined := { n := d.n, c := if d.cPresent then (ex cRaw).getD 0 else 0 }
            let p := r.h.zipIdx.foldl (fun p e => Combined.addH p e.2 ((ex e.1).getD 0)) p
            let p := r.q.foldl (fun p e => Combined.add p (e.2.1, e.2.2.1, (ex e.2.2.2).getD 0)) p
            .ok (if d.domain = 1 then isingToQubo p else p)

/-! ### Reading and checking an image (R47, R149, R150) -/

def parseImageHdr (b : List Byte) : ImageHdr :=
  { n := leAt b 0 4, np := leAt b 4 4, format := leAt b 8 1, domain := leAt b 9 1, eMax := signed 8 (leAt b 0xA 1), eH := signed 8 (leAt b 0xB 1)
    cQ := signed 64 (leAt b 0x10 8), qerr := leAt b 0x18 8, checksum := leAt b 0x30 8, reserved := leAt b 0x38 8 }

def ImageHdr.sparse (h : ImageHdr) : Bool := decide (2 ≤ h.format)
def ImageHdr.bsi16 (h : ImageHdr) : Bool := h.format % 2 == 1
def ImageHdr.width (h : ImageHdr) : Nat := if ImageHdr.bsi16 h then 2 else 1

/-! ### Tensor local memory (R158, R308) -/

def localBytesEach : Nat := 2 ^ 23

-- DESIGN CHOICE, unsafe: notes/assumptions/172.md.
/-- A byte of local memory as the chain of queue q sees it: what it wrote itself, else what an earlier chain of its function wrote,
else the zero of the last clearing. -/
def localCell (s : State) (q off : Nat) : Byte :=
  let kept := tget (fun _ => 0) s.localMem (queueFn s q * localBytesEach + off)
  match (runOf s q).bind (·.chain) with
  | some c => (tget (fun _ => none) c.localMem off).getD kept
  | none => kept

def localRead (s : State) (q off n : Nat) : List Byte := (List.range n).map (fun i => localCell s q (off + i))

/-- Writes local memory, for the chain of queue q and those after it. -/
def localWrite (s : State) (q off : Nat) (b : List Byte) : State :=
  let cells := b.zipIdx
  let base := queueFn s q * localBytesEach + off
  let s := { s with localMem := cells.foldl (fun m e => tset (fun _ => 0) m (base + e.2) e.1) s.localMem }
  match runOf s q with
  | some r => setRun s q { r with chain := r.chain.map (fun c =>
      { c with localMem := cells.foldl (fun m e => tset (fun _ => none) m (off + e.2) (some e.1)) c.localMem }) }
  | none => s

/-! ### Where an image lies -/

/-- An image lies at a device span, its rest at a spill span (R155), or at a byte of the local memory that the chain of a queue
uses. -/
structure ImageAt where
  fn : Nat
  main : Span
  spill : Span := {}
  tile : Option (Nat × Nat) := none
  deriving DecidableEq, Repr

def ImageAt.len (p : ImageAt) : Nat := p.main.len + p.spill.len

/-- Bytes of an image; what lies beyond its buffers is open. -/
def readImage (s : State) (p : ImageAt) (off n : Nat) : Except Nat (List Byte) × State :=
  match p.tile with
  | some (q, base) => (.ok (localRead s q (base + off) n), s)
  | none =>
  let k := min n (p.main.len - off)
  match fetchSpan s p.fn p.main off k with
  | (.error a, s) => (.error a, s)
  | (.ok b, s) =>
    if k = n then (.ok b, s)
    else
      let m := min (n - k) (p.spill.len - (off + k - p.main.len))
      match fetchSpan s p.fn p.spill (off + k - p.main.len) m with
      | (.error a, s) => (.error a, s)
      | (.ok c, s) =>
        let (x, s) := drawBytes s (n - k - m)
        (.ok (b ++ c ++ x), s)

/-- Writes an image: to the end of its device buffer, then to the spill (R155). -/
def writeImage (s : State) (p : ImageAt) (b : List Byte) : State :=
  let s := writeSpan s p.fn p.main 0 (b.take p.main.len)
  writeSpan s p.fn p.spill 0 (b.drop p.main.len)

/-- The header's own values (step 1 of R47), its length apart. -/
def ImageHdr.valuesOk (h : ImageHdr) : Bool :=
  decide (h.format ≤ 3) && decide (h.domain ≤ 1) && decide (1 ≤ h.n) && decide (h.n ≤ 16777216) && h.np == padded h.n
  && decide (-113 ≤ h.eMax) && decide (h.eMax ≤ 127) && decide (h.eMax - 15 ≤ h.eH) && decide (h.eH ≤ 127) && h.reserved == 0

/-- Step 1 of R47: the header and the length of the image it describes; the entry count of a sparse image comes with it. -/
def checkHeader (s : State) (p : ImageAt) : Except LoadFail (ImageHdr × Nat) × State :=
  if ImageAt.len p < 64 then (.error (.refused ⟨8, 0, 0⟩), s)
  else match readImage s p 0 64 with
    | (.error a, s) => (.error (.memory a), s)
    | (.ok b, s) =>
      let h := parseImageHdr b
      if !ImageHdr.valuesOk h then (.error (.refused ⟨8, 0, 0⟩), s)
      else if ImageHdr.sparse h then
        if ImageAt.len p < 256 + 8 * (h.np + 1) then (.error (.refused ⟨8, 0, 0⟩), s)
        else match readImage s p (256 + 8 * h.np) 8 with
          | (.error a, s) => (.error (.memory a), s)
          | (.ok b, s) =>
            let k := ofLE b
            (if ImageAt.len p < (sparseParts h.np k).2.2 then .error (.refused ⟨8, 0, 0⟩) else .ok (h, k), s)
      else (if ImageAt.len p < (denseParts h.np (ImageHdr.bsi16 h)).2.2 then .error (.refused ⟨8, 0, 0⟩) else .ok (h, 0), s)

/-- Where the mantissa of (i, j) lies in the parts of a dense image (from offset 256), and its block index. -/
def denseAt (h : ImageHdr) (i j : Nat) : Nat :=
  let nb := h.np / 64
  (denseParts h.np (ImageHdr.bsi16 h)).1 - 256 + (((i / 64 * nb + j / 64) * 64 + i % 64) * 64 + j % 64) * ImageHdr.width h

def denseMant (h : ImageHdr) (b : List Byte) (i j : Nat) : Int :=
  signed (8 * ImageHdr.width h) (leAt b (denseAt h i j) (ImageHdr.width h))

/-- Step 3 of R47 for one block. -/
def denseBlockBad (h : ImageHdr) (b : List Byte) (k : Nat) : Bool :=
  let nb := h.np / 64
  let p := k / nb
  let q := k % nb
  let e := signed 8 (leAt b k 1)
  let cells := (List.range 64).flatMap (fun i => (List.range 64).map (fun j => (64 * p + i, 64 * q + j)))
  cells.any (fun c => denseMant h b c.1 c.2 == (if ImageHdr.bsi16 h then -32768 else -128))
  || decide (e < h.eMax - 15) || decide (h.eMax < e)
  || cells.any (fun c => c.1 == c.2 && denseMant h b c.1 c.2 != 0)
  || (decide (p < q) && (leAt b k 1 != leAt b (q * nb + p) 1 || cells.any (fun c => denseMant h b c.1 c.2 != denseMant h b c.2 c.1)))

/-- A sparse entry (Table 6-3). -/
structure Entry where
  row : Nat
  shift : Nat
  mant : Int
  reserved : Nat
  deriving DecidableEq, Repr

def parseEntry (v : Nat) : Entry :=
  { row := bits v 0 24, shift := bits v 24 4, mant := signed 16 (bits v 32 16), reserved := bits v 28 4 + bits v 48 16 }

-- DEDUCED, unsafe: notes/assumptions/160.md.
/-- R150: the index of the first failure, over the columns as lists of entries. -/
def sparseFail (h : ImageHdr) (ptrs : List Nat) (entries : List Entry) : Option Nat :=
  let nb := h.np / 64
  let blk := fun r j => r / 64 * nb + j / 64
  match (List.range (h.np + 1)).find? (fun j => if j = 0 then ptrs.getD 0 0 != 0 else decide (ptrs.getD j 0 < ptrs.getD (j - 1) 0)) with
  | some j => some (blk (min j (h.np - 1)) (min j (h.np - 1)))
  | none =>
    let col := fun j => (entries.drop (ptrs.getD j 0)).take (ptrs.getD (j + 1) 0 - ptrs.getD j 0)
    let all := (List.range h.np).flatMap (fun j => (col j).zipIdx.map (fun e => (j, e.2, e.1)))
    let bad := fun (x : Nat × Nat × Entry) =>
      let (j, t, e) := x
      if decide (h.np ≤ e.row) || e.row == j || (t != 0 && decide (e.row ≤ ((col j).getD (t - 1) e).row)) then some (blk e.row j)
      else if e.reserved != 0 || e.mant == 0 || e.mant == -32768 || (!ImageHdr.bsi16 h && decide (127 < e.mant.natAbs)) then some (blk e.row j)
      else if all.any (fun y => (decide (y.1 < j) || (y.1 == j && decide (y.2.1 < t))) && blk y.2.2.row y.1 == blk e.row j && y.2.2.shift != e.shift) then some (blk e.row j)
      else if !(col e.row).any (fun y => y.row == j && y.shift == e.shift && y.mant == e.mant) then some (blk (min e.row j) (max e.row j))
      else none
    all.findSome? bad

/-- The parts of an image from offset 256 with zeros for its padding, as CHECKSUM covers them (Table 2-3): n bytes of the first part, the
second of k bytes from image offset m, and the linear table from offset l. -/
def zeroPads (b : List Byte) (n m k l : Nat) : List Byte :=
  padTo (padTo (b.take n) (m - 256) ++ (b.drop (m - 256)).take k) (l - 256) ++ b.drop (l - 256)

/-- CHECKSUM recomputed over the parts of an image (R46, R149). -/
def imageChecksum (h : ImageHdr) (k : Nat) (b : List Byte) : Nat :=
  let nb := h.np / 64
  sumWords (if ImageHdr.sparse h then zeroPads b (8 * (h.np + 1)) (sparseParts h.np k).1 (8 * k) (sparseParts h.np k).2.1
    else zeroPads b (nb * nb) (denseParts h.np (ImageHdr.bsi16 h)).1 (4096 * (nb * nb) * ImageHdr.width h) (denseParts h.np (ImageHdr.bsi16 h)).2.1)

-- DESIGN CHOICE, safe: notes/assumptions/152.md.
/-- Every check of R47 or R150 on an image; the header and the entry count when it passes. -/
def checkImage (s : State) (p : ImageAt) : Except LoadFail (ImageHdr × Nat) × State :=
  match checkHeader s p with
  | (.error e, s) => (.error e, s)
  | (.ok (h, k), s) =>
    let len := if ImageHdr.sparse h then (sparseParts h.np k).2.2 else (denseParts h.np (ImageHdr.bsi16 h)).2.2
    match readImage s p 256 (len - 256) with
    | (.error a, s) => (.error (.memory a), s)
    | (.ok b, s) =>
      if imageChecksum h k b ≠ h.checksum then (.error (.refused ⟨8, 0, 0⟩), s)
      else
        let fail := if ImageHdr.sparse h then
            sparseFail h (chunks 8 b (h.np + 1)) ((chunks 8 (b.drop ((sparseParts h.np k).1 - 256)) k).map parseEntry)
          else (List.range (h.np / 64 * (h.np / 64))).find? (fun k => denseBlockBad h b k)
        match fail with
        | some i => (.error (.refused ⟨8, 0, i⟩), s)
        | none => (.ok (h, k), s)

/-- The runs of consecutive entries that are wanted: first index and length. -/
def runsFrom (i : Nat) : List Bool → List (Nat × Nat)
  | [] => []
  | false :: r => runsFrom (i + 1) r
  | true :: r => match runsFrom (i + 1) r with
    | (a, n) :: l => if a = i + 1 then (i, n + 1) :: l else (i, 1) :: (a, n) :: l
    | [] => [(i, 1)]

/-- Reads pieces of an image, each an offset and a length, one after the other. -/
def readPieces (s : State) (p : ImageAt) : List (Nat × Nat) → Except Nat (List Byte) × State
  | [] => (.ok [], s)
  | (o, n) :: r =>
    match readImage s p o n with
    | (.error a, s) => (.error a, s)
    | (.ok b, s) =>
      match readPieces s p r with
      | (.error a, s) => (.error a, s)
      | (.ok c, s) => (.ok (b ++ c), s)

/-- Couplings J_kj of variable j with the k of the blocks wanted, 64 a block: mantissa and shift code (R56).  Of a dense image the 64
mantissas and the exponent byte of each block are read, of a sparse one the two pointers of the column and its entries of those
blocks (R157). -/
def imagePart (s : State) (p : ImageAt) (h : ImageHdr) (j : Nat) (want : List Nat) : Except Nat (List (Nat × List (Int × Nat))) × State :=
  if ImageHdr.sparse h then
    match readImage s p (256 + 8 * j) 16 with
    | (.error a, s) => (.error a, s)
    | (.ok pb, s) =>
      let a := leAt pb 0 8
      let z := leAt pb 8 8
      let at' := (sparseParts h.np 0).1 + 8 * a
      -- where the wanted entries lie in the column
      let runs := match readImage s p at' (8 * (z - a)) with
        | (.ok b, _) => runsFrom 0 ((chunks 8 b (z - a)).map (fun v => want.contains ((parseEntry v).row / 64)))
        | (.error _, _) => [(0, z - a)]
      match readPieces s p (runs.map (fun e => (at' + 8 * e.1, 8 * e.2))) with
      | (.error a, s) => (.error a, s)
      | (.ok eb, s) =>
        let es := (chunks 8 eb (eb.length / 8)).map parseEntry
        (.ok (want.map (fun q => (q, (List.range 64).map (fun i => match es.find? (fun e => e.row == 64 * q + i) with
          | some e => (e.mant, e.shift)
          | none => (0, 0))))), s)
  else
    let w := ImageHdr.width h
    let nb := h.np / 64
    let rec go (s : State) : List Nat → Except Nat (List (Nat × List (Int × Nat))) × State
      | [] => (.ok [], s)
      | q :: r =>
        match readImage s p (256 + denseAt h j (64 * q)) (64 * w) with
        | (.error a, s) => (.error a, s)
        | (.ok mb, s) =>
          match readImage s p (256 + (j / 64 * nb + q)) 1 with
          | (.error a, s) => (.error a, s)
          | (.ok eb, s) =>
            let sh := (signed 8 (ofLE eb) - (h.eMax - 15)).toNat
            match go s r with
            | (.error a, s) => (.error a, s)
            | (.ok rest, s) => (.ok ((q, (chunks w mb 64).map (fun m => (signed (8 * w) m, sh))) :: rest), s)
    go s want

/-- Couplings J_kj of variable j with k in [lo, lo + n). -/
def imageRow (s : State) (p : ImageAt) (h : ImageHdr) (j lo n : Nat) : Except Nat (List (Int × Nat)) × State :=
  match imagePart s p h j ((List.range (ceilDiv (lo + n) 64 - lo / 64)).map (· + lo / 64)) with
  | (.error a, s) => (.error a, s)
  | (.ok l, s) => (.ok (((l.flatMap (·.2)).drop (lo % 64)).take n), s)

/-- The coefficient store of the range [lo, lo + n): column by column, with a shift code for each of its blocks (R56, R139). -/
def loadStore (s : State) (p : ImageAt) (h : ImageHdr) (lo n : Nat) : Except Nat Store × State :=
  let rec go (s : State) (v : Nat) : Nat → Except Nat (List (List (Int × Nat))) × State
    | 0 => (.ok [], s)
    | k + 1 =>
      match imageRow s p h (lo + v) lo n with
      | (.error a, s) => (.error a, s)
      | (.ok c, s) =>
        match go s (v + 1) k with
        | (.error a, s) => (.error a, s)
        | (.ok rest, s) => (.ok (c :: rest), s)
  match go s 0 n with
  | (.error a, s) => (.error a, s)
  | (.ok cols, s) =>
    let nb := n / 64
    let blockShift := fun p q =>
      (((cols.drop (64 * q)).take 64).flatMap (fun c => (c.drop (64 * p)).take 64)).foldl (fun m (e : Int × Nat) => max m e.2) 0
    (.ok { mant := cols.map (fun c => c.map (·.1)), shift := (List.range nb).map (fun p => (List.range nb).map (fun q => blockShift p q)) }, s)

/-- The linear terms of [lo, lo + n) as stored mantissas. -/
def loadLinear (s : State) (p : ImageAt) (h : ImageHdr) (k lo n : Nat) : Except Nat (List Int) × State :=
  let at0 := if ImageHdr.sparse h then (sparseParts h.np k).2.1 else (denseParts h.np (ImageHdr.bsi16 h)).2.1
  match readImage s p (at0 + 4 * lo) (4 * n) with
  | (.error a, s) => (.error a, s)
  | (.ok b, s) => (.ok ((chunks 4 b n).map (signed 32)), s)

end Sys2Proof.Machine
end

