-- ==== Sys2Proof/Machine/Records.lean ====
section
/-! DEFINITION. Constraint sets (R117 to R119), their placement in problem lanes (R68, R114), engine capacity (R115, R116), soft
weights and the penalty range (R123, R125), sums, violations, masks and penalties (R121, R122, R124), groups (R67, R69,
R70), and what a problem lane is given of them. -/

namespace Sys2Proof.Machine

/-! ### Parsing a constraint set -/

/-- A record as the set gives it: Table 5-3, its byte offset in the set and its terms (variable, coefficient). -/
structure CRec where
  number : Nat
  off : Nat
  kind : Nat
  soft : Bool
  bound : Int
  weight : Nat
  tag : U32
  terms : List (Nat × Int)
  deriving DecidableEq, Repr

def kindOneHot : Nat := 0
def kindKofN : Nat := 1
def kindLe : Nat := 2
def kindEq : Nat := 3
def kindImplies : Nat := 4
def kindExclude : Nat := 5

def CRec.isGroup (r : CRec) : Bool := decide (r.kind ≤ 1)
/-- A k-of-n group with K of 2 or more; K = 1 makes a one-hot group (R67). -/
def CRec.isRover (r : CRec) : Bool := r.kind == kindKofN && decide (2 ≤ r.bound)

/-- The bytes of a set. -/
structure CSet where
  penExp : Int := 0
  bytes : Nat := 0
  recs : List CRec := []
  deriving DecidableEq, Repr

/-- Reserved values of a record head (Tables 5-3, 5-5): the offset of the failing field. -/
def headFail (b : List Byte) (o : Nat) : Option Nat :=
  let kind := leAt b o 1
  let mode := leAt b (o + 1) 1
  let terms := leAt b (o + 2) 2
  let bound := signed 32 (leAt b (o + 4) 4)
  let weight := leAt b (o + 8) 4
  if 5 < kind then some o
  else if 1 < mode ∨ (kind ≤ 1 ∧ mode = 1) then some (o + 1)
  else if terms = 0 ∨ (kind = 0 ∧ (terms < 2 ∨ 64 < terms)) ∨ (kind = 1 ∧ (terms < 3 ∨ 64 < terms)) ∨ (kind = 4 ∧ terms ≠ 2) ∨ (kind = 5 ∧ terms < 2) then some (o + 2)
  else if (kind = 0 ∧ bound ≠ 1) ∨ (kind = 1 ∧ (bound < 1 ∨ (terms : Int) - 1 < bound)) ∨ (kind = 4 ∧ bound ≠ 0) ∨ (kind = 5 ∧ bound ≠ 1) then some (o + 4)
  else if (mode = 0 ∧ weight ≠ 0) ∨ (mode = 1 ∧ weight = 0) then some (o + 8)
  else none

/-- COEF of a term, by KIND (Table 5-5). -/
def coefOk (kind t : Nat) (c : Int) : Bool :=
  if kind = 2 ∨ kind = 3 then c != 0 && c != -32768
  else if kind = 4 then c == (if t = 0 then 1 else -1)
  else c == 1

/-- What the records before a record have named: members of group records, members of rover groups, variables of linear
records (R119). -/
structure Named where
  groups : List Nat := []
  rovers : List Nat := []
  linear : List Nat := []
  deriving DecidableEq, Repr

/-- The terms of a record, k of them from term t on: the first failing offset, or the terms. -/
def termsFrom (b : List Byte) (n o kind : Nat) (rover : Bool) (nm : Named) (seen : List Nat) (t : Nat) : Nat → Except Nat (List (Nat × Int))
  | 0 => .ok []
  | k + 1 =>
    let a := o + 16 + 8 * t
    let v := leAt b a 4
    let c := signed 16 (leAt b (a + 4) 2)
    if n ≤ v ∨ v ∈ seen then .error a
    else if (kind ≤ 1 ∧ v ∈ nm.groups) ∨ (rover ∧ v ∈ nm.linear) ∨ (2 ≤ kind ∧ v ∈ nm.rovers) then .error a
    else if !coefOk kind t c then .error (a + 4)
    else if leAt b (a + 6) 2 ≠ 0 then .error (a + 6)
    else match termsFrom b n o kind rover nm (v :: seen) (t + 1) k with
      | .error e => .error e
      | .ok r => .ok ((v, c) :: r)

/-- k records from record i at offset o on. -/
def recsFrom (b : List Byte) (n i o : Nat) (nm : Named) : Nat → Except Nat (List CRec)
  | 0 => .ok []
  | k + 1 =>
    match headFail b o with
    | some e => .error e
    | none =>
      let kind := leAt b o 1
      let bound := signed 32 (leAt b (o + 4) 4)
      let rover := decide (kind = 1 ∧ 2 ≤ bound)
      match termsFrom b n o kind rover nm [] 0 (leAt b (o + 2) 2) with
      | .error e => .error e
      | .ok terms =>
        let vs := terms.map (·.1)
        let nm := { groups := if kind ≤ 1 then vs ++ nm.groups else nm.groups
                    rovers := if rover then vs ++ nm.rovers else nm.rovers
                    linear := if 2 ≤ kind then vs ++ nm.linear else nm.linear : Named }
        let r : CRec := { number := i, off := o, kind, soft := leAt b (o + 1) 1 == 1, bound, weight := leAt b (o + 8) 4
                          tag := BitVec.ofNat 32 (leAt b (o + 12) 4), terms }
        match recsFrom b n (i + 1) (o + 16 + 8 * terms.length) nm k with
        | .error e => .error e
        | .ok rest => .ok (r :: rest)

/-- Length of k records from offset o, by their TERMS. -/
def recsLength (b : List Byte) (o : Nat) : Nat → Nat
  | 0 => 0
  | k + 1 => let l := 16 + 8 * leAt b (o + 2) 2; l + recsLength b (o + l) k

/-- A constraint set over N variables: the offset of its first failing field, or the set (R117 to R119). -/
def parseCSet (b : List Byte) (n : Nat) : Except Nat CSet :=
  let records := leAt b 0 4
  if 983040 < records then .error 0
  else if leAt b 4 4 ≠ 0 then .error 4
  else if leAt b 8 8 ≠ 32 + recsLength b 32 records then .error 8
  else if leAt b 0x11 15 ≠ 0 then .error 0x11
  else match recsFrom b n 0 32 {} records with
    | .error e => .error e
    | .ok recs => .ok { penExp := signed 8 (leAt b 0x10 1), bytes := leAt b 8 8, recs }

/-! ### Placement (R68, R114, R136) -/

/-- The range that holds a variable. -/
def rangeIndex (rs : List Range) (v : Nat) : Option Nat := rs.findIdx? (fun r => decide (r.start ≤ v) && decide (v < r.start + r.count))

/-- The first VAR that lies in another range than its record's first, or, for a rover group, in another block, or whose block
another rover group uses. -/
def placeFail (rs : List Range) (recs : List CRec) : Option Nat :=
  let blocks := (recs.filter CRec.isRover).map (fun r => (r.number, (r.terms.headD (0, 0)).1 / 64))
  recs.findSome? (fun r =>
    let v0 := (r.terms.headD (0, 0)).1
    if CRec.isRover r && blocks.any (fun e => decide (e.1 < r.number) && e.2 == v0 / 64) then some (r.off + 16)
    else (r.terms.zipIdx.find? (fun e => rangeIndex rs e.1.1 != rangeIndex rs v0 || (CRec.isRover r && e.1.1 / 64 != v0 / 64))).map (fun e => r.off + 16 + 8 * e.2))

/-! ### Capacity (Table 5-1, R116) -/

def linearRecs (recs : List CRec) : List CRec := recs.filter (fun r => !CRec.isGroup r)
def termCount (recs : List CRec) : Nat := (recs.map (fun r => r.terms.length)).sum

/-- Linear records of one problem lane exceed an empty engine. -/
def overCapacity (recs : List CRec) : Bool :=
  let ls := linearRecs recs
  decide (16384 < ls.length) || decide (262144 < termCount ls)
  || ls.any (fun r => decide ((if r.kind = kindExclude then 64 else 4096) < r.terms.length))
  || (ls.flatMap (fun r => r.terms.map (·.1))).any (fun v => decide (16 < ls.countP (fun r => r.terms.any (fun t => t.1 == v))))

/-! ### Weights and the penalty range (R123, R125) -/

/-- w / 2^k rounded to nearest, ties to even, for k of either sign. -/
def roundPow (w : Nat) (k : Int) : Nat :=
  if 0 ≤ k then w * 2 ^ k.toNat
  else
    let d := 2 ^ (-k).toNat
    let q := w / d
    let r := w % d
    if 2 * r < d ∨ (2 * r = d ∧ q % 2 = 0) then q else q + 1

/-- The field weight w_r. -/
def fieldWeight (penExp eMax : Int) (weight : Nat) : Nat := roundPow weight (penExp - eMax + 15)

/-- Whether the rounding changed it. -/
def weightRounded (penExp eMax : Int) (weight : Nat) : Bool :=
  let k := penExp - eMax + 15
  decide (k < 0) && weight % 2 ^ (-k).toNat != 0

def posSum (ts : List (Nat × Int)) : Int := (ts.map (fun t => max t.2 0)).sum
def negSum (ts : List (Nat × Int)) : Int := (ts.map (fun t => min t.2 0)).sum

/-- V_r, the largest violation a record can reach. -/
def maxViolation (r : CRec) : Int :=
  if r.kind = kindEq then max (posSum r.terms - r.bound) (r.bound - negSum r.terms) else max 0 (posSum r.terms - r.bound)

/-- PENALTY_RANGE of R125, with the ENERGY_SUM of the coefficients. -/
def penaltyFail (c : CSet) (eMax : Int) (energySum : Nat) : Option Refuse :=
  let soft := (linearRecs c.recs).filter (·.soft)
  let w := fun (r : CRec) => fieldWeight c.penExp eMax r.weight
  let t := soft.foldl (fun t r => r.terms.foldl (fun t e => tset (fun _ => 0) t e.1 (tget (fun _ => 0) t e.1 + w r * e.2.natAbs)) t) ([] : Table Nat)
  match t.find? (fun e => decide (2 ^ 30 - 1 < e.2)) with
  | some e => some ⟨9, 0, e.1⟩
  | none =>
    if (2 ^ 63 - 1 : Int) < energySum + (soft.map (fun r => (w r : Int) * maxViolation r)).sum then some ⟨9, 0, 0⟩ else none

/-! ### What a problem lane holds -/

def insertNat (v : Nat) : List Nat → List Nat
  | [] => [v]
  | a :: r => if v < a then v :: a :: r else a :: insertNat v r

def sortNats (l : List Nat) : List Nat := l.foldr insertNat []

/-- The groups of the range [lo, lo + n) in lane numbering, members ascending (R67). -/
def laneGroups (c : CSet) (lo n : Nat) : List Group :=
  (c.recs.filter (fun r => CRec.isGroup r && r.terms.all (fun t => decide (lo ≤ t.1) && decide (t.1 < lo + n)))).map
    (fun r => { members := sortNats (r.terms.map (fun t => t.1 - lo)), k := if r.kind = kindOneHot then 1 else r.bound.toNat })

/-- The linear records of the range, with field weights. -/
def laneRecords (c : CSet) (eMax : Int) (lo n : Nat) : List Record :=
  (c.recs.filter (fun r => !CRec.isGroup r && r.terms.all (fun t => decide (lo ≤ t.1) && decide (t.1 < lo + n)))).map
    (fun r => { eq := r.kind == kindEq, soft := r.soft, bound := r.bound, weight := fieldWeight c.penExp eMax r.weight
                terms := r.terms.map (fun t => (t.1 - lo, t.2)), tag := r.tag, number := r.number })

/-- Soft weights that rounding changed, CE_WEIGHT.ROUNDED. -/
def roundedCount (c : CSet) (eMax : Int) (lo n : Nat) : Nat :=
  (c.recs.filter (fun r => !CRec.isGroup r && r.soft && r.terms.all (fun t => decide (lo ≤ t.1) && decide (t.1 < lo + n))
    && weightRounded c.penExp eMax r.weight)).length

/-! ### Sums, violations, masks and penalties (R121 to R124, R126) -/

def bitAt (x : List Bool) (i : Nat) : Bool := x.getD i false
def bitInt (b : Bool) : Int := if b then 1 else 0

/-- S_r of a state. -/
def recordSum (x : List Bool) (ts : List (Nat × Int)) : Int := (ts.map (fun t => t.2 * bitInt (bitAt x t.1))).sum

/-- v_r for a sum (R121). -/
def violation (r : Record) (sum : Int) : Int := if r.eq then |sum - r.bound| else max 0 (sum - r.bound)

def broken (r : Record) : Bool := decide (0 < violation r r.sum)

/-- The coefficient of a variable in a record, 0 when it is not named. -/
def coefOf (r : Record) (v : Nat) : Int := ((r.terms.find? (fun t => t.1 == v)).map (·.2)).getD 0

def names (r : Record) (v : Nat) : Bool := r.terms.any (fun t => t.1 == v)

/-- The group that holds a variable. -/
def groupOf (gs : List Group) (v : Nat) : Option Group := gs.find? (fun g => g.members.contains v)

/-- Members at 1, ascending. -/
def onMembers (x : List Bool) (g : Group) : List Nat := g.members.filter (bitAt x)

/-- The on member of a one-hot group, or the rover: the member at 1 of the rover pointer's rank (R69). -/
def partnerOf (x : List Bool) (g : Group) : Option Nat := (onMembers x g)[g.rover]?

/-- A lane's candidate (Table 3-4): none, a flip, or a swap with the partner that goes to 0. -/
inductive Cand where
  | none
  | flip
  | swap (partner : Nat)
  deriving DecidableEq, Repr

def candidate (x : List Bool) (gs : List Group) (k : Nat) : Cand :=
  match groupOf gs k with
  | none => .flip
  | some g =>
    if bitAt x k then .none
    else match partnerOf x g with
      | some i => .swap i
      | none => .none

/-- Change of S_r by a lane's candidate. -/
def sumChange (x : List Bool) (r : Record) (k : Nat) : Cand → Int
  | .none => 0
  | .flip => coefOf r k * (1 - 2 * bitInt (bitAt x k))
  | .swap i => coefOf r k - coefOf r i

/-- Records that name the candidate's variable or its partner. -/
def candNames (r : Record) (k : Nat) : Cand → Bool
  | .none => false
  | .flip => names r k
  | .swap i => names r k || names r i

/-- MASK and PEN_k of a lane (R122, R124). -/
def maskPen (x : List Bool) (rs : List Record) (gs : List Group) (k : Nat) : Bool × Int :=
  let c := candidate x gs k
  let hit := rs.filter (fun r => candNames r k c)
  let dv := fun (r : Record) => violation r (r.sum + sumChange x r k c) - violation r r.sum
  ((hit.filter (fun r => !r.soft)).any (fun r => decide (0 < dv r)), ((hit.filter (·.soft)).map (fun r => r.weight * dv r)).sum)

/-- Sums from the state bits (R127). -/
def resum (x : List Bool) (rs : List Record) : List Record := rs.map (fun r => { r with sum := recordSum x r.terms })

/-- Σ w_r × v_r over the soft records. -/
def penaltySum (rs : List Record) : Int := ((rs.filter (·.soft)).map (fun r => r.weight * violation r r.sum)).sum

/-- Variables of linear records (R73, R120). -/
def touchList (np : Nat) (rs : List Record) : List Bool := (List.range np).map (fun k => rs.any (fun r => names r k))

/-! ### Group repair (R70) -/

/-- A group's state after repair, and whether it was repaired. -/
def repairGroup (x : List Bool) (g : Group) : List Bool × Bool :=
  let on := onMembers x g
  if on.length = g.k then (x, false)
  else if g.k < on.length then ((on.drop g.k).foldl (fun x i => x.set i false) x, true)
  else (((g.members.filter (fun i => !bitAt x i)).take (g.k - on.length)).foldl (fun x i => x.set i true) x, true)

/-- Repairs every group; the number repaired comes with it. -/
def repairAll (x : List Bool) (gs : List Group) : List Bool × Nat :=
  gs.foldl (fun acc g => let r := repairGroup acc.1 g; (r.1, acc.2 + (if r.2 then 1 else 0))) (x, 0)

end Sys2Proof.Machine
end

