-- ==== Sys2Proof/Machine/Commands.lean ====
section
/-! DEFINITION. The commands of Table 11-2 that move bytes and signals: NOP, EXEC_BUFFER, PATCH, COPY, FILL, TIMESTAMP and
SYNC_CLEAR, each on a queue whose active command has started with that opcode. -/

namespace Sys2Proof.Machine

def isOp (op : Nat) (c : Cmd) : Bool := Cmd.opcode c == op

/-- DETAIL of HOST_WRITE_FAILED for a command's destination (Table 11-8), when the span lies in host memory, with the span. -/
def destOf (p : Span) : Option (Nat × Span) := if p.host then some (2, p) else none

/-! ### NOP -/

def nopOn (q : Nat) : State → State := onStarted q (isOp opNop) (fun _ _ s => finish s q (okWith 0))

def execNop (q : Nat) (s : State) : Result := onQueue q s (nopOn q)

/-! ### EXEC_BUFFER (R263) -/

/-- The buffer opens: its inner commands are taken from then on. -/
def execBufferOn (q : Nat) : State → State :=
  onStarted q (fun c => isOp opExecBuffer c && c.progress == 0) (fun _ c s =>
    let Q := queueOf s q
    setQueue s q { Q with cur := some { c with progress := 1 }, nextSince := s.us
                          buffer := some { addr := (Cmd.span c 0x20).addr + Cmd.fld c 0x28 8, count := Cmd.fld c 0x24 4 } })

def execExecBuffer (q : Nat) (s : State) : Result := onQueue q s (execBufferOn q)

/-! ### PATCH (R262) -/

/-- The first LENGTH bytes of DATA go to the target in one step. -/
def patchOn (q : Nat) : State → State :=
  onStarted q (isOp opPatch) (fun fn c s =>
    let s := writeSpan s fn (Cmd.span c 0x20) (Cmd.fld c 0x28 8) ((c.bytes.drop 0x30).take (Cmd.fld c 0x24 1))
    finish s q (okWith 0))

def execPatch (q : Nat) (s : State) : Result := onQueue q s (patchOn q)

/-! ### COPY (R256, R292) -/

/-- Poisons what a bad source word's bytes went to in device memory: of source bytes [src, src + n) copied to device address
dst. -/
def poisonCopied (s : State) (src n dst : Nat) (bad : List Nat) : State :=
  bad.foldl (fun s b =>
    let lo := max b src
    let hi := min (b + 32) (src + n)
    poisonSpan s (dst + (lo - src)) (hi - lo)) s

/-- The parts of n bytes from address src that lie in no bad word: offset and length, from offset start on. -/
def goodParts (src n : Nat) (start : Nat) : List Nat → List (Nat × Nat)
  | [] => [(start, n - start)]
  | b :: r => (start, b - src - start) :: goodParts src n (b + 32 - src) r

/-- Copies n bytes as through a separate buffer: every word that reads well is copied, the others are poisoned in device memory
and zero in host memory. -/
def copySpan (s : State) (fn : Nat) (src : Span) (so : Nat) (dst : Span) (d n : Nat) : List Nat × State :=
  let (b, bad, s) := readSpan s fn src so n
  if dst.host then (bad, writeSpan s fn dst d b)
  else
    let s := (goodParts (src.addr + so) n 0 bad).foldl (fun s e => writeSpan s fn dst (d + e.1) ((b.drop e.1).take e.2)) s
    (bad, poisonCopied s (src.addr + so) n (dst.addr + d) bad)

def copyOn (q : Nat) : State → State :=
  onStarted q (isOp opCopy) (fun fn c s =>
    let n := Cmd.fld c 0x28 8
    let dst := Cmd.span c 0x24
    let (bad, s) := copySpan s fn (Cmd.span c 0x20) (Cmd.fld c 0x30 8) dst (Cmd.fld c 0x38 8) n
    match bad with
    | [] => finishTo s q (okWith n) (destOf dst)
    | a :: _ => finishTo s q (memoryBad a) (destOf dst))

def execCopy (q : Nat) (s : State) : Result := onQueue q s (copyOn q)

/-! ### FILL -/

/-- n bytes of an 8-byte pattern. -/
def patternBytes (p : List Byte) (n : Nat) : List Byte := (List.replicate (n / 8) p).flatten

def fillOn (q : Nat) : State → State :=
  onStarted q (isOp opFill) (fun fn c s =>
    let n := Cmd.fld c 0x28 8
    let dst := Cmd.span c 0x20
    let s := writeSpan s fn dst (Cmd.fld c 0x30 8) (patternBytes ((c.bytes.drop 0x38).take 8) n)
    finishTo s q (okWith n) (destOf dst))

def execFill (q : Nat) (s : State) : Result := onQueue q s (fillOn q)

/-! ### TIMESTAMP, SYNC_CLEAR -/

def timestampOn (q : Nat) : State → State :=
  onStarted q (isOp opTimestamp) (fun fn c s =>
    let t := (deviceTime s).toNat
    let dst := Cmd.span c 0x20
    finishTo (writeSpan s fn dst (Cmd.fld c 0x28 8) (toLE 8 t)) q (okWith t) (destOf dst))

def execTimestamp (q : Nat) (s : State) : Result := onQueue q s (timestampOn q)

def syncClearOn (q : Nat) : State → State :=
  onStarted q (isOp opSyncClear) (fun fn c s =>
    match globalSync s fn (Cmd.fld c 0x20 2) with
    | some g => finish (setSync s g { syncOf s g with error := false }) q (okWith 0)
    | none => finish s q (badHandle 1 (Cmd.src c 0x20) 0x20))

def execSyncClear (q : Nat) (s : State) : Result := onQueue q s (syncClearOn q)

end Sys2Proof.Machine
end

