-- ==== Sys2Proof/Machine/Contexts.lean ====
section
/-! DEFINITION. The CONTEXT operations (R276 to R280, Tables 11-9 and 11-10). -/

namespace Sys2Proof.Machine

/-- Where a context's image lies. -/
def ctxImage (c : Ctx) : ImageAt := { fn := c.fn, main := { host := c.imageHost, addr := c.imageAddr, len := c.imageBytes, read := true } }

def isCtxOp (op : Nat) (c : Cmd) : Bool := Cmd.opcode c == opContext && Cmd.fld c 0x20 1 == op

-- DESIGN CHOICE, unsafe: notes/assumptions/34.md.
/-- An operation on a context: held while the context is RUNNING and Table 11-10 does not list that state, BAD_COMMAND in any
other state not listed (R278). -/
def ctxOp (q op : Nat) (f : Nat → Cmd → Nat → Ctx → State → State) : State → State :=
  onStarted q (isCtxOp op) (fun fn c s =>
    match globalCtx s fn (Cmd.fld c 0x24 4) with
    | none => finish s q (badHandle 1 (Cmd.src c 0x24) 0x24)
    | some g =>
      let x := ctxOf s g
      if ctxFrom op x.state then f fn c g x s
      else if x.state = .running then holdCmd s q .context
      else finish s q (badCommand (Cmd.src c 0x20) 0x20))

/-- COEFF_RANGE of a refusal (Table 11-8). -/
def coeffRange (r : Refuse) : Outcome3 := outcome stCoeffRange (r.reason + 256 * r.place) r.index

def loadFail : LoadFail → Outcome3
  | .memory a => memoryBad a
  | .refused r => coeffRange r

/-- A refusal is logged with its reason, place and index (R53). -/
def logRefusal (s : State) (q problem : Nat) (r : Refuse) : State :=
  logEvent s (blockId 0x02 (q / 1024 + 1) (q / 1024 + 1)) 0x403 (queueFn s q)
    (toLE 2 q ++ toLE 1 problem ++ toLE 1 r.reason ++ toLE 1 r.place ++ toLE 8 r.index)

def planInvalid (off : Nat) : Outcome3 := outcome stPlanInvalid (off % 2 ^ 32) off
def tooLarge (code problem : Nat) : Outcome3 := outcome stTooLarge (code + 256 * problem) 0

/-- |c_q| + Σ |h_i| + Σ |J_ij| of an image, in field units, rows from j on. -/
def imageSum (s : State) (p : ImageAt) (h : ImageHdr) (j : Nat) : Nat → Except Nat Nat × State
  | 0 => (.ok 0, s)
  | k + 1 =>
    match imageRow s p h j j (h.np - j) with
    | (.error a, s) => (.error a, s)
    | (.ok row, s) =>
      match imageSum s p h (j + 1) k with
      | (.error a, s) => (.error a, s)
      | (.ok t, s) => (.ok (t + (row.map (fun (e : Int × Nat) => e.1.natAbs * 2 ^ e.2)).sum), s)

/-- Entry count of a sparse image. -/
def imageEntries (s : State) (p : ImageAt) (h : ImageHdr) : Except Nat Nat × State :=
  if ImageHdr.sparse h then
    match readImage s p (256 + 8 * h.np) 8 with
    | (.error a, s) => (.error a, s)
    | (.ok b, s) => (.ok (ofLE b), s)
  else (.ok 0, s)

def imageEnergy (s : State) (p : ImageAt) (h : ImageHdr) : Except Nat Nat × State :=
  match imageSum s p h 0 h.np with
  | (.error a, s) => (.error a, s)
  | (.ok j, s) =>
    match imageEntries s p h with
    | (.error a, s) => (.error a, s)
    | (.ok k, s) =>
      match loadLinear s p h k 0 h.np with
      | (.error a, s) => (.error a, s)
      | (.ok l, s) => (.ok (j + h.cQ.natAbs + (l.map (fun v => v.natAbs * 2 ^ (h.eH - h.eMax + 15).toNat)).sum), s)

/-! ### CREATE (R277) -/

-- DESIGN CHOICE, unsafe: notes/assumptions/55.md.
/-- The checks of CREATE: image header, lane width, whole image, constraint set; the header and set when they pass. -/
def createChecks (s : State) (fn : Nat) (c : Cmd) : Except Outcome3 (ImageHdr × CSet) × State :=
  let p : ImageAt := { fn, main := Cmd.span c 0x28 }
  match checkHeader s p with
  | (.error e, s) => (.error (loadFail e), s)
  | (.ok (h, _), s) =>
    if (if ImageHdr.bsi16 h then 2048 else 4096) < h.np then (.error (tooLarge 4 0), s)
    else match checkImage s p with
      | (.error e, s) => (.error (loadFail e), s)
      | (.ok (h, _), s) =>
        if !Cmd.hasSpan c 0x2C then (.ok (h, {}), s)
        else
          let cs := Cmd.span c 0x2C
          match fetchSpan s fn cs 0 (min 32 cs.len) with
          | (.error a, s) => (.error (memoryBad a), s)
          | (.ok hd, s) =>
            let n := max 32 (leAt hd 8 8)
            if cs.len < n then (.error (badHandle 3 (Cmd.src c 0x2C) 0x2C), s)
            else match fetchSpan s fn cs 0 n with
              | (.error a, s) => (.error (memoryBad a), s)
              | (.ok b, s) =>
                match parseCSet b h.n with
                | .error o => (.error (planInvalid o), s)
                | .ok set =>
                  match placeFail [{ start := 0, count := h.np }] set.recs with
                  | some o => (.error (planInvalid o), s)
                  | none =>
                    if overCapacity set.recs then (.error (tooLarge 5 0), s)
                    else match imageEnergy s p h with
                      | (.error a, s) => (.error (memoryBad a), s)
                      | (.ok e, s) =>
                        match penaltyFail set h.eMax e with
                        | some r => (.error (coeffRange r), s)
                        | none => (.ok (h, set), s)

/-- WIDTH: the smallest problem lane that holds N_P. -/
def ctxWidth (np : Nat) (bsi16 : Bool) : Nat := 2 - modeFor np bsi16

-- DESIGN CHOICE, unsafe: notes/assumptions/162.md.
/-- A CREATE that a COEFF_RANGE ends is logged as a refused LOAD is (R53); it has no problem index. -/
def logCreate (s : State) (q : Nat) (o : Outcome3) : State :=
  if o.status.toNat = stCoeffRange then
    logRefusal s q 0xFF { reason := o.detail.toNat % 256, place := o.detail.toNat / 256 % 256, index := o.result.toNat }
  else s

def createOn (q : Nat) : State → State :=
  ctxOp q 0 (fun fn c g _ s =>
    match createChecks s fn c with
    | (.error o, s) => finish (logCreate s q o) q o
    | (.ok (h, set), s) =>
      let im := Cmd.span c 0x28
      let cs := Cmd.span c 0x2C
      let st := Cmd.span c 0x30
      let ls := linearRecs set.recs
      let x : Ctx := { state := .parked, bsi16 := ImageHdr.bsi16 h, width := ctxWidth h.np (ImageHdr.bsi16 h), fn, n := h.n, np := h.np
                       eMax := h.eMax, eH := h.eH, imageAddr := im.addr, imageHost := im.host, imageBytes := im.len, csetAddr := cs.addr
                       csetHost := cs.host, csetBytes := cs.len, stateAddr := st.addr, records := ls.length, terms := termCount ls }
      finish (setCtx (writeDev s fn st.addr (List.replicate 512 0)) g x) q (okWith (Cmd.fld c 0x24 4)))

def execCreate (q : Nat) (s : State) : Result := onQueue q s (createOn q)

/-! ### MAKE_RESIDENT (R280) -/

/-- Fills a frame with a context's coefficients. -/
def fillFrame (s : State) (x : Ctx) : Except LoadFail Store × State :=
  match checkHeader s (ctxImage x) with
  | (.error e, s) => (.error e, s)
  | (.ok (h, _), s) =>
    match loadStore s (ctxImage x) h 0 x.np with
    | (.error a, s) => (.error (.memory a), s)
    | (.ok st, s) => (.ok st, s)

def makeResidentOn (q : Nat) : State → State :=
  ctxOp q 1 (fun _ _ g x s =>
    match chooseFrame s (widthMode x.width) x.records x.terms false with
    | none => holdCmd s q .tiles
    | some ((t, l, f), s) =>
      match fillFrame s x with
      | (.error e, s) => finish s q (loadFail e)
      | (.ok st, s) =>
        let s := setFrame s (frameKey t l f) { ctx := g, store := st, lastRun := x.lastRun }
        finish (setCtx s g { x with state := .resident, tile := t, lane := l, frame := f }) q (okWith 0))

def execMakeResident (q : Nat) (s : State) : Result := onQueue q s (makeResidentOn q)

/-! ### PARK and FREE -/

def parkOn (q : Nat) : State → State :=
  ctxOp q 2 (fun _ _ g x s => finish (setCtx (dropFrame s x) g (parkCtx x)) q (okWith 0))

def execPark (q : Nat) (s : State) : Result := onQueue q s (parkOn q)

def freeOn (q : Nat) : State → State :=
  ctxOp q 3 (fun _ _ g x s => finish (setCtx (dropFrame s x) g {}) q (okWith 0))

def execFree (q : Nat) (s : State) : Result := onQueue q s (freeOn q)

/-! ### READ_STATE, WRITE_STATE, QUERY -/

def readStateOn (q : Nat) : State → State :=
  ctxOp q 4 (fun fn c _ x s =>
    match readDev s fn x.stateAddr (stateBytes x.n) with
    | (_, a :: _, s) => finish s q (memoryBad a)
    | (b, [], s) => finishTo (writeSpan s fn (Cmd.span c 0x28) 0 b) q (okWith 0) (destOf (Cmd.span c 0x28)))

def execReadState (q : Nat) (s : State) : Result := onQueue q s (readStateOn q)

def writeStateOn (q : Nat) : State → State :=
  ctxOp q 5 (fun fn c g x s =>
    match fetchSpan s fn (Cmd.span c 0x28) 0 (stateBytes x.n) with
    | (.error a, s) => finish s q (memoryBad a)
    | (.ok b, s) =>
      let s := writeDev s fn x.stateAddr b
      finish (setCtx s g (if x.state = .faulted then { x with state := .parked, fault := 0 } else x)) q (okWith 0))

def execWriteState (q : Nat) (s : State) : Result := onQueue q s (writeStateOn q)

def queryOn (q : Nat) : State → State :=
  ctxOp q 6 (fun fn c _ x s => finishTo (writeSpan s fn (Cmd.span c 0x28) 0 (ctxBytes x)) q (okWith 0) (destOf (Cmd.span c 0x28)))

def execQuery (q : Nat) (s : State) : Result := onQueue q s (queryOn q)

end Sys2Proof.Machine
end

