-- ==== Sys2Proof/Machine/PlanImage.lean ====
section
/-! DEFINITION. A plan image as bytes (chapter 8): its header and relocation table (R185, R186, R190), stage list (R187), problem
table (R188), partition descriptors (R135), schedule blocks (R88, R89), source descriptors (R33) and tensor chains (R169,
R170), each with the byte offset of its first failing field in the order of R193. -/

namespace Sys2Proof.Machine

/-! ### Checks in order -/

/-- A failure when a check fails. -/
def failAt (off : Nat) (bad : Bool) : List (Nat × Bool) := [(off, bad)]

/-! ### The header and the relocation table (check 1) -/

/-- Table 8-2. -/
structure PlanHdr where
  seedMode : Nat
  signed : Bool
  imageBytes : Nat
  stages : Nat
  problems : Nat
  relocs : Nat
  stageOff : Nat
  problemOff : Nat
  descOff : Nat
  descBytes : Nat
  constOff : Nat
  constBytes : Nat
  relocOff : Nat
  sigOff : Nat
  scratchBytes : Nat
  resultHandle : Nat
  deriving DecidableEq, Repr

def parsePlanHdr (b : List Byte) : PlanHdr :=
  { seedMode := leAt b 0x06 1, signed := bits (leAt b 0x07 1) 0 1 == 1, imageBytes := leAt b 0x08 8, stages := leAt b 0x10 2
    problems := leAt b 0x12 2, relocs := leAt b 0x14 4, stageOff := leAt b 0x18 8, problemOff := leAt b 0x20 8, descOff := leAt b 0x28 8
    descBytes := leAt b 0x30 8, constOff := leAt b 0x38 8, constBytes := leAt b 0x40 8, relocOff := leAt b 0x48 8
    sigOff := leAt b 0x50 8, scratchBytes := leAt b 0x58 8, resultHandle := leAt b 0x60 4 }

/-- Bytes of the signature part (R191). -/
def sigBytes : Nat := 40 + 3309

/-- The bound copy's length, in whole 256 bytes (R192). -/
def copyBytes (h : PlanHdr) : Nat := alignUp h.imageBytes 256

/-- Header checks of check 1, in ascending offset, with the parts in their order (R186); `len` is the image buffer's length. -/
def hdrFail (b : List Byte) (len : Nat) : Option Nat :=
  let h := parsePlanHdr b
  let stageEnd := h.stageOff + 32 * h.stages
  let probEnd := h.problemOff + 128 * h.problems
  let descEnd := h.descOff + h.descBytes
  let constEnd := h.constOff + h.constBytes
  let relocEnd := h.relocOff + 32 * h.relocs
  let misplaced := fun (off prev fin : Nat) => off % 256 != 0 || decide (off < prev) || decide (h.imageBytes < fin)
  firstFail
    [ (0x00, leAt b 0 4 != 0x4E504C4E), (0x04, leAt b 4 2 != 1), (0x06, decide (1 < h.seedMode)), (0x07, decide (2 ≤ leAt b 7 1))
    , (0x08, decide (h.imageBytes < 128) || decide (len < h.imageBytes)), (0x10, h.stages == 0 || decide (6 < h.stages))
    , (0x12, h.problems == 0 || decide (64 < h.problems)), (0x14, h.relocs == 0 || decide (4096 < h.relocs))
    , (0x18, misplaced h.stageOff 128 stageEnd), (0x20, misplaced h.problemOff stageEnd probEnd)
    , (0x28, misplaced h.descOff probEnd h.descOff || (h.descBytes == 0 && h.descOff != h.constOff)), (0x30, decide (h.imageBytes < descEnd))
    , (0x38, misplaced h.constOff descEnd h.constOff || (h.constBytes == 0 && h.constOff != h.relocOff)), (0x40, decide (h.imageBytes < constEnd))
    , (0x48, misplaced h.relocOff constEnd relocEnd)
    , (0x50, if h.signed then misplaced h.sigOff relocEnd (h.sigOff + sigBytes) else h.sigOff != 0)
    , (0x60, decide (h.relocs < h.resultHandle)), (0x74, anyByte b 0x74 12) ]

/-- Table 8-5. -/
structure RelocEntry where
  kind : Nat
  access : Nat
  slot : Nat
  offset : Nat
  bytes : Nat
  deriving DecidableEq, Repr

def relocEntry (b : List Byte) (o : Nat) : RelocEntry :=
  { kind := leAt b o 1, access := leAt b (o + 1) 1, slot := leAt b (o + 4) 4, offset := leAt b (o + 8) 8, bytes := leAt b (o + 0x10) 8 }

def relocTable (b : List Byte) (h : PlanHdr) : List RelocEntry := (List.range h.relocs).map (fun i => relocEntry b (h.relocOff + 32 * i))

def relocFail (b : List Byte) (h : PlanHdr) : Option Nat :=
  (List.range h.relocs).findSome? (fun i =>
    let o := h.relocOff + 32 * i
    let e := relocEntry b o
    firstFail [ (o, decide (2 < e.kind)), (o + 1, e.access == 0 || decide (3 < e.access)), (o + 2, anyByte b (o + 2) 2)
              , (o + 4, if e.kind = 0 then decide (63 < e.slot) else e.slot != 0), (o + 0x10, e.bytes == 0), (o + 0x18, anyByte b (o + 0x18) 8) ])

/-! ### Tensor descriptors (R169 to R182) -/

/-- The fields of a 128-byte descriptor. -/
abbrev TDesc := List Byte

def TDesc.op (d : TDesc) : Nat := leAt d 0 1
def TDesc.last (d : TDesc) : Bool := bits (leAt d 1 1) 0 1 == 1
def TDesc.mask (d : TDesc) : Nat := leAt d 4 4
def TDesc.aRef (d : TDesc) : Nat := leAt d 8 4
def TDesc.bRef (d : TDesc) : Nat := leAt d 0xC 4
def TDesc.cRef (d : TDesc) : Nat := leAt d 0x10 4
def TDesc.dRef (d : TDesc) : Nat := leAt d 0x14 4
def TDesc.aFmt (d : TDesc) : Nat := leAt d 0x18 1
def TDesc.bFmt (d : TDesc) : Nat := leAt d 0x19 1
def TDesc.dFmt (d : TDesc) : Nat := leAt d 0x1A 1
def TDesc.epilogue (d : TDesc) : Nat := leAt d 0x1B 1
def TDesc.epiParam (d : TDesc) : U32 := BitVec.ofNat 32 (leAt d 0x1C 4)
def TDesc.w (d : TDesc) (o : Nat) : Nat := leAt d o 4
def TDesc.b (d : TDesc) (o : Nat) : Nat := leAt d o 1

def tGemm : Nat := 1
def tGemvSpx : Nat := 2
def tGather : Nat := 3
def tScatter : Nat := 4
def tSegmentSum : Nat := 5
def tElementwise : Nat := 6
def tReduce : Nat := 7
def tSoftmax : Nat := 8
def tRoute : Nat := 9
def tExit : Nat := 10

/-- Bytes of a body that Tables 7-6 and 7-7 list. -/
def tBody (op : Nat) : List (Nat × Nat) :=
  if op = tGemm then [(0x20, 0xF), (0x30, 0x14)]
  else if op = tGemvSpx then [(0x20, 20)]
  else if op = tGather then [(0x20, 12)]
  else if op = tScatter then [(0x20, 13)]
  else if op = tSegmentSum then [(0x20, 20)]
  else if op = tElementwise then [(0x20, 5)]
  else if op = tReduce then [(0x20, 9), (0x2C, 4)]
  else if op = tSoftmax then [(0x20, 8)]
  else if op = tRoute then [(0x20, 6), (0x28, 4)]
  else [(0x20, 5), (0x26, 2)]

/-- Element bits of a format (Table 7-2). -/
def fmtBits (f : Nat) : Nat :=
  if f = 0 then 32 else if f = 1 then 16 else if f = 2 ∨ f = 3 ∨ f = 7 then 8 else if f = 4 ∨ f = 5 then 6
  else if f = 6 ∨ f = 8 then 4 else if f = 9 then 64 else 0

def isMx (f : Nat) : Bool := decide (2 ≤ f) && decide (f ≤ 8)

/-- Bytes of one row of n elements (R160). -/
def rowBytes (f n : Nat) : Nat := if isMx f then alignUp n 32 * fmtBits f / 8 else n * fmtBits f / 8

/-- Bytes of an operand of `rows` rows of n elements, `stride` bytes apart: the element array, then its scales (R160). -/
def matBytes (f rows n stride : Nat) : Nat :=
  if rows = 0 then 0
  else if isMx f then alignUp (rows * stride) 32 + rows * ceilDiv n 32 else (rows - 1) * stride + rowBytes f n

/-- Formats allowed for an opcode (Table 7-5). -/
def aFmtOk (op f : Nat) : Bool :=
  if op = tGemm then decide (f ≤ 8)
  else if op = tGemvSpx then f == 0
  else if op = tReduce then decide (f ≤ 1) || f == 9
  else if op = tRoute ∨ op = tExit then f == 0
  else decide (f ≤ 1)

def bFmtOk (op f : Nat) : Bool :=
  if op = tGemm then decide (f ≤ 8)
  else if op = tGemvSpx then f == 10
  else if op = tReduce then decide (f ≤ 1) || f == 9
  else if op = tRoute ∨ op = tExit then f == 0
  else decide (f ≤ 1)

def dFmtOk (op a f : Nat) : Bool :=
  if op = tGemm ∨ op = tElementwise then decide (f ≤ 8)
  else if op = tGemvSpx then f == 9
  else if op = tSegmentSum then f == 0
  else if op = tReduce then f == 0 || (f == 9 && a == 9)
  else if op = tRoute ∨ op = tExit then f == 0
  else decide (f ≤ 1)

/-- Operands that an opcode needs. -/
def needsB (op : Nat) : Bool := op ∈ [tGemm, tGemvSpx, tGather, tScatter, tSegmentSum]
def needsD (op : Nat) : Bool := op != tExit
/-- ELEMENTWISE functions of two operands. -/
def twoInputs (d : TDesc) : Bool := TDesc.op d == tElementwise && decide (TDesc.b d 0x24 ≤ 4)

/-- An operand reference is well formed (R170). -/
def refBad (nrel r : Nat) : Bool :=
  if 2 ^ 31 ≤ r then bits r 18 13 != 0 else decide (nrel < r)

-- DESIGN CHOICE, unsafe: notes/assumptions/45.md.
/-- The reserved values and fields of one descriptor at image offset o; `i` and `n` are its index and the chain's length. -/
def descFail (d : TDesc) (o i n nrel : Nat) : Option Nat :=
  let op := TDesc.op d
  let ref := fun (f : Nat) (need : Bool) => (o + f, refBad nrel (TDesc.w d f) || (need && TDesc.w d f == 0))
  let dim := fun (f : Nat) => (o + f, TDesc.w d f == 0 || decide (2 ^ 24 < TDesc.w d f))
  let body : List (Nat × Bool) :=
    if op = tGemm then
      [ dim 0x20, dim 0x24, (o + 0x28, TDesc.w d 0x28 == 0 || decide (2 ^ 24 < TDesc.w d 0x28) || (TDesc.b d 0x2C == 1 && TDesc.w d 0x28 % 4 != 0))
      , (o + 0x2C, decide (2 < TDesc.b d 0x2C)), (o + 0x2D, decide (1 < TDesc.b d 0x2D))
      , (o + 0x2E, TDesc.b d 0x2E != 0xFF && decide (63 < TDesc.b d 0x2E))
      , (o + 0x3C, refBad nrel (TDesc.w d 0x3C) || (TDesc.b d 0x2C == 0) != (TDesc.w d 0x3C == 0))
      , (o + 0x40, refBad nrel (TDesc.w d 0x40) || (TDesc.b d 0x2E == 0xFF) != (TDesc.w d 0x40 == 0)) ]
    else if op = tGemvSpx then [(o + 0x20, decide (16777216 < TDesc.w d 0x20)), ref 0x24 true]
    else if op = tScatter then [(o + 0x2C, decide (1 < TDesc.b d 0x2C))]
    else if op = tSegmentSum then [ref 0x30 false]
    else if op = tElementwise then [(o + 0x24, decide (7 < TDesc.b d 0x24))]
    else if op = tReduce then [(o + 0x28, decide (3 < TDesc.b d 0x28)), (o + 0x2C, refBad nrel (TDesc.w d 0x2C) || (TDesc.b d 0x28 == 3) != (TDesc.w d 0x2C != 0))]
    else if op = tSoftmax then [(o + 0x24, TDesc.w d 0x24 == 0 || decide (65536 < TDesc.w d 0x24))]
    else if op = tRoute then [ (o + 0x24, decide (TDesc.b d 0x24 < 2) || decide (64 < TDesc.b d 0x24))
                             , (o + 0x25, TDesc.b d 0x25 == 0 || decide (8 < TDesc.b d 0x25) || decide (TDesc.b d 0x24 ≤ TDesc.b d 0x25)) ]
    else if op = tExit then [ (o + 0x24, decide (3 < TDesc.b d 0x24))
                            , (o + 0x26, leAt d 0x26 2 != 0xFFFF && (decide (leAt d 0x26 2 ≤ i) || decide (n ≤ leAt d 0x26 2))) ]
    else []
  let reserved := ((List.range 96).map (· + 0x20)).find? (fun k => !(tBody op).any (fun f => f.1 ≤ k && k < f.1 + f.2) && leAt d k 1 != 0)
  firstFail ([ (o, op == 0 || decide (10 < op)), (o + 1, decide (2 ≤ leAt d 1 1) || (TDesc.last d != (i + 1 == n))), (o + 2, anyByte d 2 2)
    , (o + 4, decide (2 ^ 24 ≤ TDesc.mask d)), ref 8 true, ref 0xC (needsB op || twoInputs d), ref 0x10 false, ref 0x14 (needsD op)
    , (o + 0x18, !aFmtOk op (TDesc.aFmt d)), (o + 0x19, !bFmtOk op (TDesc.bFmt d)), (o + 0x1A, !dFmtOk op (TDesc.aFmt d) (TDesc.dFmt d))
    , (o + 0x1B, decide (3 < TDesc.epilogue d)) ] ++ body ++ (match reserved with
    | some k => [(o + k, true)]
    | none => []))

-- DESIGN CHOICE, unsafe: notes/assumptions/46.md.
/-- TOP_K and TOKENS of a route table: those of the latest earlier ROUTE of the chain that writes the reference. -/
def routeOf (chain : List TDesc) (i r : Nat) : Nat × Nat :=
  match ((chain.take i).reverse.find? (fun d => TDesc.op d == tRoute && TDesc.dRef d == r)) with
  | some d => (TDesc.b d 0x25, TDesc.w d 0x20)
  | none => (1, 0)

/-- What other buffers say of a descriptor's operands: the present blocks of a BLOCK-sparse B (R167), the bytes of the image and of the
range table of a GEMV_SPX (R176). -/
structure Extents where
  blocks : Nat := 0
  image : Nat := 64
  ranges : Nat := 16
  deriving DecidableEq, Repr

/-- Bytes of the B operand of a GEMM. -/
def gemmBBytes (x : Extents) (d : TDesc) : Nat :=
  let k := TDesc.w d 0x28
  let n := TDesc.w d 0x24
  if TDesc.b d 0x2C = 2 then matBytes (TDesc.bFmt d) (64 * x.blocks) 64 (TDesc.w d 0x34)
  else matBytes (TDesc.bFmt d) n (if TDesc.b d 0x2C = 1 then k / 2 else k) (TDesc.w d 0x34)

/-- Bits of the bitmap of a BLOCK-sparse B: (N block, K block) in row-major order (R167). -/
def bitmapBits (d : TDesc) : Nat := ceilDiv (TDesc.w d 0x28) 64 * ceilDiv (TDesc.w d 0x24) 64

/-- The operands of a descriptor: field offset, bytes, whether it is the output. -/
def operandsOf (chain : List TDesc) (i : Nat) (d : TDesc) (x : Extents) : List (Nat × Nat × Bool) :=
  let op := TDesc.op d
  let f := TDesc.w d
  let el := fun fmt => fmtBits fmt / 8
  if op = tGemm then
    let m := f 0x20
    let n := f 0x24
    let k := f 0x28
    let topK := if TDesc.b d 0x2E = 0xFF then 1 else (routeOf chain i (f 0x40)).1
    [ (0x08, matBytes (TDesc.aFmt d) m k (f 0x30), false), (0x0C, gemmBBytes x d, false), (0x10, matBytes 0 m n (f 0x38), false)
    , (0x14, matBytes (TDesc.dFmt d) (m * topK) n (f 0x38), true)
    , (0x3C, if TDesc.b d 0x2C = 1 then n * ceilDiv k 8 else ceilDiv (bitmapBits d) 8, false), (0x40, 8 * m * topK, false) ]
  else if op = tGemvSpx then [(0x08, 8 * f 0x20, false), (0x0C, x.image, false), (0x24, x.ranges, false), (0x14, 8 * f 0x30, true)]
  else if op = tGather then
    [(0x08, f 0x28 * f 0x24 * el (TDesc.aFmt d), false), (0x0C, 4 * f 0x20, false), (0x14, f 0x20 * f 0x24 * el (TDesc.dFmt d), true)]
  else if op = tScatter then
    [(0x08, f 0x20 * f 0x24 * el (TDesc.aFmt d), false), (0x0C, 4 * f 0x20, false), (0x14, f 0x28 * f 0x24 * el (TDesc.dFmt d), true)]
  else if op = tSegmentSum then
    [ (0x08, f 0x28 * f 0x2C * el (TDesc.aFmt d), false), (0x0C, 8 * f 0x20, false), (0x10, 4 * f 0x24 * f 0x2C, false)
    , (0x14, 4 * f 0x24 * f 0x2C, true), (0x30, 4 * f 0x20, false) ]
  else if op = tElementwise then
    [ (0x08, f 0x20 * el (TDesc.aFmt d), false), (0x0C, if twoInputs d then f 0x20 * el (TDesc.bFmt d) else 0, false)
    , (0x14, matBytes (TDesc.dFmt d) 1 (f 0x20) (rowBytes (TDesc.dFmt d) (f 0x20)), true) ]
  else if op = tReduce then
    if TDesc.b d 0x28 = 3 then
      let topK := (routeOf chain i (f 0x2C)).1
      [(0x08, f 0x20 * topK * f 0x24 * el (TDesc.aFmt d), false), (0x14, f 0x20 * f 0x24 * el (TDesc.dFmt d), true), (0x2C, 8 * f 0x20 * topK, false)]
    else [(0x08, f 0x20 * f 0x24 * el (TDesc.aFmt d), false), (0x14, f 0x20 * el (TDesc.dFmt d), true)]
  else if op = tSoftmax then [(0x08, f 0x20 * f 0x24 * el (TDesc.aFmt d), false), (0x14, f 0x20 * f 0x24 * el (TDesc.dFmt d), true)]
  else if op = tRoute then [(0x08, 4 * f 0x20 * TDesc.b d 0x24, false), (0x14, 8 * f 0x20 * TDesc.b d 0x25, true)]
  else [(0x08, 4, false)]

/-- Where an operand lies: host, device or local memory, its start, and the bytes its buffer has. -/
def operandAt (spans : List Span) (r : Nat) : Nat × Nat × Nat :=
  if 2 ^ 31 ≤ r then (2, r % 2 ^ 18 * 32, 2 ^ 23 - r % 2 ^ 18 * 32)
  else let p := spans.getD (r - 1) {}; (if p.host then 1 else 0, p.addr, p.len)

/-- An operand beyond its buffer, or an output that overlaps an input (R170). -/
def descSizeFail (spans : List Span) (chain : List TDesc) (i o : Nat) (d : TDesc) (x : Extents) : Option Nat :=
  let ops := (operandsOf chain i d x).filter (fun e => TDesc.w d e.1 != 0)
  let at' := fun (e : Nat × Nat × Bool) => operandAt spans (TDesc.w d e.1)
  firstFail (ops.map (fun e =>
    let a := at' e
    (o + e.1, decide (a.2.2 < e.2.1) || (e.2.2 && (ops.filter (fun x => !x.2.2)).any (fun x =>
      let b := at' x
      a.1 == b.1 && decide (0 < e.2.1) && decide (0 < x.2.1) && decide (a.2.1 < b.2.1 + x.2.1) && decide (b.2.1 < a.2.1 + e.2.1))))))

def chainDescs (b : List Byte) (off len : Nat) : List TDesc := (List.range len).map (fun i => (b.drop (off + 128 * i)).take 128)

/-! ### The stage list (R187) -/

def stageEntry (b : List Byte) (o : Nat) : Stage :=
  { kind := leAt b o 1, mask := leAt b (o + 8) 8, chainOff := leAt b (o + 0x10) 8, chainLen := leAt b (o + 0x18) 4 }

def stageList (b : List Byte) (h : PlanHdr) : List Stage := (List.range h.stages).map (fun i => stageEntry b (h.stageOff + 32 * i))

/-- PROBLEM_MASK of a stage kind, 0 when the plan has no such stage. -/
def maskOf (st : List Stage) (kind : Nat) : Nat := ((st.find? (fun e => e.kind == kind)).map (·.mask)).getD 0

def subMask (a b : Nat) : Bool := Nat.land a b == a

/-- Offsets into the descriptor tables: from the start of the image, within them (R185, R188). -/
def inDesc (h : PlanHdr) (off n : Nat) : Bool := decide (h.descOff ≤ off) && decide (off + n ≤ h.descOff + h.descBytes)

def stageFail (b : List Byte) (h : PlanHdr) : Option Nat :=
  let st := stageList b h
  st.zipIdx.findSome? (fun (e, i) =>
    let o := h.stageOff + 32 * i
    let prev := (st.take i).map (·.kind)
    let chain := e.kind == 0 || e.kind == 3
    let ds := chainDescs b e.chainOff e.chainLen
    match firstFail
      [ (o, decide (5 < e.kind) || prev.any (fun k => decide (e.kind ≤ k)) || (decide (3 ≤ e.kind) && maskOf (st.take i) 2 == 0))
      , (o + 1, anyByte b (o + 1) 7)
      , (o + 8, e.mask == 0 || decide (2 ^ h.problems ≤ e.mask) || (decide (3 ≤ e.kind) && !subMask e.mask (maskOf st 2)))
      , (o + 0x10, if chain then !inDesc h e.chainOff (128 * e.chainLen) else e.chainOff != 0) ] with
    | some f => some f
    | none =>
      match firstFail [(o + 0x18, if chain then e.chainLen == 0 || decide (65536 < e.chainLen) else e.chainLen != 0), (o + 0x1C, anyByte b (o + 0x1C) 4)
                      , (0x60, e.kind == 5 && h.resultHandle == 0)] with
      | some f => some f
      | none => if chain then ds.zipIdx.findSome? (fun (d, j) => descFail d (e.chainOff + 128 * j) j e.chainLen h.relocs) else none)

/-! ### Source descriptors (R33) -/

/-- The handles a source uses, with their field offsets. -/
def sourceHandles (b : List Byte) (o : Nat) : List Nat :=
  let layout := leAt b (o + 5) 1
  (if bits (leAt b (o + 9) 1) 0 1 = 1 then [0x0C] else []) ++ (if layout = 4 then [] else [0x10]) ++ (if layout = 3 then [0x14, 0x18] else []) ++ [0x38]

def srcElem (b : List Byte) (o : Nat) : Nat := leAt b (o + 6) 1

def sourceFail (b : List Byte) (o nrel : Nat) : Option Nat :=
  let layout := leAt b (o + 5) 1
  let elem := leAt b (o + 6) 1
  let n := leAt b o 4
  let w := elemBytes elem
  let dense := decide (layout ≤ 1)
  let used := sourceHandles b o
  let hnd := fun f => (o + f, used.contains f && (leAt b (o + f) 4 == 0 || decide (nrel < leAt b (o + f) 4)))
  firstFail
    [ (o, n == 0), (o + 4, decide (1 < leAt b (o + 4) 1)), (o + 5, decide (4 < layout)), (o + 6, decide (2 < elem)), (o + 7, decide (1 < leAt b (o + 7) 1))
    , (o + 8, elem != 1 && leAt b (o + 8) 1 != 0), (o + 9, decide (4 ≤ leAt b (o + 9) 1)), (o + 0xA, anyByte b (o + 0xA) 2)
    , hnd 0x0C, hnd 0x10, (o + 0x14, (hnd 0x14).2 || (layout != 3 && leAt b (o + 0x14) 4 != 0)), (o + 0x18, (hnd 0x18).2 || (layout != 3 && leAt b (o + 0x18) 4 != 0))
    , (o + 0x1C, anyByte b (o + 0x1C) 4), (o + 0x20, !(layout == 2 || layout == 3) && leAt b (o + 0x20) 8 != 0)
    , (o + 0x28, if dense then decide (leAt b (o + 0x28) 8 < n * w) || leAt b (o + 0x28) 8 % w != 0 else leAt b (o + 0x28) 8 != 0)
    , (o + 0x34, anyByte b (o + 0x34) 4), hnd 0x38, (o + 0x3C, anyByte b (o + 0x3C) 4) ]

def spanOf (spans : List Span) (h : Nat) : Span := if h = 0 then {} else spans.getD (h - 1) {}

/-- The descriptor with the spans its handles lead to. -/
def sourceDesc (b : List Byte) (o : Nat) (spans : List Span) : SourceDesc :=
  let f := fun off => spanOf spans (leAt b (o + off) 4)
  { n := leAt b o 4, domain := leAt b (o + 4) 1, layout := leAt b (o + 5) 1, elem := srcElem b o, bsi16 := leAt b (o + 7) 1 == 1
    inputExp := signed 8 (leAt b (o + 8) 1), hPresent := bits (leAt b (o + 9) 1) 0 1 == 1, cPresent := bits (leAt b (o + 9) 1) 1 1 == 1
    count := leAt b (o + 0x20) 8, stride := leAt b (o + 0x28) 8, cValue := leAt b (o + 0x30) 4
    hSpan := f 0x0C, qSpan := f 0x10, idxSpan := f 0x14, ptrSpan := f 0x18, outSpan := f 0x38 }

/-- Bytes each handle of a source must cover. -/
def sourceNeed (d : SourceDesc) (f : Nat) : Nat :=
  let w := elemBytes d.elem
  if f = 0x0C then d.n * w
  else if f = 0x10 then
    (if d.layout = 2 then 12 * d.count else if d.layout = 3 then d.count * w else (d.n - 1) * d.stride + d.n * w)
  else if f = 0x14 then 4 * d.count
  else if f = 0x18 then 8 * (d.n + 1)
  else 0

/-! ### Partition descriptors (R135) -/

/-- Table 6-1. -/
structure PartDesc where
  np : Nat
  tiles : Nat
  epochMode : Nat
  planned : Bool
  epochLen : Nat
  sets : Nat
  sweep : Nat
  rangeH : Nat
  setH : Nat
  fieldH : Nat
  spillH : Nat
  deriving DecidableEq, Repr

def partDesc (b : List Byte) (o : Nat) : PartDesc :=
  { np := leAt b o 4, tiles := leAt b (o + 4) 2, epochMode := leAt b (o + 6) 1, planned := leAt b (o + 7) 1 == 1, epochLen := leAt b (o + 8) 4
    sets := leAt b (o + 0xC) 4, sweep := leAt b (o + 0x10) 4, rangeH := leAt b (o + 0x14) 4, setH := leAt b (o + 0x18) 4
    fieldH := leAt b (o + 0x1C) 4, spillH := leAt b (o + 0x20) 4 }

/-- Tile width of a format (R152). -/
def tileWidth (bsi16 : Bool) : Nat := if bsi16 then 2048 else 4096

def resident (p : PartDesc) (np : Nat) (bsi16 : Bool) : Bool := decide (np ≤ p.tiles * tileWidth bsi16)

/-- Default ranges of [lo, hi) over P tiles (R137). -/
def defaultRanges (lo hi p : Nat) : List Range :=
  let n := 64 * ceilDiv (hi - lo) (64 * p)
  (List.range p).map (fun i => { start := lo + i * n, count := min hi (lo + (i + 1) * n) - (lo + i * n) })

/-- What the checks know of a problem's size: N, N_P and whether BSI16. -/
structure Size where
  n : Nat
  np : Nat
  bsi16 : Bool
  deriving DecidableEq, Repr

/-- Checks of a partition descriptor that need no buffer. -/
def partFail (b : List Byte) (o nrel replicas : Nat) (z : Option Size) : Option Nat :=
  let p := partDesc b o
  let rot := match z with
    | some z => !resident p z.np z.bsi16
    | none => false
  firstFail
    [ (o, p.np == 0 || p.np % 64 != 0 || (match z with
        | some z => p.np != z.np
        | none => false))
    , (o + 4, p.tiles == 0 || decide (6144 < p.tiles) || (match z with
        | some z => !rot && p.rangeH == 0 && (defaultRanges 0 z.np p.tiles).any (fun r => r.count == 0)
        | none => false))
    , (o + 6, decide (2 < p.epochMode) || (p.tiles == 1 && replicas == 1 && z.isSome && !rot && p.epochMode != 0)), (o + 7, decide (1 < leAt b (o + 7) 1))
    , (o + 8, if p.epochMode = 1 then decide (p.epochLen < 256) || decide (1048576 < p.epochLen) else p.epochLen != 0)
    , (o + 0xC, if p.planned then p.sets == 0 || decide (65536 < p.sets) else p.sets != 0), (o + 0x10, p.sweep == 0 || decide (65535 < p.sweep))
    , (o + 0x14, decide (nrel < p.rangeH)), (o + 0x18, if p.planned then p.setH == 0 || decide (nrel < p.setH) else p.setH != 0)
    , (o + 0x1C, decide (nrel < p.fieldH)), (o + 0x20, decide (nrel < p.spillH)), (o + 0x24, anyByte b (o + 0x24) 28) ]

/-! ### Schedule blocks (R88, R89) -/

def segCount (b : List Byte) (o : Nat) : Nat := leAt b o 2
def schedReplicas (b : List Byte) (o : Nat) : Nat := leAt b (o + 2) 1
def schedCap (b : List Byte) (o : Nat) : Nat := leAt b (o + 6) 2
def schedSf (b : List Byte) (o : Nat) : Nat := leAt b (o + 8) 4
def schedLadder (b : List Byte) (o : Nat) : List Nat := (List.range 16).map (fun i => leAt b (o + 0x20 + 2 * i) 2)

def segment (b : List Byte) (o : Nat) : Segment :=
  { kind := leAt b o 1, halve := leAt b (o + 1) 1 == 1, length := leAt b (o + 4) 4, tStart := leAt b (o + 8) 8 % 2 ^ 40
    tParam := leAt b (o + 0x10) 8 % 2 ^ 40, wStep := leAt b (o + 0x18) 4, wMax := leAt b (o + 0x1C) 4 }

def segments (b : List Byte) (o : Nat) : List Segment := (List.range (segCount b o)).map (fun i => segment b (o + 64 + 32 * i))

def segFail (b : List Byte) (o : Nat) : Option Nat :=
  let kind := leAt b o 1
  let param := leAt b (o + 0x10) 8
  firstFail
    [ (o, decide (2 < kind)), (o + 1, decide (1 < leAt b (o + 1) 1)), (o + 2, anyByte b (o + 2) 2), (o + 4, leAt b (o + 4) 4 == 0)
    , (o + 8, decide (2 ^ 40 ≤ leAt b (o + 8) 8))
    , (o + 0x10, decide (2 ^ 40 ≤ param) || (kind == 1 && decide (param < 2 ^ 24)) || (kind == 2 && param != 0)) ]

def schedFail (b : List Byte) (o nrel : Nat) (h : PlanHdr) : Option Nat :=
  let r := schedReplicas b o
  let every := leAt b (o + 4) 2
  let lad := schedLadder b o
  match firstFail
    ([ (o, segCount b o == 0 || decide (1024 < segCount b o) || !inDesc h o (64 + 32 * segCount b o)), (o + 2, r == 0 || decide (16 < r)), (o + 3, anyByte b (o + 3) 1)
     , (o + 4, if r = 1 then every != 0 else every == 0), (o + 6, schedCap b o == 0 || decide (1024 < schedCap b o))
     , (o + 8, schedSf b o == 0 || decide (nrel < schedSf b o)), (o + 0xC, anyByte b (o + 0xC) 20) ]
     ++ lad.zipIdx.map (fun e => (o + 0x20 + 2 * e.2,
         if e.2 < r then e.1 == 0 || (r == 1 && e.1 != 256) || (e.2 != 0 && decide (e.1 ≤ lad.getD (e.2 - 1) 0)) else e.1 != 0))) with
  | some f => some f
  | none => (List.range (segCount b o)).findSome? (fun i => segFail b (o + 64 + 32 * i))

/-! ### Problem table entries (R188) -/

/-- Table 8-4. -/
structure PlanProb where
  off : Nat
  loadMode : Nat
  order : Nat
  k : Nat
  imageH : Nat
  sourceOff : Nat
  csetOff : Nat
  partOff : Nat
  schedOff : Nat
  initMode : Nat
  initH : Nat
  freezeH : Nat
  freezeCount : Nat
  featureH : Nat
  features : Nat
  rsIn : Nat
  rsEnergy : Nat
  rsScore : Nat
  ctxArg : Nat
  deriving DecidableEq, Repr

def planProb (b : List Byte) (o : Nat) : PlanProb :=
  { off := o, loadMode := leAt b o 1, order := leAt b (o + 1) 1, k := leAt b (o + 2) 2, imageH := leAt b (o + 4) 4, sourceOff := leAt b (o + 8) 8
    csetOff := leAt b (o + 0x10) 8, partOff := leAt b (o + 0x18) 8, schedOff := leAt b (o + 0x20) 8, initMode := leAt b (o + 0x28) 1
    initH := leAt b (o + 0x2C) 4, freezeH := leAt b (o + 0x30) 4, freezeCount := leAt b (o + 0x34) 4, featureH := leAt b (o + 0x38) 4
    features := leAt b (o + 0x3C) 4, rsIn := leAt b (o + 0x40) 4, rsEnergy := leAt b (o + 0x44) 4, rsScore := leAt b (o + 0x48) 4
    ctxArg := leAt b (o + 0x4C) 4 }

def planProbs (b : List Byte) (h : PlanHdr) : List PlanProb := (List.range h.problems).map (fun i => planProb b (h.problemOff + 128 * i))

/-- Offsets of a constraint set's own fields lie within the image. -/
def csetBytes (b : List Byte) (h : PlanHdr) (o : Nat) : List Byte := (b.take (h.descOff + h.descBytes)).drop o

/-- A constraint set's first failing field: its fields, then, when the sizes are known, VAR by R119 and its placement. -/
def csetFail (b : List Byte) (h : PlanHdr) (o n : Nat) : Option Nat :=
  let cb := csetBytes b h o
  let long := decide (h.descOff + h.descBytes < o + leAt cb 8 8)
  match parseCSet cb n with
  | .error f => some (if long && decide (8 < f) then o + 8 else o + f)
  | .ok _ => if long then some (o + 8) else none

/-- Step 3 of R193 for problem p: its entry in ascending offset, each structure right after the field that names it. -/
def probFail (b : List Byte) (h : PlanHdr) (st : List Stage) (p : Nat) (e : PlanProb) (z : Option Size) : Option Nat :=
  let o := e.off
  let in' := fun kind => bits (maskOf st kind) p 1 == 1
  let nrel := h.relocs
  let hnd := fun (f v : Nat) (need : Bool) => (o + f, if need then v == 0 || decide (nrel < v) else v != 0)
  let opt := fun (f v : Nat) => (o + f, decide (nrel < v))
  let schedIn := inDesc h e.schedOff 64
  let stop := fun (l : List (Nat × Bool)) (k : Option Nat) => (firstFail l).orElse (fun _ => k)
  let n := (z.map (·.n)).getD 16777216
  let rescore := in' 3
  (stop [ (o, decide (2 < e.loadMode) || (if e.loadMode = 2 then in' 1 else in' 2 && !in' 1)), (o + 1, decide (2 < e.order) || (e.order != 0 && !rescore))
       , (o + 2, e.k == 0 || (schedIn && decide (schedCap b e.schedOff < e.k))), hnd 4 e.imageH (e.loadMode == 1)
       , (o + 8, if e.loadMode = 0 then !inDesc h e.sourceOff 64 else e.sourceOff != 0) ]
    (if e.loadMode = 0 then sourceFail b e.sourceOff nrel else none)).orElse (fun _ =>
  (stop [(o + 0x10, e.csetOff != 0 && (e.loadMode == 2 || !inDesc h e.csetOff 32))] (if e.csetOff = 0 then none else csetFail b h e.csetOff n)).orElse (fun _ =>
  (stop [(o + 0x18, !inDesc h e.partOff 64)] (partFail b e.partOff nrel (if schedIn then schedReplicas b e.schedOff else 1) z)).orElse (fun _ =>
  (stop [(o + 0x20, !schedIn)] (schedFail b e.schedOff nrel h)).orElse (fun _ =>
  firstFail
    [ (o + 0x28, decide (2 < e.initMode)), (o + 0x29, anyByte b (o + 0x29) 3), hnd 0x2C e.initH (e.initMode == 1), opt 0x30 e.freezeH
    , (o + 0x34, decide (n < e.freezeCount) || (e.freezeH == 0 && e.freezeCount != 0)), (if rescore then hnd 0x38 e.featureH true else opt 0x38 e.featureH)
    , (o + 0x3C, if rescore then e.features == 0 || decide (65536 < e.features) else e.features != 0)
    , hnd 0x40 e.rsIn rescore, hnd 0x44 e.rsEnergy rescore, hnd 0x48 e.rsScore rescore
    , (o + 0x4C, (e.loadMode == 2 || e.initMode == 2) && e.ctxArg == 0xFFFFFFFF), (o + 0x50, anyByte b (o + 0x50) 48) ]))))

end Sys2Proof.Machine
end

