-- ==== Sys2Proof/Machine/PlanData.lean ====
section
/-! DEFINITION. The checks of a plan that depend on buffers (step 4 of R193, R195): relocation (R190), image headers (R477), source
and buffer sizes, range and set tables (R136 to R138), starfield buffers (R112), freeze and feature lists (R189, R198), the
limits of Table 6-4 (R151), and the bind report (R156, R194). -/

namespace Sys2Proof.Machine

/-- Steps that may end with an outcome at a check of Table 8-6. -/
abbrev Act (α : Type) := ExceptT (Nat × Outcome3) (StateM State) α

/-- Ends with an outcome at check n. -/
def stopAt {α : Type} (n : Nat) (o : Outcome3) : Act α := throw (n, o)

/-- PLAN_INVALID at a failing field, if any. -/
def passes (n : Nat) : Option Nat → Act Unit
  | none => pure ()
  | some f => stopAt n (planInvalid f)

/-- A read that ends with MEMORY_UNCORRECTABLE on a bad word. -/
def readAct (n fn : Nat) (p : Span) (off len : Nat) : Act (List Byte) :=
  ExceptT.mk (fun s => match fetchSpan s fn p off len with
    | (.ok b, s) => (.ok b, s)
    | (.error a, s) => (.error (n, memoryBad a), s))

/-! ### Relocation (check 3) -/

/-- Access bits of a relocation entry. -/
def accessNeed (a : Nat) : Need := { read := a % 2 == 1, write := decide (2 ≤ a) }

def relocSpan (old : List (Nat × List Byte)) (fn : Nat) (h : PlanHdr) (base : Nat) (args : List U32) (idx : Nat) (e : RelocEntry) : Act Span :=
  let need := accessNeed e.access
  if e.kind = 0 then
    ExceptT.mk (fun s => match relocate s old fn ((args.getD e.slot 0).toNat) need e.offset e.bytes with
      | (.ok p, s) => (.ok { p with addr := p.addr + e.offset, len := e.bytes, read := need.read, write := need.write }, s)
      | (.bad k, s) => (.error (3, badEntry k idx), s)
      | (.memory a, s) => (.error (3, memoryBad a), s))
  else if e.kind = 1 then
    if h.scratchBytes < e.offset + e.bytes then stopAt 3 (badEntry 3 idx)
    else pure { addr := base + copyBytes h + e.offset, len := e.bytes, read := need.read, write := need.write }
  else if h.constBytes < e.offset + e.bytes then stopAt 3 (badEntry 3 idx)
  else if e.access ≠ 1 then stopAt 3 (badEntry 4 idx)
  else pure { addr := base + h.constOff + e.offset, len := e.bytes, read := true }

def relocAll (old : List (Nat × List Byte)) (fn : Nat) (h : PlanHdr) (base : Nat) (args : List U32) (b : List Byte) : Act (List Span) :=
  (relocTable b h).zipIdx.mapM (fun e => relocSpan old fn h base args e.2 e.1)

/-! ### What the checks learn of a problem -/

/-- Sizes of one problem, taken once for checks 4 and 5. -/
structure Facts where
  size : Option Size := none
  sparse : Bool := false
  nonzero : Nat := 0
  image : Span := {}
  imageBytes : Nat := 0
  header : List Byte := []
  /-- rotation sets, each REPLICAS × P ranges; one when resident -/
  sets : List (List Range) := []
  groupPos : List (List Nat) := []
  rotates : Bool := false
  recs : List CRec := []
  deriving DecidableEq, Repr

/-- The context of a problem at run start, when CONTEXT_ARG names one. -/
abbrev CtxArg := Option (Nat × Ctx)

/-- R477 and R478: N, N_P and format of a problem; none when an image header fails step 1 of R47. -/
def sizeOf' (fn : Nat) (b : List Byte) (spans : List Span) (e : PlanProb) (c : CtxArg) : Act Facts :=
  if e.loadMode = 0 then
    let n := leAt b e.sourceOff 4
    pure { size := some { n, np := padded n, bsi16 := leAt b (e.sourceOff + 7) 1 == 1 }, image := spanOf spans (leAt b (e.sourceOff + 0x38) 4) }
  else if e.loadMode = 1 then
    let p := spanOf spans e.imageH
    ExceptT.mk (fun s => match checkHeader s { fn, main := p } with
      | (.ok (h, k), s) =>
        match fetchSpan s fn p 0 64 with
        | (.error a, s) => (.error (4, memoryBad a), s)
        | (.ok hb, s) =>
          let bytes := if ImageHdr.sparse h then (sparseParts h.np k).2.2 else (denseParts h.np (ImageHdr.bsi16 h)).2.2
          (.ok { size := some { n := h.n, np := h.np, bsi16 := ImageHdr.bsi16 h }, image := p, sparse := ImageHdr.sparse h
                 nonzero := leAt hb 0x28 8, imageBytes := bytes, header := hb }, s)
      | (.error (.memory a), s) => (.error (4, memoryBad a), s)
      | (.error (.refused _), s) => (.ok { image := p }, s))
  else
    let np := leAt b e.partOff 4
    match c with
    | some (_, x) => pure { size := some { n := x.n, np := x.np, bsi16 := x.bsi16 }, image := (ctxImage x).main }
    | none => pure { size := some { n := np, np, bsi16 := false } }

-- DESIGN CHOICE, unsafe: notes/assumptions/48.md.
/-- Couplings counted by R35 over what the source holds: combined values that are not 0; entries the scaler would refuse
count as they stand, and entries beyond N do not count. -/
def nonzeroOf (d : SourceDesc) (r : RawSource) : Nat :=
  let p := r.q.foldl (fun (p : Combined) e =>
    if d.n ≤ e.2.1 ∨ d.n ≤ e.2.2.1 ∨ e.2.1 = e.2.2.1 then p else Combined.addJ p e.2.1 e.2.2.1 ((elemExact d.elem d.inputExp e.2.2.2).getD 1)) { n := d.n }
  p.j.length

/-! ### Range and set tables (R136 to R138, R154) -/

def rangeEntries (b : List Byte) (n : Nat) : List (Range × Nat × Bool) :=
  (List.range n).map (fun t =>
    let o := 16 * t
    ({ start := leAt b o 4, count := leAt b (o + 4) 2, pos := leAt b (o + 6) 1 }, leAt b (o + 6) 1, anyByte b (o + 7) 9))

def covers (rs : List Range) (v : Nat) : Bool := rs.any (fun r => decide (r.start ≤ v) && decide (v < r.start + r.count))

/-- One set of a table breaks a rule; `gmax` bounds GROUP_POS. -/
def setBad (es : List (Range × Nat × Bool)) (p width np gmax : Nat) (whole : Bool) : Bool :=
  let rs := es.map (·.1)
  let one := rs.take p
  es.any (fun e => e.1.start % 64 != 0 || e.1.count % 64 != 0 || decide (e.1.count < 64) || decide (width < e.1.count) || decide (np < e.1.start + e.1.count)
    || decide (gmax ≤ e.2.1) || e.2.2)
  || rs.zipIdx.any (fun e => let f := one.getD (e.2 % p) { start := 0, count := 0 }; e.1.start != f.start || e.1.count != f.count)
  || one.zipIdx.any (fun a => one.zipIdx.any (fun c => decide (a.2 < c.2) && decide (a.1.start < c.1.start + c.1.count) && decide (c.1.start < a.1.start + a.1.count)))
  || (whole && (List.range (np / 64)).any (fun i => !covers one (64 * i)))

-- DESIGN CHOICE, unsafe: notes/assumptions/159.md.
/-- The default sets: one of R137 when resident, else those of R154 AUTO. -/
def autoSets (np p w replicas : Nat) (rotates : Bool) : List (List Range) :=
  let spans := if rotates then (List.range (ceilDiv np (p * w))).map (fun s => (s * p * w, min np ((s + 1) * p * w))) else [(0, np)]
  spans.map (fun e =>
    let rs := defaultRanges e.1 e.2 p
    (List.range (replicas * p)).map (fun t => { rs.getD (t % p) { start := 0, count := 0 } with pos := t / 96 }))

/-! ### Step 4 for one problem -/

/-- Bytes that hold one state in a starfield buffer, S, and the least size of the buffer (R112). -/
def starSlot (np : Nat) : Nat := alignUp (ceilDiv np 8) 256
def starBytes (cap np : Nat) : Nat := cap * (starSlot np + 64)

def spansMeet (a b : Span) : Bool :=
  a.host == b.host && decide (0 < a.len) && decide (0 < b.len) && decide (a.addr < b.addr + b.len) && decide (b.addr < a.addr + a.len)

/-- A u32 list in a buffer. -/
def readU32s (fn : Nat) (p : Span) (n : Nat) : Act (List Nat) := do
  let b ← readAct 4 fn p 0 (4 * n)
  pure (chunks 4 b n)

/-- Rotation sets of a problem, with the checks of its tables. -/
def setsOf (fn : Nat) (b : List Byte) (spans : List Span) (e : PlanProb) (z : Size) (gmax : Nat) : Act (List (List Range) × Bool) := do
  let p := partDesc b e.partOff
  let reps := schedReplicas b e.schedOff
  let w := tileWidth z.bsi16
  let rot := !resident p z.np z.bsi16
  let per := reps * p.tiles
  if rot && p.rangeH != 0 then stopAt 4 (planInvalid (e.partOff + 0x14))
  let mut sets := autoSets z.np p.tiles w reps rot
  if p.rangeH != 0 then
    let sp := spanOf spans p.rangeH
    if sp.len < 16 * per then stopAt 4 (planInvalid (e.partOff + 0x14))
    let raw ← readAct 4 fn sp 0 (16 * per)
    let es := rangeEntries raw per
    if setBad es p.tiles w z.np gmax true then stopAt 4 (planInvalid (e.partOff + 0x14))
    sets := [es.map (·.1)]
  if p.planned then
    let sp := spanOf spans p.setH
    if sp.len < 16 * per * p.sets then stopAt 4 (planInvalid (e.partOff + 0x18))
    let raw ← readAct 4 fn sp 0 (16 * per * p.sets)
    let tabs := (List.range p.sets).map (fun k => rangeEntries (raw.drop (16 * per * k)) per)
    let all := tabs.flatMap (fun es => (es.take p.tiles).map (·.1))
    if tabs.any (fun es => setBad es p.tiles w z.np gmax false) || (List.range (z.np / 64)).any (fun i => !covers all (64 * i)) then
      stopAt 4 (planInvalid (e.partOff + 0x18))
    if rot then sets := tabs.map (fun es => es.map (·.1))
  pure (sets, rot)

/-- What the plan's constraint set fails of R68, R114 and R139 for the ranges of every set. -/
def setsPlaceFail (sets : List (List Range)) (p : Nat) (recs : List CRec) : Option Nat :=
  sets.findSome? (fun rs => placeFail (rs.take p) recs)

/-- Step 4 for problem p, in the order of step 3. -/
def probBuffers (fn : Nat) (b : List Byte) (h : PlanHdr) (spans : List Span) (e : PlanProb) (f : Facts) (gmax : Nat) :
    Act Facts := do
  let o := e.off
  let tooShort := fun (hnd need field : Nat) => passes 4 (firstFail (failAt field (decide ((spanOf spans hnd).len < need))))
  match f.size with
  | none => stopAt 4 (planInvalid (o + 4))
  | some z =>
    let mut f := f
    if e.loadMode = 1 then passes 4 (firstFail (failAt (o + 4) f.image.host))
    if e.loadMode = 0 then
      let d := sourceDesc b e.sourceOff spans
      for k in sourceHandles b e.sourceOff do
        tooShort (leAt b (e.sourceOff + k) 4) (if z.n ≤ 16777216 then sourceNeed d k else 0) (e.sourceOff + k)
      passes 4 (firstFail (failAt (e.sourceOff + 0x38) f.image.host))
      if z.n ≤ 16777216 then
        let nz ← ExceptT.mk (fun s => match readSource s fn d with
          | (.ok r, s) => (.ok (nonzeroOf d r), s)
          | (.error a, s) => (.error (4, memoryBad a), s))
        let sp := isSparse z.np nz z.bsi16
        f := { f with nonzero := nz, sparse := sp, imageBytes := if sp then (sparseParts z.np (2 * nz)).2.2 else (denseParts z.np z.bsi16).2.2 }
    let recs := if e.csetOff = 0 then [] else
      match parseCSet (csetBytes b h e.csetOff) z.n with
      | .ok c => c.recs
      | .error _ => []
    let part := partDesc b e.partOff
    let (sets, rot) ← setsOf fn b spans e z gmax
    match setsPlaceFail sets part.tiles recs with
    | some k => stopAt 4 (planInvalid (e.csetOff + k))
    | none => pure ()
    f := { f with sets, rotates := rot, recs }
    let fieldNeed := 8 * z.np + ceilDiv z.np 8
    if part.fieldH = 0 then passes 4 (firstFail (failAt (e.partOff + 0x1C) rot))
    else passes 4 (firstFail (failAt (e.partOff + 0x1C) (decide ((spanOf spans part.fieldH).len < fieldNeed) || (spanOf spans part.fieldH).host)))
    if part.spillH != 0 then passes 4 (firstFail (failAt (e.partOff + 0x20) (!(spanOf spans part.spillH).host)))
    let sf := spanOf spans (schedSf b e.schedOff)
    let cap := schedCap b e.schedOff
    passes 4 (firstFail (failAt (e.schedOff + 8) (decide (sf.len < starBytes cap z.np) || sf.host || spansMeet sf f.image)))
    if e.initMode = 1 then tooShort e.initH (ceilDiv z.n 8) (o + 0x2C)
    if e.freezeCount != 0 then
      tooShort e.freezeH (4 * e.freezeCount) (o + 0x30)
      if z.n < e.freezeCount then stopAt 4 (planInvalid (o + 0x34))
      let l ← readU32s fn (spanOf spans e.freezeH) e.freezeCount
      passes 4 (firstFail (failAt (o + 0x30) (l.any (fun v => decide (z.n ≤ v)))))
    if e.features != 0 then
      tooShort e.featureH (4 * e.features) (o + 0x38)
      let l ← readU32s fn (spanOf spans e.featureH) e.features
      passes 4 (firstFail (failAt (o + 0x38) (l.any (fun v => decide (z.n ≤ v)))))
      tooShort e.rsIn (2 * cap * e.features) (o + 0x40)
      tooShort e.rsEnergy (4 * cap) (o + 0x44)
      tooShort e.rsScore (4 * cap) (o + 0x48)
    pure f

/-- Starfield buffers of two problems overlap (R112): the later one's SF_HANDLE. -/
def starOverlap (b : List Byte) (spans : List Span) (es : List (PlanProb × Facts)) : Option Nat :=
  let bufs := es.map (fun x => (spanOf spans (schedSf b x.1.schedOff), x.1.schedOff + 8))
  bufs.zipIdx.findSome? (fun x => if (bufs.take x.2).any (fun y => spansMeet y.1 x.1.1) then some x.1.2 else none)

/-! ### Limits (check 5, Table 6-4) -/

/-- Records of one range exceed an engine (R116). -/
def engineOver (sets : List (List Range)) (p : Nat) (recs : List CRec) : Bool :=
  sets.any (fun rs => (rs.take p).any (fun r => overCapacity (recs.filter (fun c => c.terms.all (fun t => decide (r.start ≤ t.1) && decide (t.1 < r.start + r.count))))))

-- DESIGN CHOICE, unsafe: notes/assumptions/47.md.
/-- The first limit exceeded by problem p; `acc` is the tiles of the ANNEAL problems up to it. -/
def limitFail (b : List Byte) (spans : List Span) (e : PlanProb) (f : Facts) (z : Size) (acc devices : Nat) : Option Nat :=
  let part := partDesc b e.partOff
  let w := tileWidth z.bsi16
  let spill := f.imageBytes - f.image.len
  if 16777216 < z.n then some 1
  else if f.sparse && decide (4294967296 < f.nonzero) then some 2
  else if 96 * devices < schedReplicas b e.schedOff * part.tiles ∨ 96 * devices < acc then some 3
  else if (e.loadMode = 2 ∧ w < z.np) ∨ f.sets.any (fun rs => rs.any (fun r => decide (w < r.count)) || decide (part.tiles * w < ((rs.take part.tiles).map (·.count)).sum)) then some 4
  else if engineOver f.sets part.tiles f.recs then some 5
  else if e.loadMode = 0 ∧ 0 < spill ∧ (part.spillH = 0 ∨ (spanOf spans part.spillH).len < spill) then some 6
  else none

/-- Check 5 over the problems in index order. -/
def limitsFail (b : List Byte) (spans : List Span) (st : List Stage) (es : List (PlanProb × Facts)) (devices : Nat) : Option (Nat × Nat) :=
  let tiles := fun (e : PlanProb) => schedReplicas b e.schedOff * (partDesc b e.partOff).tiles
  es.zipIdx.findSome? (fun x =>
    let acc := (((es.take (x.2 + 1)).zipIdx.filter (fun y => bits (maskOf st 2) y.2 1 == 1 && bits (maskOf st 2) x.2 1 == 1)).map (fun y => tiles y.1.1)).sum
    match x.1.2.size with
    | some z => (limitFail b spans x.1.1 x.1.2 z acc devices).map (fun c => (c, x.2))
    | none => none)

-- DESIGN CHOICE, safe: notes/assumptions/60.md.
/-- Entries of one set of the range table that a handle names: REPLICAS × P of the plan problem whose table it is, else what the
table's bytes hold. -/
def setEntries (b : List Byte) (h : PlanHdr) (ref bytes : Nat) : Nat :=
  match (planProbs b h).find? (fun e => let p := partDesc b e.partOff; p.rangeH == ref || p.setH == ref) with
  | some e => schedReplicas b e.schedOff * (partDesc b e.partOff).tiles
  | none => bytes / 16

/-- Least bytes of a problem's image: its own count once the image's header or the source is known, else that of its size. -/
def Facts.leastImage (f : Facts) : Nat :=
  if f.imageBytes ≠ 0 then f.imageBytes
  else match f.size with
    | some z => min (denseParts z.np z.bsi16).2.2 (sparseParts z.np 0).2.2
    | none => 64

/-- A reference names a plan buffer. -/
def inBuffer (r : Nat) : Bool := r != 0 && decide (r < 2 ^ 31)

-- DESIGN CHOICE, unsafe: notes/assumptions/171.md.
/-- The extents of a descriptor's operands as far as binding can tell them: a bitmap in a plan buffer is read; the image of a plan's
problem has that problem's size; what lies in local memory is known to the chain alone. -/
def extentsOf (fn : Nat) (b : List Byte) (h : PlanHdr) (spans : List Span) (fs : List Facts) (d : TDesc) : Act Extents :=
  if TDesc.op d = tGemm ∧ TDesc.b d 0x2C = 2 ∧ inBuffer (TDesc.w d 0x3C) = true ∧ ceilDiv (bitmapBits d) 8 ≤ (spanOf spans (TDesc.w d 0x3C)).len then do
    let map ← readAct 4 fn (spanOf spans (TDesc.w d 0x3C)) 0 (ceilDiv (bitmapBits d) 8)
    pure { blocks := (List.range (bitmapBits d)).countP (fun j => bits (leAt map (j / 8) 1) (j % 8) 1 == 1) }
  else if TDesc.op d = tGemvSpx then
    let image := if inBuffer (TDesc.bRef d) then (((fs.find? (fun f => f.image == spanOf spans (TDesc.bRef d))).map Facts.leastImage).getD 64) else 64
    let per := if inBuffer (TDesc.w d 0x24) then max 1 (setEntries b h (TDesc.w d 0x24) 16) else 1
    pure { image := max 64 image, ranges := 16 * per * (TDesc.w d 0x28 + 1) }
  else pure {}

/-- The operand checks of a chain's descriptors, in their order (R170). -/
def chainSizes (fn : Nat) (b : List Byte) (h : PlanHdr) (spans : List Span) (fs : List Facts) (e : Stage) : Act Unit :=
  let ds := chainDescs b e.chainOff e.chainLen
  ds.zipIdx.forM (fun d => do
    let x ← extentsOf fn b h spans fs d.1
    passes 4 (descSizeFail spans ds d.2 (e.chainOff + 128 * d.2) d.1 x))

/-- Checks 4 (the parts of step 4) and 5, with the arguments of the command and the group size as known then. -/
def examine (fn : Nat) (b : List Byte) (h : PlanHdr) (spans : List Span) (gmax devices : Nat) (fs : List Facts) : Act (List Facts) := do
  let st := stageList b h
  for e in st do
    if e.kind == 0 || e.kind == 3 then chainSizes fn b h spans fs e
  let es := planProbs b h
  let out ← (es.zip fs).mapM (fun x => probBuffers fn b h spans x.1 x.2 gmax)
  passes 4 (starOverlap b spans (es.zip out))
  match limitsFail b spans st (es.zip out) devices with
  | some (c, p) => stopAt 5 (tooLarge c p)
  | none => pure out

/-! ### The bind report (R156, R194) -/

/-- Nominal beat of a point in ps (Table 13-1). -/
def nominalBeat (pp : Nat) : Nat := if pp = 0 then 1050 else if pp = 1 then 860 else if pp = 2 then 710 else if pp = 3 then 600 else if pp = 4 then 530 else 480

/-- Effective points of the halves, GL_PP_STATUS. -/
def pointOf (s : State) (h : Half) : Nat := if h = .west then fld s (reg 4 0x48) 0 3 else fld s (reg 4 0x48) 4 3

/-- Inverse bandwidths in ns a byte: 80 % of the data bandwidth, 2,048 / 75 bytes per ns a channel, and 80 % of 121 GB/s. -/
def invB (s : State) : ℚ := 75 / (2048 * channels s)
def invH : ℚ := 10 / 968

-- DESIGN CHOICE, unsafe: notes/assumptions/52.md.
/-- SLOWDOWN_X256; a row below w makes N_P - w negative, as the formula has it. -/
def slowdown (s : State) (part : PartDesc) (f : Facts) (z : Size) : Nat :=
  let beat := nominalBeat (min (pointOf s .west) (pointOf s .east))
  let len := if part.epochMode = 1 then part.epochLen else 4096
  let w := tileWidth z.bsi16
  let chg : ℚ := (part.tiles * w / 16 : Nat)
  let row : ℚ := ((if f.sparse then 8 * ceilDiv (2 * f.nonzero) z.np + 16 else (if z.bsi16 then 2 else 1) * ((z.np : Int) - w) : Int) : ℚ)
  let sp : ℚ := ((f.imageBytes - f.image.len : Nat) : ℚ) / f.imageBytes
  let mix := (1 - sp) * invB s + sp * invH
  let base : ℚ := (len * 4 * beat : Nat) / 1000 + 2000
  let t0 := base + chg * row * invB s
  let v : ℚ := if f.rotates then (2 ^ 24 * part.tiles : Nat) * mix else 0
  let t1 := base + chg * row * mix + v / part.sweep
  unsigned 32 (256 * t1 / t0 + 1 / 2).floor

/-- The 32-byte problem entry. -/
def reportEntry (s : State) (b : List Byte) (e : PlanProb) (f : Facts) : List Byte :=
  let part := partDesc b e.partOff
  let spill := if e.loadMode = 0 then f.imageBytes - f.image.len else 0
  match f.size with
  | none => toLE 32 0
  | some z =>
    if f.rotates || decide (0 < spill) then
      toLE 1 (if f.rotates then 1 else 0) ++ toLE 1 (if f.sparse then 1 else 0) ++ toLE 2 0 ++ toLE 4 f.sets.length ++ toLE 8 spill
        ++ toLE 4 (slowdown s part f z) ++ toLE 12 0
    else toLE 1 0 ++ toLE 1 (if f.sparse then 1 else 0) ++ toLE 30 0

def reportBytes (s : State) (b : List Byte) (h : PlanHdr) (digest : BitVec 256) (fs : List Facts) : List Byte :=
  toLE 1 0 ++ toLE 1 h.problems ++ toLE 6 0 ++ toLE 8 (copyBytes h + h.scratchBytes) ++ toLE 32 digest.toNat ++ toLE 16 0
    ++ ((planProbs b h).zip fs).flatMap (fun x => reportEntry s b x.1 x.2)

/-- Sum of the bound copy's words outside its constants and signature (R195). -/
def copySum (b : List Byte) (h : PlanHdr) : Nat :=
  let z := b.zipIdx.map (fun (x, i) => if (h.constOff ≤ i ∧ i < h.constOff + h.constBytes) ∨ (h.signed = true ∧ h.sigOff ≤ i ∧ i < h.sigOff + sigBytes) then 0 else x)
  sumWords (padTo z (alignUp z.length 8))

end Sys2Proof.Machine
end

