-- ==== Sys2Proof/Machine/Plans.lean ====
section
/-! DEFINITION. The commands on plans: BIND_PLAN (R191 to R194, R404), RELEASE_PLAN (R196) and RUN with its run-start checks
(R195, R222, R279, R478). -/

namespace Sys2Proof.Machine

/-! ### Signatures (R191, R404) -/

def planKeys (s : State) : List (BitVec 256) := s.flash.planKeys ++ s.flash.cfgPlanKeys

/-- SE_STATUS.STATE. -/
def enclaveState (s : State) : Nat := fld s (reg 3072 0x40) 0 3

/-- A signature must be present (R404). -/
def mustSign (s : State) (fn : Nat) : Bool := s.flash.requireSignedAll || bits (getReg s fn (reg 3073 0x44)) 0 1 == 1

/-- Check 2 of Table 8-6 passes. -/
def signatureOk (s : State) (fn : Nat) (h : PlanHdr) (b : List Byte) : Bool :=
  if h.signed then
    let g := b.drop h.sigOff
    let key : BitVec 256 := BitVec.ofNat 256 (leAt g 0 32)
    enclaveState s != 3 && (planKeys s).contains key && leAt g 32 1 == 1
      && Config.mldsaVerify key (b.take h.sigOff) ((g.drop 40).take 3309)
  else !mustSign s fn

/-! ### BIND_PLAN -/

-- DEDUCED, unsafe: notes/assumptions/175.md.
/-- The reserved bytes of the signature part are zero (R12, R191); the last part of check 1. -/
def sigReservedFail (h : PlanHdr) (b : List Byte) : Option Nat := if h.signed && anyByte b (h.sigOff + 33) 7 then some (h.sigOff + 33) else none

/-- The u32 list of a handle field, read at check k. -/
def listOf (k fn : Nat) (c : Cmd) (off n : Nat) : Act (List U32) :=
  if n = 0 then pure [] else do
    let b ← readAct k fn (Cmd.span c off) 0 (4 * n)
    pure ((chunks 4 b n).map (BitVec.ofNat 32))

/-- What a successful binding hands on. -/
structure Bound where
  hdr : PlanHdr
  bytes : List Byte
  args : List U32
  facts : List Facts
  deriving DecidableEq, Repr

/-- Step 3 of R193 over all problems. -/
def problemsFail (b : List Byte) (h : PlanHdr) (fs : List Facts) : Option Nat :=
  ((planProbs b h).zip fs).zipIdx.findSome? (fun x => probFail b h (stageList b h) x.2 x.1.1 x.1.2.size)

/-- Binding, in the order of R192 and R193. -/
def bindSteps (fn : Nat) (c : Cmd) : Act Bound := do
  let img := Cmd.span c 0x20
  let scr := Cmd.span c 0x24
  let rep := Cmd.span c 0x28
  let hb ← readAct 1 fn img 0 (min 128 img.len)
  passes 1 (hdrFail hb img.len)
  let h := parsePlanHdr hb
  if scr.len < copyBytes h + h.scratchBytes then stopAt 1 (badHandle 3 (Cmd.src c 0x24) 0x24)
  if rep.len < 64 + 32 * h.problems then stopAt 1 (badHandle 3 (Cmd.src c 0x28) 0x28)
  let rest ← readAct 1 fn img 128 (h.imageBytes - 128)
  let b := hb ++ rest
  ExceptT.lift (modify (fun s => writeDev s fn scr.addr b))
  passes 1 (relocFail b h)
  passes 1 (sigReservedFail h b)
  let s ← ExceptT.lift get
  if !signatureOk s fn h b then stopAt 2 (outcome stDenied 0 0)
  let args ← listOf 3 fn c 0x2C (Cmd.fld c 0x30 1)
  let spans ← relocAll c.stale fn h scr.addr args b
  passes 4 (stageFail b h)
  let fs ← (planProbs b h).mapM (fun e => sizeOf' fn b spans e none)
  passes 4 (problemsFail b h fs)
  let fs ← examine fn b h spans 64 64 fs
  pure { hdr := h, bytes := b, args, facts := fs }

/-- Bound plans of a function. -/
def boundPlans (s : State) (fn : Nat) : Nat := (s.plans.filter (fun e => e.2.fn == fn)).length

-- DESIGN CHOICE, unsafe: notes/assumptions/42.md.
/-- The lowest free slot. -/
def freeSlot (s : State) : Option Nat := (List.range 65536).find? (fun i => (planOf s i).isNone)

-- DESIGN CHOICE, safe: notes/assumptions/44.md.
/-- The report of a failed binding (R193, Table 8-7): the header with FAIL_STAGE and zero reserved bytes, its other fields open; beyond the
header the buffer is not fixed. -/
def failReport (s : State) (fn : Nat) (rep : Span) (stage : Nat) : State :=
  if rep.len < 64 then s
  else
    let (x, s) := drawBytes s 41
    writeSpan (unfix s rep) fn rep 0 (toLE 1 stage ++ x.take 1 ++ toLE 6 0 ++ x.drop 1 ++ toLE 16 0)

-- DEDUCED, unsafe: notes/assumptions/43.md.
-- DESIGN CHOICE, safe: notes/assumptions/51.md.
def bindPlanOn (q : Nat) : State → State :=
  onStarted q (isOp opBindPlan) (fun fn c s =>
    let rep := Cmd.span c 0x28
    let signed := bits (leAt (match readSpan s fn (Cmd.span c 0x20) 0 (min 128 (Cmd.span c 0x20).len) with
      | (b, _, _) => b) 7 1) 0 1 == 1
    if (fnOf s fn).planLimit ≤ boundPlans s fn ∨ (freeSlot s).isNone then finish s q (outcome stBadCommand 0xFFFFFFFD 0)
    else if fld s (reg 3072 0x40) 7 1 = 1 ∧ signed = true then holdCmd s q .selftest
    else match (bindSteps fn c).run s with
      | (.error (n, o), s) => finishTo (failReport s fn rep n) q o (if 64 ≤ rep.len then destOf rep else none)
      | (.ok d, s) =>
        let digest := Config.shake256 d.bytes
        let s := writeSpan s fn rep 0 (reportBytes s d.bytes d.hdr digest d.facts)
        let slot := (freeSlot s).getD 0
        let gen := (tget (fun _ => 0) s.planGens slot + 1) % 2 ^ 16
        let s := { s with planGens := tset (fun _ => 0) s.planGens slot gen }
        let s := setPlan s slot { fn, gen, base := (Cmd.span c 0x24).addr, imageBytes := d.hdr.imageBytes, args := d.args
                                  sum := BitVec.ofNat 64 (copySum d.bytes d.hdr), digest }
        finishTo s q (okWith (slot + 2 ^ 16 * gen)) (destOf rep))

def execBindPlan (q : Nat) (s : State) : Result := onQueue q s (bindPlanOn q)

/-! ### RELEASE_PLAN (R196) -/

def releasePlanOn (q : Nat) : State → State :=
  onStarted q (isOp opReleasePlan) (fun fn c s =>
    match planById s fn (Cmd.fld c 0x20 4) with
    | none => finish s q (if c.progress = 1 then okWith 0 else outcome stPlanInvalid 0 0)
    | some (slot, p) =>
      if p.running.isSome then holdCmd (updateCmd (setPlan s slot { p with released := true }) q (fun c => { c with progress := 1 })) q .plan
      else finish (delPlan s slot) q (okWith 0))

def execReleasePlan (q : Nat) (s : State) : Result := onQueue q s (releasePlanOn q)

/-! ### RUN: the group table (R222) -/

/-- The group table of a RUN: none for a single device. -/
def readGroup (fn : Nat) (c : Cmd) : Act (Option GroupRun) :=
  if Cmd.fld c 0x38 4 = 0 then pure none
  else ExceptT.mk (fun s => match readTable s fn c with
    | (.ok g, s) => (.ok (some g), s)
    | (.error o, s) => (.error (0, o), s))

/-- AUTO epoch length that a member proposes (R235). -/
def proposeLen (s : State) (g : Nat) : Nat :=
  let pp := if eastParked s then pointOf s .west else min (pointOf s .west) (pointOf s .east)
  ((List.range 8).map (fun i => 4096 * 2 ^ i)).find? (fun l => decide (1000000 * (2 * g + 16) ≤ l * 4 * nominalBeat pp)) |>.getD 1048576

/-! ### RUN: the context list (R279) -/

/-- The global contexts of the list: BAD_HANDLE at the first failing index. -/
def contextList (s : State) (fn : Nat) (l : List U32) : Except Outcome3 (List Nat) :=
  let gs := l.map (fun r => globalCtx s fn r.toNat)
  match (gs.zipIdx.findSome? (fun e =>
      match e.1 with
      | none => some (badContext 1 e.2)
      | some g =>
        let st := (ctxOf s g).state
        if st = .free ∨ st = .faulted ∨ (gs.take e.2).contains (some g) then some (badContext 2 e.2) else none)) with
  | some o => .error o
  | none => .ok (gs.filterMap id)

/-- The context that each problem runs: BAD_HANDLE for a CONTEXT_ARG beyond the list. -/
def contextArgs (s : State) (gs : List Nat) (es : List PlanProb) : Except Outcome3 (List CtxArg) :=
  match es.find? (fun e => e.ctxArg != 0xFFFFFFFF && decide (gs.length ≤ e.ctxArg)) with
  | some e => .error (badContext 1 (min e.ctxArg 0xFFFF))
  | none => .ok (es.map (fun e => if e.ctxArg = 0xFFFFFFFF then none else some (gs.getD e.ctxArg 0, ctxOf s (gs.getD e.ctxArg 0))))

/-! ### RUN: the checks of R195 and the run they begin -/

def ctxCset (x : Ctx) : Span := { host := x.csetHost, addr := x.csetAddr, len := x.csetBytes, read := true }

-- DESIGN CHOICE, unsafe: notes/assumptions/50.md.
/-- A context's constraint set, as the ranges of the run would cut it, breaks R68 or R114. -/
def ctxPlace (fn : Nat) (b : List Byte) (e : PlanProb) (c : CtxArg) (f : Facts) : Act Unit :=
  match c with
  | none => pure ()
  | some (_, x) =>
    if e.loadMode ≠ 2 ∨ x.csetBytes = 0 then pure ()
    else do
      let part := partDesc b e.partOff
      let cb ← readAct 4 fn (ctxCset x) 0 x.csetBytes
      match parseCSet cb x.n with
      | .error _ => stopAt 4 (planInvalid (e.partOff + (if part.rangeH = 0 then 4 else 0x14)))
      | .ok cs =>
        match setsPlaceFail f.sets part.tiles cs.recs with
        | some _ => stopAt 4 (planInvalid (e.partOff + (if part.rangeH = 0 then 4 else 0x14)))
        | none => pure ()

-- DEDUCED, safe: notes/assumptions/53.md.
/-- A problem of the run as the checks leave it. -/
def makeProb (b : List Byte) (base ctxBase : Nat) (spans : List Span) (index : Nat) (e : PlanProb) (f : Facts) (c : CtxArg) : Prob :=
  let part := partDesc b e.partOff
  let so := e.schedOff
  let z := f.size.getD { n := 0, np := 0, bsi16 := false }
  let reps := schedReplicas b so
  let sp := spanOf spans
  { index, order := e.order, kReq := e.k, n := z.n, np := z.np, bsi16 := z.bsi16, sparse := f.sparse
    image := f.image, header := f.header, spill := if e.loadMode = 0 then sp part.spillH else {}
    cset := if e.loadMode = 2 then (c.map (fun x => ctxCset x.2)).getD {}
            else if e.csetOff = 0 then {} else { addr := base + e.csetOff, len := leAt (b.drop e.csetOff) 8 8, read := true }
    context := c.map (·.1), fromContext := e.loadMode == 2, ctxArg := (c.map (fun x => x.1 - ctxBase)).getD 0, initMode := e.initMode, init := sp e.initH, freeze := sp e.freezeH, freezeCount := e.freezeCount
    feature := sp e.featureH, features := e.features, rsIn := sp e.rsIn, rsEnergy := sp e.rsEnergy, rsScore := sp e.rsScore
    starSpan := sp (schedSf b so), fieldSpan := sp part.fieldH, segments := segments b so, replicas := reps
    exchangeEvery := leAt b (so + 4) 2, cap := schedCap b so, ladder := (schedLadder b so).take reps, tiles := part.tiles
    epochMode := part.epochMode, epochLen := if part.epochMode = 1 then part.epochLen else 4096, sweep := part.sweep
    sets := f.sets, rotates := f.rotates, epochs := !(part.tiles == 1 && reps == 1 && !f.rotates)
    position := List.range reps }

-- DESIGN CHOICE, unsafe: notes/assumptions/49.md.
-- DESIGN CHOICE, safe: notes/assumptions/146.md.
/-- The run-start checks (R195) on plan p with the run's arguments, contexts and group; the run's spans and problems. -/
def runSteps (old : List (Nat × List Byte)) (fn : Nat) (p : Plan) (args : List U32) (gs : List Nat) (devices : Nat) : Act (PlanHdr × List Byte × List Span × List Prob) := do
  let b ← readAct 4 fn { addr := p.base, len := p.imageBytes, read := true } 0 p.imageBytes
  let h := parsePlanHdr b
  if BitVec.ofNat 64 (copySum b h) ≠ p.sum then
    let result ← ExceptT.lift (modifyGet drawFree)
    stopAt 4 (outcome stPlanInvalid 0xFFFFFFFF result.toNat)
  let s ← ExceptT.lift get
  match contextArgs s gs (planProbs b h) with
  | .error o => stopAt 4 o
  | .ok cs =>
    let spans ← relocAll old fn h p.base args b
    let fs ← ((planProbs b h).zip cs).mapM (fun x => sizeOf' fn b spans x.1 x.2)
    passes 4 (problemsFail b h fs)
    let fs ← examine fn b h spans devices devices fs
    for x in ((planProbs b h).zip cs).zip fs do
      ctxPlace fn b x.1.1 x.1.2 x.2
    pure (h, b, spans, (((planProbs b h).zip cs).zip fs).zipIdx.map (fun x => makeProb b p.base (fnOf s fn).ctxBase spans x.2 x.1.1.1 x.1.2 x.1.1.2))

/-- The frame of an exchange window is held by another group run (R223). -/
def frameBusy (s : State) (f : Nat) : Bool := s.runs.any (fun e => match e.2.group with
  | some g => g.frame == f
  | none => false)

/-- Stage entries with the device addresses of their chains. -/
def runStages (b : List Byte) (h : PlanHdr) (base : Nat) : List Stage := (stageList b h).map (fun e => { e with chainOff := base + e.chainOff })

/-- A run begins: its contexts are RUNNING (R62), its plan is in use, and a fresh seed is asked for (R386, R224). -/
def startRun (s : State) (q slot : Nat) (p : Plan) (gs : List Nat) (g : Option GroupRun) (seed : U64)
    (d : PlanHdr × List Byte × List Span × List Prob) : State :=
  let (h, b, spans, probs) := d
  let fresh := h.seedMode == 1
  let draws := fresh && (match g with
    | some g => g.position == 0
    | none => true)
  let g := g.map (fun g => { g with proposal := proposeLen s g.size })
  let s := gs.foldl (fun s c => setCtx s c { ctxOf s c with state := .running }) s
  let s := setPlan s slot { p with running := some q }
  let r : Run := { slot, stages := runStages b h p.base, spans, seed := if fresh then none else some seed, seedMode := h.seedMode
                   problems := probs, contexts := gs, group := g, result := spanOf spans h.resultHandle }
  let s := setRun s q r
  if draws then { s with rng := { s.rng with waiters := s.rng.waiters ++ [{ rank := 2, queue := true, who := q }] } } else s

/-- RN_STATUS.SOURCE is FAILED (R390). -/
def sourceFailed (s : State) : Bool := fld s (reg 3100 0x40) 0 2 == 3

/-- The lists that a RUN supplies. -/
def runLists (fn : Nat) (c : Cmd) : Act (List U32 × List Nat) := do
  let args ← listOf 0 fn c 0x24 (Cmd.fld c 0x36 1)
  let ctxs ← listOf 0 fn c 0x30 (Cmd.fld c 0x34 2)
  let s ← ExceptT.lift get
  match contextList s fn ctxs with
  | .error o => stopAt 0 o
  | .ok gs => pure (args, gs)

/-- A RUN that fails before it begins: its peers are told (R241). -/
def failStart (s : State) (q fn : Nat) (c : Cmd) (o : Outcome3) : State := finish (abortNamed s fn c o.status.toNat) q o

-- DEDUCED, unsafe: notes/assumptions/147.md.
def runOn (q : Nat) : State → State :=
  onStarted q (isOp opRun) (fun fn c s =>
    if (runOf s q).isSome then s
    else match planById s fn (Cmd.fld c 0x20 4) with
    | none => failStart s q fn c (outcome stPlanInvalid 0 0)
    | some (slot, p) =>
      match (runLists fn c).run s with
      | (.error (_, o), s) => failStart s q fn c o
      | (.ok (args, gs), s) =>
        match (readGroup fn c).run s with
        | (.error (_, o), s) => finish s q o
        | (.ok g, s) =>
          let busyFrame := match g with
            | some g => frameBusy s g.frame
            | none => false
          if p.running.isSome then holdCmd s q .plan
          else if gs.any (fun c => (ctxOf s c).state == .running) then holdCmd s q .context
          else if busyFrame then holdCmd s q .exchangeFrame
          else
            let devices := (g.map (·.size)).getD 1
            match (runSteps c.stale fn p (if args.isEmpty then p.args else args) gs devices).run s with
            | (.error (_, o), s) => finish (abortPeers s g o.status.toNat) q o
            | (.ok d, s) =>
              let fresh := d.1.seedMode == 1
              let lead := (g.map (·.position)).getD 0 == 0
              if fresh && lead && sourceFailed s then finish (abortPeers s g stRng) q (outcome stRng 0 0)
              else startRun s q slot p gs g (BitVec.ofNat 64 (Cmd.fld c 0x28 8)) d)

def execRun (q : Nat) (s : State) : Result := onQueue q s (runOn q)

end Sys2Proof.Machine
end

