-- ==== Sys2Proof/Machine/RunStages.lean ====
section
/-! DEFINITION. A run between its stages: when a stage may run (R197, R239), how it ends, the outcome of a run (R205, R206, R240), and the
stages that run in one step: LOAD (R53, R54, R125, R155), SELECT (R200) and EXPORT (R201 to R204). -/

namespace Sys2Proof.Machine

/-! ### The tiles of a chain -/

/-- Logical tiles of a TILE_MASK (Table 7-4). -/
def maskTiles (m : Nat) : List Nat := if m = 0 then List.range 24 else (List.range 24).filter (fun t => bits m t 1 == 1)

-- DEDUCED, unsafe: notes/assumptions/174.md.
/-- Tiles that a chain in progress occupies: those of its descriptors from the one at which it stands. -/
def chainTiles (s : State) (c : Chain) : List Nat :=
  ((List.range (c.len - c.next)).flatMap (fun i => maskTiles (TDesc.mask (peekDev s (c.addr + 128 * (c.next + i)) 8)))).dedup

/-! ### Stages in order -/

/-- The JOIN exchange of a group run is over (R239). -/
def Run.joined (r : Run) : Bool :=
  match r.group with
  | some g => g.joinDone
  | none => true

/-- The position of this member; 0 for a single device. -/
def Run.position (r : Run) : Nat :=
  match r.group with
  | some g => g.position
  | none => 0

/-- The run of queue q when it stands at a stage of the kind, with its seed and its peers. -/
def atStage (s : State) (q kind : Nat) : Option Run :=
  match runOf s q with
  | some r => if ((r.stages[r.done]?).map (·.kind)) = some kind ∧ r.seed.isSome = true ∧ Run.joined r = true then some r else none
  | none => none

/-- A stage row: nothing happens unless the RUN stands there. -/
def stageOn (q kind : Nat) (f : Nat → Run → State → State) : State → State :=
  onStarted q (isOp opRun) (fun fn _ s => match atStage s q kind with
    | some r => f fn r s
    | none => s)

/-- A stage begins; START_TIME is taken at the first (Table 8-8). -/
def Run.enter (s : State) (r : Run) : Run := { r with entered := true, startTime := if Run.begun r then r.startTime else deviceTime s }

/-- Problem p is in the mask of a stage kind. -/
def Run.covers (r : Run) (kind p : Nat) : Bool := bits (maskOf r.stages kind) p 1 == 1

/-- Problems of a stage, ascending. -/
def Run.inStage (r : Run) (kind : Nat) : List Prob := r.problems.filter (fun p => Run.covers r kind p.index)

def Run.setProb (r : Run) (p : Prob) : Run := { r with problems := r.problems.map (fun x => if x.index = p.index then p else x) }

/-! ### Writing a phase to the peers (R227, R229, R233) -/

def phJoin : Nat := 0
def phDelta : Nat := 1
def phEnergy : Nat := 2
def phEnd : Nat := 3

/-- Offsets in a slot (Table 10-3). -/
def offEnergy : Nat := 0x40
def offList : Nat := 0x1000
def offControl : Nat := 0x3FE000
def offBarrier : Nat := 0x3FF000

/-- The other positions. -/
def GroupRun.peers (g : GroupRun) : List (Nat × Member) := (g.members.zipIdx.map (fun e => (e.2, e.1))).filter (fun e => e.1 != g.position)

/-- The 32 bytes of a counted barrier. -/
def barrierBytes (g : GroupRun) (x : SentPhase) : List Byte :=
  let data := x.parts.flatMap (·.2)
  toLE 2 0x4252 ++ toLE 1 x.phase ++ toLE 1 g.position ++ toLE 4 data.length ++ toLE 8 x.epoch.toNat ++ toLE 8 (sumWords data) ++ toLE 8 g.tag.toNat

-- DESIGN CHOICE, safe: notes/assumptions/86.md.
/-- Posted writes of at most one payload each (R233, R350), at most k of them. -/
def postBulk (s : State) (a : Nat) (b : List Byte) : Nat → State
  | 0 => s
  | k + 1 =>
    let n := maxPayload s
    if b.isEmpty then s else postBulk (sendBulk s a (b.take n)) (a + n) (b.drop n) k

/-- The data and the barrier of a phase, to one member. -/
def sendTo (s : State) (g : GroupRun) (x : SentPhase) (m : Member) : State :=
  let slot := m.frameAddr.toNat + 2 ^ 28 * x.bank + 2 ^ 22 * g.position
  let s := x.parts.foldl (fun s e => postBulk s (slot + e.1) e.2 (e.2.length / 128 + 1)) s
  sendBarrier s (slot + offBarrier) (barrierBytes g x)

-- DESIGN CHOICE, safe: notes/assumptions/83.md.
/-- The END barrier (R240): it counts no bytes, and carries the status in EPOCH, since R229 gives it no place. -/
def endBarrier (status : Byte) : SentPhase := { phase := phEnd, bank := 0, epoch := status.setWidth 64, parts := [] }

def sendEnd (s : State) (g : GroupRun) (status : Byte) : State :=
  (GroupRun.peers g).foldl (fun s e => sendTo s g (endBarrier status) e.2) s

/-! ### The end of a run -/

/-- DECISIONS over all problems (R272). -/
def Run.decisions (r : Run) : Nat := (r.problems.map (·.decisionsDone)).sum

/-- Status of R206 and its DETAIL (Table 11-8). -/
def Run.finalOutcome (r : Run) : Outcome3 :=
  let n := Run.decisions r
  if r.loose then outcome stLoose (((r.group.bind (·.looseFrom)).getD 0).toNat % 2 ^ 32) n
  else if r.truncated then outcome stTruncated r.kLimit n
  else if r.folded then outcome stFolded 0 n
  else outcome stOk 0 n

/-- What an error means for a context (Table 11-10); `bad` is 1 plus the problem whose context data were uncorrectable. -/
def errorEnd (o : Outcome3) (bad : Nat) : Option Prob → CtxEnd := fun p =>
  let st := o.status.toNat
  if st = stTileFault then .faulted o.status
  else if st = stCoeffRange then .refused
  else match p with
    | some p => if st = stMemory ∧ bad = p.index + 1 ∧ p.context.isSome then .faulted o.status else .ended
    | none => .ended

-- DESIGN CHOICE, safe: notes/assumptions/71.md.
/-- A run ends with an error. -/
def failRun (s : State) (q bad : Nat) (o : Outcome3) : State :=
  finish (endRun s q o.status.toNat (errorEnd o bad) true) q o

/-- What the state stores of a run's contexts hold before their results go there (R279). -/
def storesBefore (s : State) (r : Run) : List (Nat × Nat × List Byte) :=
  r.problems.filterMap (fun p => match p.context, p.selected.head? with
    | some c, some x => let k := ctxOf s c; some (k.fn, k.stateAddr, peekDev s k.stateAddr (packState k.n x.bits).length)
    | _, _ => none)

/-- The last record of a queue puts back the bytes u if its destination's write fails. -/
def noteUndo (s : State) (q : Nat) (u : List (Nat × Nat × List Byte)) : State :=
  let Q := queueOf s q
  setQueue s q { Q with out := Q.out.mapIdx (fun i r => if i + 1 = Q.out.length then { r with undo := u } else r) }

/-- A run ends without error; position 0 of a group tells its peers (R240), and its result record may lie in host memory (R274). -/
def completeRun (s : State) (q : Nat) (r : Run) (o : Outcome3) : State :=
  let s := match r.group with
    | some g => if g.position = 0 then sendEnd s g o.status else s
    | none => s
  let exported := r.stages.any (·.kind == 5)
  let dest := if exported && Run.position r == 0 && r.result.host then some (0, r.result) else none
  let undo := storesBefore s r
  let s := finishTo (endRun s q o.status.toNat (fun _ => .ended) false) q o dest
  if dest.isSome then noteUndo s q undo else s

/-- The present stage of run r has ended.  Only position 0 of a group runs the stages after ANNEAL (R113, R240): the other
members then wait for its END barrier. -/
def endStage (s : State) (q : Nat) (r : Run) : State :=
  let last := r.stages.length ≤ r.done + 1
  let member := Run.position r != 0
  let r := { r with done := if member && (((r.stages[r.done]?).map (·.kind)).getD 5) == 2 then r.stages.length else r.done + 1
                    entered := false, chain := none }
  if last && !member then completeRun s q r (Run.finalOutcome r) else setRun s q r

/-- Runs a stage made of steps that may fail. -/
def runAct (s : State) (q : Nat) (a : Act Run) : State :=
  match a.run s with
  | (.error (n, o), s) => failRun s q n o
  | (.ok r, s) => endStage s q r

/-! ### What a stage reads of a problem -/

/-- Marks bad words of a context's own data (Table 11-10). -/
def ctxMark (p : Prob) : Nat := if p.fromContext then p.index + 1 else 0

def Prob.imageAt (fn : Nat) (p : Prob) : ImageAt := { fn, main := p.image, spill := p.spill }

/-- A problem's constraint set. -/
def probSet (fn : Nat) (p : Prob) : Act CSet :=
  if p.cset.len = 0 then pure {} else do
    let b ← readAct (ctxMark p) fn p.cset 0 p.cset.len
    match parseCSet b p.n with
    | .error o => stopAt 0 (planInvalid o)
    | .ok c => pure c

/-- Turns a read of an image into a step. -/
def liftRead {α : Type} (n : Nat) (f : State → Except Nat α × State) : Act α :=
  ExceptT.mk (fun s => match f s with
    | (.ok a, s) => (.ok a, s)
    | (.error a, s) => (.error (n, memoryBad a), s))

/-- An image's header and entry count. -/
def probHeader (fn : Nat) (p : Prob) : Act (ImageHdr × Nat) :=
  ExceptT.mk (fun s => match checkHeader s (Prob.imageAt fn p) with
    | (.ok h, s) => (.ok h, s)
    | (.error (.memory a), s) => (.error (ctxMark p, memoryBad a), s)
    | (.error (.refused r), s) => (.error (0, coeffRange r), s))

/-! ### LOAD -/

-- DESIGN CHOICE, safe: notes/assumptions/154.md.
/-- Refuses a problem: its OUT_HANDLE buffer, and the spilled rest of it, are not fixed (R54). -/
def refuseLoad {α : Type} (q : Nat) (p : Prob) (out : Bool) (r : Refuse) : Act α := do
  ExceptT.lift (modify (fun s => logRefusal (if out then unfix (unfix s p.image) p.spill else s) q p.index r))
  stopAt 0 (coeffRange r)

def orRefuse (q : Nat) (p : Prob) (out : Bool) : Option Refuse → Act Unit
  | none => pure ()
  | some r => refuseLoad q p out r

/-- The ranges of the present rotation set, by problem tile index. -/
def Prob.ranges (p : Prob) : List Range := p.sets.getD p.setNow []

/-- Problem tile indices that this member places, ascending (R252). -/
def Prob.ownTiles (p : Prob) (position : Nat) : List Nat := (List.range (Prob.ranges p).length).filter (fun t => ((Prob.ranges p).getD t { start := 0, count := 0 }).pos == position)

/-- An exact field term of the image: h_i in field units (R48). -/
def hUnit (hd : ImageHdr) (m : Int) : Int := m * 2 ^ (hd.eH - hd.eMax + 15).toNat

/-- What the tiles of this member take of a checked image: the diagonal blocks of their ranges (R139, R150), and with them its linear
terms. -/
def takeImage (n fn : Nat) (p : Prob) (hd : ImageHdr) (k : Nat) (tiles : List Nat) : Act Loaded := do
  let h ← liftRead n (fun s => loadLinear s (Prob.imageAt fn p) hd k 0 p.np)
  let stores ← tiles.mapM (fun t => do
    let rg := (Prob.ranges p).getD t { start := 0, count := 0 }
    let st ← liftRead n (fun s => loadStore s (Prob.imageAt fn p) hd rg.start rg.count)
    pure (t, st))
  pure { hd, entries := k, h := h.map (hUnit hd), stores }

/-- The image header is the one of the run's start (R477). -/
def sameHeader (q fn : Nat) (p : Prob) : Act Unit := do
  let b ← readAct 0 fn p.image 0 64
  if b ≠ p.header then refuseLoad q p false ⟨8, 0, 0⟩

/-- Loads one problem: SOURCE through the scaler, IMAGE by its checks; then the stores of the tiles at a position of the group. -/
def loadProb (q fn position : Nat) (b : List Byte) (spans : List Span) (e : PlanProb) (p : Prob) : Act Prob := do
  let tiles := Prob.ownTiles p position
  if e.loadMode = 0 then
    let d := sourceDesc b e.sourceOff spans
    let raw ← liftRead 0 (fun s => readSource s fn d)
    match combine d raw with
    | .error r => refuseLoad q p true r
    | .ok c =>
      let im := quantize c d.bsi16 d.domain
      orRefuse q p true (Quant.refuse im)
      let set ← probSet fn p
      orRefuse q p true (penaltyFail set im.eMax (Quant.energySum im))
      let img := Quant.image im
      ExceptT.lift (modify (fun s => writeImage s (Prob.imageAt fn p) img))
      let hd := parseImageHdr img
      let ld ← takeImage 0 fn p hd (if ImageHdr.sparse hd then leAt img (256 + 8 * hd.np) 8 else 0) tiles
      pure { p with loaded := some ld }
  else if e.loadMode = 1 then
    sameHeader q fn p
    let at' := Prob.imageAt fn p
    let r ← (ExceptT.mk (fun s => match checkImage s at' with
      | (.error (.memory a), s) => (.error (0, memoryBad a), s)
      | (.error (.refused r), s) => (.ok (.error r), s)
      | (.ok h, s) => (.ok (.ok h), s)) : Act (Except Refuse (ImageHdr × Nat)))
    match r with
    | .error r => refuseLoad q p false r
    | .ok (h, k) =>
      let sum ← liftRead 0 (fun s => imageEnergy s at' h)
      let set ← probSet fn p
      orRefuse q p false (penaltyFail set h.eMax sum)
      let ld ← takeImage 0 fn p h k tiles
      pure { p with loaded := some ld }
  else pure p

/-- The bound copy of the run's plan. -/
def boundCopy (fn : Nat) (r : Run) : Act (List Byte) := do
  let s ← ExceptT.lift get
  match planOf s r.slot with
  | some pl => readAct 0 fn { addr := pl.base, len := pl.imageBytes, read := true } 0 pl.imageBytes
  | none => pure []

def loadSteps (q fn : Nat) (r : Run) : Act Run := do
  let b ← boundCopy fn r
  let es := planProbs b (parsePlanHdr b)
  (Run.inStage r 1).foldlM (fun r p => match es[p.index]? with
    | some e => do
      let p ← loadProb q fn (Run.position r) b r.spans e p
      pure (Run.setProb r p)
    | none => pure r) r

def loadOn (q : Nat) : State → State :=
  stageOn q 1 (fun fn r s =>
    let r := Run.enter s r
    runAct (setRun s q r) q (loadSteps q fn r))

def execLoad (q : Nat) (s : State) : Result := onQueue q s (loadOn q)

/-! ### SELECT (R200) -/

/-- Whether star a comes before star b under an ORDER: scored before unscored, by score, ties in key order. -/
def scoreBefore (order : Nat) (a b : Star) : Bool :=
  let na := isNaNF a.score.toNat
  let nb := isNaNF b.score.toNat
  if na || nb then !na && nb
  else if order = 1 then decide (numF a.score.toNat < numF b.score.toNat)
  else decide (numF b.score.toNat < numF a.score.toNat)

/-- Inserts after every star that does not come after it, so that equal ones keep their order. -/
def insertStar (order : Nat) (x : Star) : List Star → List Star
  | [] => [x]
  | y :: r => if scoreBefore order x y then x :: y :: r else y :: insertStar order x r

/-- A problem's kept states in SELECT order; they are kept in key order. -/
def ordered (order : Nat) (stars : List Star) : List Star :=
  if order = 0 then stars else stars.foldl (fun l x => insertStar order x l) []

def selectProb (p : Prob) : Prob := { p with selected := (ordered p.order p.stars).take p.kReq }

-- DESIGN CHOICE, unsafe: notes/assumptions/69.md.
def selectOn (q : Nat) : State → State :=
  stageOn q 4 (fun _ r s =>
    let r := Run.enter s r
    let r := { r with problems := r.problems.map (fun p => if Run.covers r 4 p.index then selectProb p else p), endTime := deviceTime s }
    endStage s q r)

def execSelect (q : Nat) (s : State) : Result := onQueue q s (selectOn q)

/-! ### EXPORT (R201 to R204) -/

def Prob.stateBytes (p : Prob) : Nat := alignUp (ceilDiv p.n 8) 8
/-- K_p of R204. -/
def Prob.kHave (p : Prob) : Nat := min p.kReq p.stars.length

/-- Size of the record for a cap k. -/
def recordSize (ps : List Prob) (k : Nat) : Nat :=
  128 + (ps.map (fun p => alignUp (128 + min (Prob.kHave p) k * (32 + Prob.stateBytes p)) 64)).sum

/-- K′: the largest k from n down to 1 that fits; none when none does. -/
def fitCap (ps : List Prob) (len : Nat) : Nat → Option Nat
  | 0 => none
  | n + 1 => if recordSize ps (n + 1) ≤ len then some (n + 1) else fitCap ps len n

/-- FLAGS of Table 8-8. -/
def flagByte (trunc loose folded : Bool) : Nat := (if trunc then 1 else 0) + (if loose then 2 else 0) + (if folded then 4 else 0)

/-- A state entry (Table 8-10). -/
def starEntry (x : Star) : List Byte :=
  let bad := isNaNF x.score.toNat
  toLE 8 (unsigned 64 x.energy) ++ toLE 8 x.firstSeen ++ toLE 8 x.hash.toNat ++ toLE 4 (if bad then canonicalNaN else x.score.toNat)
    ++ toLE 1 (if bad then 0 else 1) ++ toLE 3 0

/-- A problem section (Table 8-9), `used` states of `have`. -/
def problemSection (p : Prob) (used : Nat) : List Byte :=
  let xs := p.selected.take used
  let hdr := toLE 2 p.index ++ toLE 1 p.domain ++ toLE 1 (unsigned 8 p.eMax) ++ toLE 4 p.n ++ toLE 4 p.np ++ toLE 2 p.kReq ++ toLE 2 used
    ++ toLE 2 p.stars.length ++ toLE 2 p.cap ++ toLE 4 (Prob.stateBytes p) ++ toLE 8 p.qerr.toNat ++ toLE 8 p.decisionsDone
    ++ toLE 8 p.movesDone ++ toLE 8 p.epochCount ++ toLE 4 (if p.epochs then p.epochLen else 0)
    ++ toLE 1 (flagByte (decide (used < Prob.kHave p)) p.loose p.folded) ++ toLE 1 p.order ++ toLE 2 (min p.hardAtStart 65535)
    ++ toLE 4 (if p.context.isSome then p.ctxArg + 2 ^ 31 else 0) ++ toLE 60 0
  let body := hdr ++ xs.flatMap starEntry ++ xs.flatMap (fun x => toLE (Prob.stateBytes p) (x.bits % 2 ^ p.n))
  padTo body (alignUp body.length 64)

-- DESIGN CHOICE, safe: notes/assumptions/145.md.
/-- The record (Table 8-8). -/
def resultRecord (r : Run) (o : Outcome3) (digest : BitVec 256) (ps : List Prob) (k : Nat) : List Byte :=
  let body := ps.flatMap (fun p => problemSection p (min (Prob.kHave p) k))
  toLE 4 0x4E525331 ++ toLE 2 1 ++ [o.status] ++ toLE 1 (flagByte r.truncated r.loose r.folded) ++ toLE 8 (128 + body.length)
    ++ toLE 2 ps.length ++ toLE 2 r.kLimit ++ toLE 1 ((r.group.map (·.size)).getD 1) ++ toLE 1 r.seedMode ++ toLE 2 0
    ++ toLE 8 (r.seed.getD 0).toNat ++ toLE 8 r.startTime.toNat ++ toLE 8 r.endTime.toNat ++ toLE 32 digest.toNat ++ toLE 48 0 ++ body

def exportRecordOn (q : Nat) : State → State :=
  stageOn q 5 (fun fn r s =>
    let r := Run.enter s r
    let r := if r.stages.any (·.kind == 4) then r else { r with endTime := deviceTime s }
    let ps := Run.inStage r 5
    let cap := if recordSize ps 1024 ≤ r.result.len then some 1024 else fitCap ps r.result.len 1023
    match cap with
    | none =>
      -- no byte of the buffer is written
      failRun (setRun s q { r with result := {} }) q 0 (outcome stBadCommand 0xFFFFFFFE 0)
    | some k =>
      let r := { r with truncated := k != 1024, kLimit := if k = 1024 then 0 else k }
      let digest := ((planOf s r.slot).map (·.digest)).getD 0
      endStage (writeSpan s fn r.result 0 (resultRecord r (Run.finalOutcome r) digest ps k)) q r)

def execExportRecord (q : Nat) (s : State) : Result := onQueue q s (exportRecordOn q)

end Sys2Proof.Machine
end

