-- ==== Sys2Proof/Machine/Lanes.lean ====
section
/-! DEFINITION. One problem lane (chapters 3 to 5): its generators (R98, R99), schedule and wisp offset (R90 to R96), candidates and
acceptance (R66, R72, R74, R75), the state and field update (R76), the group row cache and rovers (R69, R71), and the sums, masks
and penalties its constraint engine keeps (R121 to R127). -/

namespace Sys2Proof.Machine

/-! ### Generators and hashes -/

def mix64 (z : U64) : U64 :=
  let z := (z ^^^ (z >>> 30)) * 0xC2B53A97E41D0F6B#64
  let z := (z ^^^ (z >>> 27)) * 0x8F1764D3A5C92B01#64
  z ^^^ (z >>> 31)

/-- R98. -/
def seedLane (run : U64) (tile lane ctx : Nat) : U64 :=
  let key : U64 := BitVec.ofNat 64 (2 ^ 34 * tile + 2 ^ 22 * lane + ctx)
  let s := mix64 (run ^^^ mix64 (key ^^^ 0x4E524E3732304156#64))
  if s = 0 then 0x9D2C5680A3B1F74E#64 else s

/-- R99: the next state. -/
def advance (s : U64) : U64 :=
  let s := s ^^^ (s <<< 13)
  let s := s ^^^ (s >>> 7)
  s ^^^ (s <<< 17)

/-- R99: the outputs u and v of a state. -/
def noiseOf (s : U64) : Nat := ((s * 0xB4F32C69D05AE1C7#64) >>> 48).toNat
def keyOf (s : U64) : Nat := ((s * 0xB4F32C69D05AE1C7#64) >>> 32).toNat % 65536

/-- R109. -/
def zkey (i : Nat) : U64 := mix64 (BitVec.ofNat 64 i ^^^ 0x5E1B0C472A93D86F#64)

/-- The partial hash of variables from lo on. -/
def hashFrom (lo : Nat) : List Bool → U64
  | [] => 0
  | b :: r => (if b then zkey lo else 0) + hashFrom (lo + 1) r

/-- State bits as a number, variable i at bit i (R107). -/
def bitsNat : List Bool → Nat
  | [] => 0
  | b :: r => (if b then 1 else 0) + 2 * bitsNat r

/-- The first n bits of a number. -/
def natBits : Nat → Nat → List Bool
  | 0, _ => []
  | n + 1, v => (v % 2 == 1) :: natBits n (v / 2)

/-! ### Schedules (R90 to R94) -/

/-- Temperature of decision d of a segment, with T_X for a GEOMETRIC one. -/
def segTemp (g : Segment) (d : Nat) (tx : U64) : Nat :=
  if g.kind = 0 then ((g.tStart : Int) + Int.tdiv (((g.tParam : Int) - g.tStart) * d) g.length).toNat
  else if g.kind = 1 then (tx >>> 24).toNat
  else g.tStart

/-- T_X at the start of a segment, and after a decision (R92). -/
def txStart (g : Segment) : U64 := BitVec.ofNat 64 (2 ^ 24 * g.tStart)
def txNext (g : Segment) (tx : U64) : U64 :=
  BitVec.ofNat 64 (min (2 ^ 64 - 1) ((tx.toNat * g.tParam + 2 ^ 31) / 2 ^ 32))

/-- The segment a lane runs and its d: after the schedule, the last segment held at its last decision. -/
def segNow (p : Prob) (l : Lane) : Segment × Nat :=
  match p.segments[l.segment]? with
  | some g => (g, l.d)
  | none =>
    let g := p.segments.getLastD { kind := 2, halve := false, length := 1, tStart := 0, tParam := 0, wStep := 0, wMax := 0 }
    (g, g.length - 1)

/-- Ladder position of a lane's replica (R100, R102). -/
def ladderPos (p : Prob) (l : Lane) : Nat := (p.position.findIdx? (· == l.t / p.tiles)).getD 0

/-- T_E at a ladder position (R94). -/
def laddered (p : Prob) (base pos : Nat) : Nat := min (2 ^ 40 - 1) (base * p.ladder.getD pos 256 / 256)

/-- The schedule temperature of the decision the lane stands at. -/
def baseTemp (p : Prob) (l : Lane) : Nat :=
  let (g, d) := segNow p l
  segTemp g d l.tx

/-- What a decision finds: T_X loaded and W capped at the first decision of a segment (R92, R96), and T_E. -/
def armLane (p : Prob) (l : Lane) : Lane :=
  let (g, _) := segNow p l
  let first := decide (l.segment < p.segments.length) && l.d == 0
  let l := if first then { l with tx := txStart g, wisp := if l.segment = 0 then l.wisp else min l.wisp g.wMax } else l
  { l with base := baseTemp p l, te := laddered p (baseTemp p l) (ladderPos p l) }

/-- The schedule moves on after a decision; T_X keeps the value of d = LENGTH - 1 past the end. -/
def nextPlace (p : Prob) (l : Lane) : Lane :=
  match p.segments[l.segment]? with
  | none => l
  | some g =>
    if l.d + 1 < g.length then { l with d := l.d + 1, tx := if g.kind = 1 then txNext g l.tx else l.tx }
    else { l with segment := l.segment + 1, d := 0 }

/-- Every segment has run. -/
def scheduleDone (p : Prob) (l : Lane) : Bool := decide (p.segments.length ≤ l.segment)

/-! ### The coefficient store (R56, R58) -/

/-- Banks that a problem lane owns in a lane mode (Table 3-2): the first, and their number. -/
def laneBanks (mode lane : Nat) : Nat × Nat := if mode = 0 then (0, 128) else if mode = 1 then (32 * lane, 32) else (8 * lane, 8)

/-- Position among the lane's banks of the one that holds row k of every column, word address of column v of frame f in each of them, and
place of the shift code of block (p, q) in the frame's region of the exponent store; w is the lane's width. -/
def rowBank (bsi16 : Bool) (k : Nat) : Nat := k / (if bsi16 then 16 else 32)
def bankWord (w f v : Nat) : Nat := f * w + v
def shiftByte (w p q : Nat) : Nat := q * (w / 64) + p

/-- Column v: mantissa and shift code of J_vk for every k of the lane. -/
def column (st : Store) (v : Nat) : List (Int × Nat) :=
  (st.mant.getD v []).mapIdx (fun k m => (m, (st.shift.getD (k / 64) []).getD (v / 64) 0))

/-- Field units of a mantissa and shift code (R56). -/
def unitsOf (e : Int × Nat) : Int := e.1 * 2 ^ e.2

/-- Fields after sign × column is added. -/
def addColumn (f : List Int) (sgn : Int) (col : List (Int × Nat)) : List Int := List.zipWith (fun a e => a + sgn * unitsOf e) f col

/-- The fields of a state from linear terms and the store (R63). -/
def buildField (h : List Int) (st : Store) (x : List Bool) : List Int :=
  (List.range x.length).foldl (fun f v => if bitAt x v then addColumn f 1 (column st v) else f) h

/-- Σ over the variables at 1 of (h + f), halved. -/
def quadEnergy (h f : List Int) (x : List Bool) : Int :=
  ((List.zipWith (fun a b => a + b) h f).zip x |>.map (fun e => if e.2 then e.1 else 0)).sum / 2

/-! ### Candidates and the winner (R66, R72, R74, R75) -/

/-- G of a group: the couplings of its members to its on member or rover (R71). -/
def groupCache (st : Store) (x : List Bool) (g : Group) : List (Int × Nat) :=
  match partnerOf x g with
  | some c => let col := column st c; g.members.map (fun k => col.getD k (0, 0))
  | none => g.members.map (fun _ => (0, 0))

/-- G_k of variable k in its group. -/
def cacheOf (gs : List Group) (k : Nat) : Int × Nat :=
  match groupOf gs k with
  | some g => ((g.members.zip g.cache).find? (fun e => e.1 == k)).map (·.2) |>.getD (0, 0)
  | none => (0, 0)

/-- Lane k is enabled with its candidate. -/
def enabled (l : Lane) (k : Nat) (c : Cand) : Bool :=
  !l.frozen.getD k true && !l.mask.getD k false && (match c with
    | .none => false
    | .flip => true
    | .swap i => !l.frozen.getD i true)

/-- ΔE_k of Table 3-4 with PEN_k. -/
def moveEnergy (l : Lane) (k : Nat) (c : Cand) : Int :=
  let f := fun i => l.field.getD i 0
  (match c with
    | .none => 0
    | .flip => (1 - 2 * bitInt (bitAt l.x k)) * f k
    | .swap i => f k - f i - unitsOf (cacheOf l.groups k)) + l.pen.getD k 0

/-- R74. -/
def accepts (l : Lane) (k : Nat) (c : Cand) (gen : U64) : Bool :=
  enabled l k c && decide (65536 * (moveEnergy l k c - l.wisp) ≤ (l.te * noiseL (noiseOf gen) : Nat))

/-- A move: the variable whose lane won, its candidate and its energy. -/
structure Move where
  k : Nat
  cand : Cand
  delta : Int
  deriving DecidableEq, Repr

/-- The accepting lane with the smallest v_k, ties to the lowest index, from lane k on. -/
def bestLane (l : Lane) (k : Nat) (best : Option (Nat × Nat)) : List U64 → Option (Nat × Nat)
  | [] => best
  | g :: r =>
    let best := if accepts l k (candidate l.x l.groups k) g then
        (match best with
          | some b => if keyOf g < b.1 then some (keyOf g, k) else best
          | none => some (keyOf g, k))
      else best
    bestLane l (k + 1) best r

/-- The winner's move with the generators' new states. -/
def winner (l : Lane) (gens : List U64) : Option Move :=
  (bestLane l 0 none gens).map (fun b => let c := candidate l.x l.groups b.2; { k := b.2, cand := c, delta := moveEnergy l b.2 c })

/-- Variables a move changes. -/
def Move.vars (m : Move) : List Nat :=
  match m.cand with
  | .none => []
  | .flip => [m.k]
  | .swap i => [i, m.k]

def touches (l : Lane) (m : Move) : Bool := (Move.vars m).any (fun v => l.touch.getD v false)

/-! ### Masks and penalties (R121 to R127) -/

/-- MASK and PEN_k of every lane. -/
def deliver (l : Lane) : Lane :=
  let mp := (List.range l.np).map (maskPen l.x l.records l.groups)
  { l with mask := mp.map (·.1), pen := mp.map (·.2), penalty := penaltySum l.records }

/-- Hard records broken in the current state (R106). -/
def hardBroken (rs : List Record) : Nat := (rs.filter (fun r => !r.soft && broken r)).length

/-- The sums after a move (R126). -/
def moveSums (l : Lane) (m : Move) : List Record := l.records.map (fun r => { r with sum := r.sum + sumChange l.x r m.k m.cand })

/-! ### A decision (R69, R71, R76, R95) -/

/-- State bits after a move. -/
def moveBits (x : List Bool) (m : Move) : List Bool :=
  match m.cand with
  | .none => x
  | .flip => x.set m.k (!bitAt x m.k)
  | .swap i => (x.set i false).set m.k true

/-- Fields after a move. -/
def moveFields (l : Lane) (m : Move) : List Int :=
  match m.cand with
  | .none => l.field
  | .flip => addColumn l.field (1 - 2 * bitInt (bitAt l.x m.k)) (column l.store m.k)
  | .swap i => addColumn (addColumn l.field 1 (column l.store m.k)) (-1) (column l.store i)

/-- Groups at beat 4: rovers advance in every decision, and G follows the on member or rover. -/
def nextGroups (st : Store) (x : List Bool) (m : Option Move) (gs : List Group) : List Group :=
  gs.map (fun g =>
    if g.k = 1 then
      if m.any (fun m => g.members.contains m.k) then { g with cache := groupCache st x g } else g
    else
      let g := { g with rover := (g.rover + 1) % g.k }
      { g with cache := groupCache st x g })

/-- W after a decision. -/
def nextWisp (g : Segment) (w : Nat) (moved : Bool) : Nat :=
  if moved then (if g.halve then w / 2 else 0) else min (w + g.wStep) g.wMax

/-- The decision the lane stands at, with T_X, W and T_E set for it. -/
def decide' (p : Prob) (l : Lane) : Lane × List U64 × Option Move :=
  let l := armLane p l
  let gens := l.gens.map advance
  (l, gens, winner l gens)

/-- The lane after the decision, its constraint engine included. -/
def commit (p : Prob) (l : Lane) : Lane :=
  let (l, gens, m) := decide' p l
  let (g, _) := segNow p l
  let masked := l.mask.countP id
  let l := { l with gens, masked := l.masked + masked, decisions := l.decisions + 1, epochDec := l.epochDec + 1 }
  let l := match m with
    | none => { l with idle := l.idle + 1, groups := nextGroups l.store l.x none l.groups }
    | some m =>
      let x := moveBits l.x m
      let hash := (Move.vars m).foldl (fun h v => if bitAt x v then h + zkey (l.start + v) else h - zkey (l.start + v)) l.hash
      let touched := touches l m
      let l := { l with x, field := moveFields l m, energy := l.energy + m.delta, hash, records := moveSums l m, moves := l.moves + 1
                        groups := nextGroups l.store x (some m) l.groups, updates := l.updates + (if touched then 1 else 0) }
      if touched then deliver l else l
  let l := { l with wisp := nextWisp g l.wisp m.isSome }
  nextPlace p l

/-! ### The wait of R131 -/

/-- n of R131 after a move: over the lanes of a swap's group and the lanes that name a touched record, the most records named by
the lane's variable plus those named by its partner. -/
def waitEntries (l : Lane) (m : Move) : Nat :=
  let vs := Move.vars m
  let hit := l.records.filter (fun r => vs.any (names r))
  let inGroup := fun k => match groupOf l.groups m.k with
    | some g => g.members.contains k
    | none => false
  let count := fun v => l.records.countP (fun r => names r v)
  let x := moveBits l.x m
  ((List.range l.np).map (fun k =>
    let c := candidate x l.groups k
    let partner := match c with
      | .swap i => some i
      | _ => none
    let named := hit.any (fun r => names r k || partner.any (names r))
    if inGroup k || named then count k + ((partner.map count).getD 0) else 0)).foldl max 0

/-- Beats of the wait. -/
def waitBeats (l : Lane) (m : Move) (second corrected : Bool) : Nat :=
  (if second then 1 else 0) + 1 + max 1 (ceilDiv (waitEntries l m) 8) + 1 + (if corrected then 1 else 0)

/-! ### Starting a lane, and checkpoints (R103, R414) -/

/-- What a checkpoint holds of a lane. -/
def saveOf (l : Lane) : LaneSave :=
  { x := l.x, field := l.field, energy := l.energy, gens := l.gens, wisp := l.wisp, segment := l.segment, d := l.d, tx := l.tx, te := l.te
    rovers := l.groups.map (·.rover), decisions := l.decisions, moves := l.moves, idle := l.idle, waits := l.waits, updates := l.updates
    masked := l.masked, penalty := l.penalty }

/-- A lane set to a checkpoint: its sums, masks and group caches are rebuilt from the state bits (R130). -/
def restoreLane (l : Lane) (c : LaneSave) : Lane :=
  let gs := (l.groups.zip c.rovers).map (fun e => { e.1 with rover := e.2 })
  let gs := gs.map (fun g => { g with cache := groupCache l.store c.x g })
  let l := { l with x := c.x, field := c.field, energy := c.energy, gens := c.gens, wisp := c.wisp, segment := c.segment, d := c.d
                    tx := c.tx, te := c.te, groups := gs, decisions := c.decisions, moves := c.moves, idle := c.idle, waits := c.waits
                    updates := c.updates, masked := c.masked, records := resum c.x l.records, hash := hashFrom l.start c.x, epochDec := 0, waiting := false, moved := []
                    stopped := false, finished := false }
  deliver l

/-- The problem part of a lane of range rg: records and groups of its constraint set, sums and masks from the state bits
(R120, R127). -/
def laneProblem (l : Lane) (c : CSet) (eMax : Int) (rg : Range) (x : List Bool) (st : Store) (h field : List Int) : Lane :=
  let gs := (laneGroups c rg.start rg.count).map (fun g => { g with cache := groupCache st x g })
  let rs := resum x (laneRecords c eMax rg.start rg.count)
  deliver { l with start := rg.start, np := rg.count, store := st, h, field, x, groups := gs, records := rs
                   touch := touchList rg.count rs, hash := hashFrom rg.start x, penExp := c.penExp
                   rounded := min 65535 (roundedCount c eMax rg.start rg.count) }

/-- The start counts of R127. -/
def startCounts (l : Lane) : Lane :=
  let bad := l.records.filter (fun r => !r.soft && broken r)
  { l with hardAtStart := bad.length, firstTag := (bad.foldl (fun (b : Option Record) r => match b with
      | some b => if r.number < b.number then some r else some b
      | none => some r) none).elim 0 (·.tag) }

end Sys2Proof.Machine
end

