-- ==== Sys2Proof/Machine/Anneal.lean ====
section
/-! DEFINITION. The ANNEAL stage: placement of problem lanes (R252, R280), the start of a problem (R63, R70, R105, R127, R189), decisions
(R74 to R79), the delivery of masks (R131), offers to the starfield (R105, R106, R108), and the end of the stage. -/

namespace Sys2Proof.Machine

/-! ### Placement -/

-- DESIGN CHOICE, unsafe: notes/assumptions/165.md.
/-- The member on which tile index t lies: its GROUP_POS in the first set. -/
def tilePos (p : Prob) (t : Nat) : Nat := (((p.sets.headD [])[t]?).map (·.pos)).getD 0

/-- A lane taken for tile index t of a problem, not yet filled; its records count against its engine (R115). -/
def heldLane (q : Nat) (p : Prob) (c : CSet) (t frame : Nat) : Lane :=
  let rg := (Prob.ranges p).getD t { start := 0, count := 0 }
  { running := true, queue := q, problem := p.index, t, start := rg.start, np := rg.count, bsi16 := p.bsi16, frame, context := p.context
    records := laneRecords c 0 rg.start rg.count }

/-- Whole tiles for tile indices ts, each on the lowest free tile from `from` on whose engine has room. -/
def placeWhole (s : State) (q : Nat) (p : Prob) (c : CSet) (lo : Nat) : List Nat → Option (List Nat × State)
  | [] => some ([], s)
  | t :: ts =>
    let l := heldLane q p c t 0
    let fits := (List.range 96).find? (fun i => decide (lo ≤ i) && tileUsable s i && !tileRunning s i
      && engineRoom (takeTile s i) i l.records.length ((l.records.map (fun r => r.terms.length)).sum))
    match fits with
    | none => none
    | some i =>
      let k := laneKey i 0
      match placeWhole (setLane (takeTile s i) k l) q p c (i + 1) ts with
      | none => none
      | some (ks, s) => some (k :: ks, s)

-- DESIGN CHOICE, safe: notes/assumptions/68.md.
/-- The frame of a problem that lies in one problem lane (R280); a RESIDENT context runs where it is, unless its problem lane runs
another problem: then a frame is chosen for it anew. -/
def placeSingle (s : State) (q : Nat) (p : Prob) (c : CSet) (t : Nat) : Option (List Nat × State) :=
  let rs := laneRecords c 0 0 p.np
  let terms := (rs.map (fun r => r.terms.length)).sum
  let x := ctxOf s (p.context.getD 0)
  if p.context.isSome ∧ x.tile ≠ 0xFFFF ∧ laneRunning s x.tile x.lane = false then
    some ([laneKey x.tile x.lane], setLane s (laneKey x.tile x.lane) (heldLane q p c t x.frame))
  else
    match chooseFrame s (modeFor p.np p.bsi16) rs.length terms true with
    | none => none
    | some ((ti, l, f), s) =>
      let s := setLane s (laneKey ti l) (heldLane q p c t f)
      match p.context with
      | none => some ([laneKey ti l], s)
      | some g =>
        let s := setFrame (dropFrame s x) (frameKey ti l f) { ctx := g, store := {}, lastRun := x.lastRun }
        some ([laneKey ti l], setCtx s g { x with tile := ti, lane := l, frame := f })

/-- Places the problems given, in order; none when one has no place. -/
def placeAll (s : State) (q position : Nat) : List (Prob × CSet) → Option (List (Nat × List Nat) × State)
  | [] => some ([], s)
  | (p, c) :: r =>
    let ts := Prob.ownTiles p position
    let one := if Prob.single p then
        match ts with
        | [] => some ([], s)
        | t :: _ => placeSingle s q p c t
      else
        let s := match p.context with
          | some g => let x := ctxOf s g; setCtx (dropFrame s x) g { x with tile := 0xFFFF, lane := 0, frame := 0 }
          | none => s
        placeWhole s q p c 0 ts
    match one with
    | none => none
    | some (ks, s) =>
      match placeAll s q position r with
      | none => none
      | some (rest, s) => some ((p.index, ks) :: rest, s)

/-! ### Reading a problem for its start -/

def addRow (f : List Int) (row : List (Int × Nat)) (sgn : Int) : List Int := List.zipWith (fun a e => a + sgn * unitsOf e) f row

/-- Adds the rows of the variables listed, times their signs, over variables [lo, lo + n) (R144, R157). -/
def foldRows (bad fn : Nat) (p : Prob) (hd : ImageHdr) (lo n : Nat) : List (Nat × Int) → List Int → Act (List Int)
  | [], f => pure f
  | (v, sgn) :: r, f => do
    let row ← liftRead bad (fun s => imageRow s (Prob.imageAt fn p) hd v lo n)
    foldRows bad fn p hd lo n r (addRow f row sgn)

/-- The initial state bits (R189): bits at and above N are 0. -/
def initBits (fn : Nat) (p : Prob) : Act (List Bool) := do
  let s ← ExceptT.lift get
  let n := ceilDiv p.n 8
  let b ← match p.initMode with
    | 1 => readAct 0 fn p.init 0 n
    | 2 =>
      let x := ctxOf s (p.context.getD 0)
      readAct (p.index + 1) fn { addr := x.stateAddr, len := 512, read := true } 0 n
    | _ => pure []
  pure (natBits p.np (ofLE b % 2 ^ p.n))

/-- FROZEN of every variable: the freeze list and padding (R73). -/
def frozenBits (fn : Nat) (p : Prob) : Act (List Bool) := do
  let b ← if p.freezeCount = 0 then pure [] else readAct 0 fn p.freeze 0 (4 * p.freezeCount)
  let l := chunks 4 b p.freezeCount
  pure ((List.range p.np).map (fun i => decide (p.n ≤ i) || l.contains i))

/-- Bits [lo, lo + n) of a list. -/
def slice {α : Type} (l : List α) (lo n : Nat) : List α := (l.drop lo).take n

/-- What the start of a problem has read. -/
structure Begun where
  set : CSet
  x0 : List Bool
  x : List Bool
  frozen : List Bool
  h : List Int
  deriving DecidableEq, Repr

/-- What is held of a problem's image. -/
def Prob.held (p : Prob) : Loaded := p.loaded.getD { hd := parseImageHdr [] }

/-- A context's image is taken when the stage starts; its diagonal blocks come with the lanes. -/
def takeHeld (fn : Nat) (p : Prob) : Act Prob :=
  if p.loaded.isSome then pure p else do
    let (hd, k) ← probHeader fn p
    let ld ← takeImage (ctxMark p) fn p hd k []
    pure { p with loaded := some ld }

def beginRead (fn : Nat) (p : Prob) (set : CSet) : Act Begun := do
  let x0 ← initBits fn p
  let frozen ← frozenBits fn p
  pure { set, x0, x := (repairAll x0 (laneGroups set 0 p.np)).1, frozen, h := (Prob.held p).h }

/-- The penalty and the broken hard records of a whole state (R106, R127). -/
def wholePenalty (c : CSet) (eMax : Int) (x : List Bool) : Int × Nat :=
  let rs := resum x (laneRecords c eMax 0 x.length)
  (penaltySum rs, hardBroken rs)

/-- The widest range that tile index t takes over the rotation sets: every lane of it has a generator that advances in each
decision (R99), so that a later, wider set finds it where it would be. -/
def setWidth (p : Prob) (t : Nat) : Nat := (p.sets.map (fun rs => (rs[t]?).elim 0 (·.count))).foldl max 0

/-- A problem lane at its start: generators seeded, groups repaired, fields built, sums and masks delivered, the run-start checkpoint
written. -/
def startLane (seed : U64) (p : Prob) (b : Begun) (l : Lane) (st : Store) (field : List Int) (energy : Option Int) : Lane :=
  let rg : Range := { start := l.start, count := l.np }
  let x := slice b.x rg.start rg.count
  let h := slice b.h rg.start rg.count
  let fresh : Lane :=
    { running := true, queue := l.queue, problem := l.problem, t := l.t, np := l.np, bsi16 := l.bsi16, frame := l.frame, context := l.context
      eMax := p.eMax, eH := p.eH, frozen := slice b.frozen rg.start rg.count
      gens := (List.range (setWidth p l.t)).map (fun k => seedLane seed l.t k p.ctxArg)
      repaired := ((laneGroups b.set rg.start rg.count).filter (fun g => (onMembers (slice b.x0 rg.start rg.count) g).length != g.k)).length }
  let l := startCounts (laneProblem fresh b.set p.eMax rg x st h field)
  let l := { l with energy := energy.getD (p.cQ + quadEnergy h field x + l.penalty) }
  let l := { l with te := (armLane p l).te }
  { l with save := saveOf l, first := saveOf l }

-- DESIGN CHOICE, unsafe: notes/assumptions/161.md.
/-- The coefficient store of a lane (R62, R139): the frame of the context that the problem takes its coefficients from, filled from its image
where the frame holds none; else the tile's own block of the loaded image, which takes the frame of a context that only the state comes
from. -/
def laneStore (fn : Nat) (p : Prob) (key : Nat) (l : Lane) : Act Store := do
  let s ← ExceptT.lift get
  let fk := key * 16 + l.frame
  let read := liftRead (ctxMark p) (fun s => loadStore s (Prob.imageAt fn p) (Prob.held p).hd l.start l.np)
  match (if Prob.single p && p.context.isSome then frameOf s fk else none) with
  | some f =>
    if !p.fromContext then do
      ExceptT.lift (modify (fun s => setFrame s fk { f with store := {} }))
      match (Prob.held p).stores.find? (fun e => e.1 == l.t) with
      | some e => pure e.2
      | none => read
    else if f.store = {} then do
      let st ← read
      ExceptT.lift (modify (fun s => setFrame s fk { f with store := st }))
      pure st
    else pure f.store
  | none => match (Prob.held p).stores.find? (fun e => e.1 == l.t) with
    | some e => pure e.2
    | none => read

/-- Fills one lane of a problem; `whole` holds the full fields and the energy of a problem of several lanes. -/
def fillLane (fn : Nat) (seed : U64) (p : Prob) (b : Begun) (whole : Option (List Int × Int)) (key : Nat) : Act Unit := do
  let s ← ExceptT.lift get
  let l := laneOf s key
  let st ← laneStore fn p key l
  let x := slice b.x l.start l.np
  let field := match whole with
    | some w => slice w.1 l.start l.np
    | none => buildField (slice b.h l.start l.np) st x
  ExceptT.lift (modify (fun s => setLane s key (startLane seed p b l st field (whole.map (·.2)))))

-- DESIGN CHOICE, unsafe: notes/assumptions/67.md.
/-- The field vector of a rotating problem, written to its buffer (R153). -/
def writeFields (fn : Nat) (p : Prob) (s : State) : State :=
  if p.rotates then writeSpan s fn p.fieldSpan 0 ((p.fields.headD []).flatMap (fun f => toLE 8 (unsigned 64 f))) else s

/-- Its state vector. -/
def writeStates (fn : Nat) (p : Prob) (s : State) : State :=
  if p.rotates then writeSpan s fn p.fieldSpan (8 * p.np) (toLE (ceilDiv p.np 8) (p.bits.headD 0)) else s

/-- The offer of the start state (R105): the state of every copy, unless it breaks a hard record. -/
def startOffer (p : Prob) : List Star :=
  let b := p.bits.headD 0
  if p.hardAtStart = 0 then [{ energy := p.ePrev.headD 0, bits := b, firstSeen := 0, hash := hashFrom 0 (natBits p.np b) }] else []

-- DESIGN CHOICE, unsafe: notes/assumptions/65.md.
-- DESIGN CHOICE, safe: notes/assumptions/66.md.
/-- Starts a problem on the lanes it was given (R63, R105, R127). -/
def beginProb (fn : Nat) (r : Run) (p : Prob) (set : CSet) (keys : List Nat) : Act Prob := do
  let p ← takeHeld fn p
  let b ← beginRead fn p set
  let hd := (Prob.held p).hd
  let seed := r.seed.getD 0
  let (pen, broke) := wholePenalty set hd.eMax b.x
  let p := { p with domain := hd.domain, eMax := hd.eMax, eH := hd.eH, cQ := hd.cQ, qerr := BitVec.ofNat 64 hd.qerr
                    sparse := ImageHdr.sparse hd, lanes := keys, hardAtStart := broke * p.replicas }
  let ones := (List.range p.np).filterMap (fun v => if bitAt b.x v then some (v, (1 : Int)) else none)
  let whole : Option (List Int × Int) ← if Prob.single p then pure none else do
    let f ← foldRows (ctxMark p) fn p hd 0 p.np ones b.h
    pure (some (f, p.cQ + quadEnergy b.h f b.x + pen))
  for k in keys do
    fillLane fn seed p b whole k
  let s ← ExceptT.lift get
  let e0 := match whole with
    | some w => w.2
    | none => (laneOf s (keys.headD 0)).energy
  let p := { p with bits := List.replicate p.replicas (bitsNat b.x), fields := if p.rotates then List.replicate p.replicas (whole.elim [] Prod.fst) else []
                    ePrev := List.replicate p.replicas e0, exGen := seedLane seed 0xFFFF 0 p.ctxArg, stars := [], starsSave := [], slots := []
                    finished := keys.isEmpty && !p.epochs && Run.position r != 0, batches := [], sentAll := false }
  let p := { p with offers := if (if Prob.single p then !keys.isEmpty else Run.position r == 0) then startOffer p else [] }
  ExceptT.lift (modify (fun s => writeStates fn p (writeFields fn p (unfix s p.starSpan))))
  pure p

/-! ### Offers and the end of the stage -/

/-- The key order of R107. -/
def starBefore (a b : Star) : Bool := decide (a.energy < b.energy) || (a.energy == b.energy && decide (a.bits < b.bits))

def insertKey (x : Star) : List Star → List Star
  | [] => [x]
  | y :: r => if starBefore x y then x :: y :: r else y :: insertKey x r

-- DEDUCED, unsafe: notes/assumptions/157.md.
/-- R108; a duplicate leaves every kept state as it is, but for the earlier decision count that FIRST_SEEN is (R111). -/
def offerTo (cap : Nat) (stars : List Star) (x : Star) : List Star :=
  if stars.any (fun y => y.bits == x.bits) then stars.map (fun y => if y.bits = x.bits then { y with firstSeen := min y.firstSeen x.firstSeen } else y)
  else if stars.length < cap then insertKey x stars
  else match stars.getLast? with
    | some y => if starBefore x y then insertKey x stars.dropLast else stars
    | none => stars

-- DESIGN CHOICE, unsafe: notes/assumptions/164.md.
/-- The keeper takes an offer: a state it admits goes to the lowest slot that no kept state has, and the entries are written anew (R112). -/
def keepStar (fn : Nat) (s : State) (p : Prob) (x : Star) : Prob × State :=
  let stars := offerTo p.cap p.stars x
  if stars = p.stars then (p, s)
  else
    let held : Table Nat := p.slots.filter (fun e => stars.any (fun y => y.bits == e.1))
    let i := ((List.range (held.length + 1)).find? (fun i => !held.any (fun e => e.2 == i))).getD 0
    let slots : Table Nat := if held.any (fun e => e.1 == x.bits) then held else held ++ [(x.bits, i)]
    let n := starSlot p.np
    let s := if held.any (fun e => e.1 == x.bits) then s else writeSpan s fn p.starSpan (i * n) (toLE n x.bits)
    let entry := fun (y : Star) => toLE 64 (Config.starEntry y.energy y.hash y.firstSeen (tget (fun _ => 0) slots y.bits)).toNat
    ({ p with stars, slots }, writeSpan s fn p.starSpan (p.cap * n) (stars.flatMap entry))

/-- The keeper takes several offers in order. -/
def keepStars (fn : Nat) (s : State) (p : Prob) (xs : List Star) : Prob × State :=
  xs.foldl (fun a x => keepStar fn a.2 a.1 x) (p, s)

/-- A logical engine is one of a folded pair. -/
def inFold (s : State) (c : EngineClass) (l : Nat) : Bool := (mapOf s c l).folded

-- DEDUCED, safe: notes/assumptions/70.md.
/-- A fold serves problem p: of its tiles, of their constraint engines, or of a tensor tile that closes its epochs (R421). -/
def probFolded (s : State) (p : Prob) : Bool :=
  p.lanes.any (fun k => inFold s .anneal (k / 16) || inFold s .constraint (k / 32))
  || (p.epochs && (List.range 24).any (fun t => inFold s .tensor t))

/-- Tiles of the problem that lie on another member. -/
def Prob.remote (p : Prob) (position : Nat) : Bool := (Prob.ranges p).any (fun r => r.pos != position)

-- DESIGN CHOICE, safe: notes/assumptions/169.md.
/-- DECISIONS and MOVES of a problem (Table 8-9): every problem lane makes as many decisions as its schedule has.  A member learns no move
counts of its peers: their share is open. -/
def tallyProb (s : State) (position : Nat) (p : Prob) : Prob × State :=
  let ls := p.lanes.map (laneOf s)
  let dec := if p.epochs then p.epochCount * p.epochLen * (p.replicas * p.tiles)
    else if p.lanes.isEmpty then (p.segments.map (·.length)).sum else (ls.map (·.decisions)).sum
  let (mv, s) := if Prob.remote p position then let (v, s) := drawFree s; (v.toNat, s) else ((ls.map (·.moves)).sum, s)
  ({ p with decisionsDone := dec, movesDone := mv, selected := p.stars, folded := p.folded || probFolded s p }, s)

/-- Closes that a problem makes in a run. -/
def closesOf (p : Prob) : Nat := ceilDiv (p.segments.map (·.length)).sum (max 1 p.epochLen)

-- DESIGN CHOICE, unsafe: notes/assumptions/87.md.
/-- Every remote epoch has been folded by position 0 of a loose run (R240). -/
def looseDone (r : Run) : Bool :=
  match r.group with
  | some g => !r.loose || g.position != 0 ||
      g.members.zipIdx.all (fun m => m.2 == g.position || decide ((((Run.inStage r 2).filter (·.epochs)).map closesOf).sum ≤ m.1.foldedTo.toNat))
  | none => true

/-- Tallies the problems of the mask in order. -/
def tallyAll (s : State) (position : Nat) (r : Run) : List Prob → Run × State
  | [] => (r, s)
  | p :: ps =>
    let (p, s) := tallyProb s position p
    tallyAll s position (Run.setProb r p) ps

/-- Changes one problem of the run of a queue. -/
def updateProb (s : State) (q i : Nat) (f : Prob → Prob) : State :=
  match runOf s q with
  | none => s
  | some r => setRun s q { r with problems := r.problems.map (fun p => if p.index = i then f p else p) }

def probOf (s : State) (q i : Nat) : Option Prob := (runOf s q).bind (fun r => r.problems.find? (fun p => p.index == i))

/-- Copies that fit one problem lane offer at every decision (R100, R105). -/
def oneLane (p : Prob) : Bool := p.tiles == 1 && !p.rotates

-- DESIGN CHOICE, unsafe: notes/assumptions/84.md.
/-- The other members that hold one-lane copies of a problem: their offers reach the keeper in batches (R113), one for each epoch, or one
when a problem without epochs has finished. -/
def copyHolders (p : Prob) (position : Nat) : List Nat :=
  if oneLane p then (((List.range p.replicas).map (tilePos p)).filter (· != position)).dedup else []

def batchesOf (p : Prob) (m : Nat) : Nat := tget (fun _ => 0) p.batches m
def batchesDue (p : Prob) : Nat := if p.epochs then closesOf p else 1

/-- Every offer of a problem has been taken, at the keeper, or is on its way there. -/
def offersDone (r : Run) (p : Prob) : Bool :=
  p.offers.isEmpty
  && (if Run.position r = 0 then (copyHolders p 0).all (fun m => decide (batchesDue p ≤ batchesOf p m)) else p.epochs || p.lanes.isEmpty || p.sentAll)

/-- ANNEAL ends when every problem has finished and every offer has been taken. -/
def checkAnneal (s : State) (q : Nat) : State :=
  match atStage s q 2 with
  | none => s
  | some r =>
    if r.entered && (Run.inStage r 2).all (fun p => p.finished && offersDone r p) && looseDone r then
      let (r, s) := tallyAll s (Run.position r) r (Run.inStage r 2)
      endStage s q { r with folded := r.folded || (Run.inStage r 2).any (·.folded) }
    else s

/-- A member sends its offers of a problem to the keeper. -/
def sendBatch (s : State) (g : GroupRun) (p : Prob) : Prob × State :=
  match g.members[0]? with
  | some m => ({ p with offers := [] }, sendWord s (controlAddr m g.position) (.offers p.index (p.offers.map (fun x => (x.energy, x.bits, x.firstSeen)))))
  | none => (p, s)

/-- The keeper can take a batch: the sender holds copies and owes it one, and its states are states of the problem. -/
def takesBatch (r : Run) (p : Prob) (x : RemoteOffer) : Bool :=
  Run.position r == 0 && r.entered && (copyHolders p 0).contains x.sender && decide (batchesOf p x.sender < batchesDue p)
  && x.states.all (fun e => decide (e.2.1 < 2 ^ p.n))

/-- The keeper takes a batch; with it a problem without epochs that lies elsewhere has finished. -/
def takeBatch (fn : Nat) (s : State) (p : Prob) (x : RemoteOffer) : Prob × State :=
  let p := { p with batches := tset (fun _ => 0) p.batches x.sender (batchesOf p x.sender + 1), finished := p.finished || (!p.epochs && p.lanes.isEmpty) }
  keepStars fn s p (x.states.map (fun e => { energy := e.1, bits := e.2.1, firstSeen := e.2.2, hash := hashFrom 0 (natBits p.np e.2.1) }))

/-- The keeper takes the oldest offer of its own lanes, or a batch that has come from another member; a member sends the offers of a
problem without epochs once it has finished. -/
def starfieldOfferOn (q i : Nat) (remote : Option RemoteOffer) (s : State) : State :=
  match atStage s q 2, probOf s q i with
  | some r, some p =>
    let fn := queueFn s q
    let next := match remote, r.group with
      | some x, _ => if takesBatch r p x then some (takeBatch fn s p x) else none
      | none, some g =>
        if g.position = 0 then p.offers.head?.map (keepStar fn s { p with offers := p.offers.drop 1 })
        else if p.epochs || !p.finished || p.lanes.isEmpty || p.sentAll then none
        else some (let (p, s) := sendBatch s g p; ({ p with sentAll := true }, s))
      | none, none => p.offers.head?.map (keepStar fn s { p with offers := p.offers.drop 1 })
    match next with
    | some (p, s) => checkAnneal (updateProb s q i (fun _ => p)) q
    | none => s
  | _, _ => s

def execStarfieldOffer (q problem : Nat) (remote : Option RemoteOffer) (s : State) : Result := onQueue q s (starfieldOfferOn q problem remote)

/-! ### ANNEAL -/

/-- The sets of the problems of the mask. -/
def annealSets (fn : Nat) (ps : List Prob) : Act (List (Prob × CSet)) :=
  ps.mapM (fun p => do
    let c ← probSet fn p
    pure (p, c))

/-- AUTO epoch lengths in a group (R235), else those of R140. -/
def runEpochLen (r : Run) (p : Prob) : Nat :=
  match r.group with
  | some g => if p.epochMode = 2 ∧ 5 ≤ g.size then g.proposal else p.epochLen
  | none => p.epochLen

def beginAll (fn : Nat) (r : Run) (places : List (Nat × List Nat)) : List (Prob × CSet) → Act Run
  | [] => pure r
  | (p, c) :: rest => do
    let p ← beginProb fn r { p with epochLen := runEpochLen r p } c (((places.find? (fun e => e.1 == p.index)).map (·.2)).getD [])
    beginAll fn (Run.setProb r p) places rest

/-- Several lanes first, then single ones, each in ascending index (R252). -/
def placeOrder (ps : List (Prob × CSet)) : List (Prob × CSet) :=
  ps.filter (fun e => !Prob.single e.1) ++ ps.filter (fun e => Prob.single e.1)

/-- Lanes that are held count as the problems' own, so that a failing start gives them back. -/
def holdLanes (r : Run) (places : List (Nat × List Nat)) : Run :=
  { r with problems := r.problems.map (fun p => match places.find? (fun e => e.1 == p.index) with
    | some e => { p with lanes := e.2 }
    | none => p) }

def annealOn (q : Nat) : State → State :=
  stageOn q 2 (fun fn r s =>
    if r.entered then s
    else match (annealSets fn (Run.inStage r 2)).run s with
      | (.error (n, o), s) => failRun s q n o
      | (.ok ps, s) =>
        match placeAll s q (Run.position r) (placeOrder ps) with
        | none => holdCmd s q .tiles
        | some (places, s) =>
          let r := holdLanes (Run.enter s r) places
          match (beginAll fn r places ps).run (setRun s q r) with
          | (.error (n, o), s) => failRun s q n o
          | (.ok r, s) => checkAnneal (setRun s q r) q)

def execAnneal (q : Nat) (s : State) : Result := onQueue q s (annealOn q)

/-! ### Decisions -/

/-- Epoch in progress of the problem a lane runs, from 1; 0 when it runs no epochs. -/
def epochOf (s : State) (key : Nat) : Nat :=
  match probOf s (laneOf s key).queue (laneOf s key).problem with
  | some p => if p.epochs then p.epochCount + 1 else 0
  | none => 0

/-- REPLAY_DONE, when the lane has caught up (Table 18-5). -/
def replayDone (s : State) (key : Nat) : State :=
  let l := laneOf s key
  if l.replayTo = 0 ∨ l.replaying = true ∨ l.decisions < l.replayTo then s
  else
    let tile := key / 16
    let restart := match probOf s l.queue l.problem with
      | some p => decide (0 < p.restarts)
      | none => false
    let s := logEvent s (engineBlock s .anneal tile) 0x204 noFn (toLE 2 tile ++ toLE 8 (epochOf s key) ++ toLE 1 l.replays ++ toLE 1 (if restart then 1 else 0))
    setLane s key { l with replayTo := 0 }

end Sys2Proof.Machine
end

