-- ==== Sys2Proof/Machine/Faults.lean ====
section
/-! DEFINITION. Engine faults (R412 to R423, R82, R132): retiring the physical instance, mapping a spare or folding, replaying from
checkpoints or restarting, and the end of runs that cannot recover; control core failover (R424). -/

namespace Sys2Proof.Machine

/-! ### Spares and folds (R413, R421) -/

/-- Engines of a half. -/
def isEast (c : EngineClass) (l : Nat) : Bool := decide (EngineClass.logical c / 2 ≤ l)

/-- Least good instances of a class in one half (R367). -/
def leastGood (c : EngineClass) : Nat := EngineClass.logical c / 4

/-- Good physical instances of a class in a half. -/
def goodPhys (s : State) (c : EngineClass) (east : Bool) : Nat :=
  let lo := if east then EngineClass.physHalf c else 0
  ((List.range (EngineClass.physHalf c)).filter (fun p => !s.retiredEngines.contains (engineKey c (lo + p)))).length

/-- The logical instance whose physical instance hosts a fold: the highest of the half that stands alone on a good one. -/
def foldHost (s : State) (c : EngineClass) (l : Nat) : Option Nat :=
  ((List.range (EngineClass.logical c)).reverse).find? (fun h => h != l && isEast c h == isEast c l && !(mapOf s c h).folded
    && !s.retiredEngines.contains (engineKey c (mapOf s c h).phys))

/-- Folds guest l onto host h: both pages show it, and the host runs first (R446, R422). -/
def foldOnto (s : State) (c : EngineClass) (l h : Nat) : State :=
  let p := (mapOf s c h).phys
  let s := setMap (setMap s c l { phys := p, folded := true, partner := h, guest := true, turn := false }) c h
    { phys := p, folded := true, partner := l, guest := false, turn := true }
  let s := addLife (degrade (degrade s (EngineClass.page c + l)) (EngineClass.page c + h)) 169 1
  let s := logEvent s (blockId (EngineClass.blockType c) l p) 0x203 noFn (toLE 1 (EngineClass.no c) ++ toLE 2 l ++ toLE 2 h)
  raiseReplace s 1

-- DESIGN CHOICE, unsafe: notes/assumptions/138.md.
-- DESIGN CHOICE, unsafe: notes/assumptions/139.md.
/-- Gives a logical instance a physical one again: the lowest free spare of its half, or a fold. -/
def remap (s : State) (c : EngineClass) (l : Nat) : State :=
  match freePhys s c (isEast c l) with
  | p :: _ =>
    let s := addLife (setMap s c l { phys := p }) 169 1
    let left := (freePhys s c (isEast c l)).length
    let s := logEvent s (blockId (EngineClass.blockType c) l p) 0x202 noFn (toLE 1 (EngineClass.no c) ++ toLE 2 l ++ toLE 2 p ++ toLE 1 left)
    if sparesOut s then raiseReplace s 1 else s
  | [] =>
    match foldHost s c l with
    | some h => foldOnto s c l h
    | none => s

/-- Retires the physical instance that serves logical l, and maps every logical instance it served afresh, ascending. -/
def retire (s : State) (c : EngineClass) (l : Nat) : State :=
  let p := (mapOf s c l).phys
  let s := { s with retiredEngines := s.retiredEngines ++ [engineKey c p] }
  ((List.range (EngineClass.logical c)).filter (fun i => (mapOf s c i).phys == p)).foldl (fun s i => remap s c i) s

/-! ### Records of a fault (R412, R445) -/

/-- The FAULT register of a class: offset, and its value by cause, tile or lane, and index. -/
def faultReg (c : EngineClass) : Nat :=
  match c with
  | .anneal => 0xA0
  | .tensor => 0x78
  | .constraint => 0x7C

def faultValue (c : EngineClass) (cause index lane : Nat) : Nat :=
  match c with
  | .anneal => cause % 16 + lane % 16 * 16 + index % 4096 * 256
  | .tensor => cause % 16 + index % 4096 * 16
  -- lane carries the tile of the pair in bit 4
  | .constraint => cause % 16 + lane / 16 % 2 * 16 + lane % 16 * 32 + index % 32768 * 512

/-- The first fault since cold reset stands in the register; the page counts it (R445). -/
def recordFault (s : State) (c : EngineClass) (l cause index lane : Nat) (count : Bool) : State :=
  let page := EngineClass.page c + l
  let a := reg page (faultReg c)
  let s := if getReg s 0 a % 16 = 0 then setReg s 0 a (faultValue c cause index lane) else s
  setErrStat (if count then countUE s page else s) page 4

/-- The log record and lifetime count of an engine fault. -/
def logFault (s : State) (c : EngineClass) (l cause index lane epoch : Nat) : State :=
  let s := logEvent s (engineBlock s c l) 0x201 noFn
    (toLE 1 (EngineClass.no c) ++ toLE 2 l ++ toLE 2 (mapOf s c l).phys ++ toLE 1 cause ++ toLE 2 index ++ toLE 1 (lane % 16) ++ toLE 8 epoch)
  addLife s (157 + EngineClass.no c) 1

/-! ### Recovery (R415 to R420) -/

/-- Running lanes of a tile, as keys. -/
def runningLanes (s : State) (tile : Nat) : List Nat := ((List.range 16).map (laneKey tile)).filter (fun k => (laneOf s k).running && !(laneOf s k).gens.isEmpty)

-- DEDUCED, unsafe: notes/assumptions/136.md.
/-- A run that cannot recover (R420). -/
def failTile (s : State) (q : Nat) (c : EngineClass) (l : Nat) : State :=
  if (runOf s q).isNone then s
  else
    let s := setHealth (lastWord s 0x0103) (EngineClass.page c + l) healthFaulted
    failRun s q 0 (outcome stTileFault (2 ^ 24 * EngineClass.no c + 2 ^ 12 * l) 0)

/-- A lane whose problem is still being annealed is to replay from its latest checkpoint; one that has done so 4 times ends its run
(R420). -/
def recoverLane (c : EngineClass) (l : Nat) (s : State) (key : Nat) : State :=
  let x := laneOf s key
  match atStage s x.queue 2, probOf s x.queue x.problem with
  | some r, some p =>
    if !x.running || !r.entered || (p.epochs && p.finished) then s
    else if 4 ≤ x.replays then failTile s x.queue c l
    else updateProb (setLane s key { x with
      replaying := true, waiting := false, moved := [], finished := false, replays := x.replays + 1, replayTo := max x.replayTo x.decisions })
      x.queue x.problem (fun p => { p with finished := false })
  | _, _ => s

-- DEDUCED, unsafe: notes/assumptions/156.md.
/-- An energy mismatch in a problem of one-lane copies restarts it whole (R416): the starfield is emptied, and offered the start state
again (R105). -/
def restartProb (c : EngineClass) (l : Nat) (s : State) (q i : Nat) : State :=
  match runOf s q, probOf s q i with
  | some r, some p =>
    if 4 ≤ p.restarts then failTile s q c l
    else
      let s := p.lanes.foldl (fun s k =>
        let x := laneOf s k
        setLane s k { x with replaying := true, waiting := false, moved := [], finished := false, stopped := false, save := x.first, replayTo := max x.replayTo x.decisions
                             replays := x.replays + 1, waitBeats := 0, waitMax := 0 }) s
      let start := (laneOf s (p.lanes.headD 0)).first
      let p := { p with
        restarts := p.restarts + 1, stars := [], starsSave := [], slots := [], finished := false, epochCount := 0, rounds := 0
        position := List.range p.replicas, exGen := seedLane (r.seed.getD 0) 0xFFFF 0 p.ctxArg
        ePrev := List.replicate p.replicas start.energy, bits := List.replicate p.replicas (bitsNat start.x) }
      setRun (unfix s p.starSpan) q (Run.setProb r { p with offers := if Run.position r = 0 then startOffer p else [] })
  | _, _ => s

/-- The problem that a lane runs has copies of one lane. -/
def oneLaneAt (s : State) (key : Nat) : Bool :=
  match probOf s (laneOf s key).queue (laneOf s key).problem with
  | some p => oneLane p
  | none => false

/-- Recovery of a tile's lanes by the cause of its fault (R415, R416). -/
def recoverTile (s : State) (tile cause : Nat) : State :=
  (runningLanes s tile).foldl (fun s k =>
    if cause = 6 ∧ oneLaneAt s k = true then restartProb .anneal tile s (laneOf s k).queue (laneOf s k).problem
    else recoverLane .anneal tile s k) s

/-- Queues whose runs an instance serves: lanes on a tile, or on the tiles of an engine; chains and closes of a tensor tile. -/
def servedQueues (s : State) (c : EngineClass) (l : Nat) : List Nat :=
  match c with
  | .anneal => ((runningLanes s l).map (fun k => (laneOf s k).queue)).dedup
  | .constraint => ((runningLanes s (2 * l) ++ runningLanes s (2 * l + 1)).map (fun k => (laneOf s k).queue)).dedup
  | .tensor => (s.runs.filter (fun e => e.2.chain.isSome || e.2.problems.any (·.epochs))).map (·.1)

/-- Step 3 of R413. -/
def recover (s : State) (c : EngineClass) (l cause : Nat) : State :=
  match c with
  | .anneal => recoverTile s l cause
  | .constraint => (runningLanes s (2 * l) ++ runningLanes s (2 * l + 1)).foldl (recoverLane .constraint l) s
  | .tensor => s

/-- Folds that stand mark the runs they serve (R421). -/
def markFolds (s : State) : State :=
  { s with runs := s.runs.map (fun e => (e.1, { e.2 with problems := e.2.problems.map (fun p =>
      if p.lanes.isEmpty then p else { p with folded := p.folded || probFolded s p }) })) }

/-- A run group that an instance serves is in recovery until its close ends (R237). -/
def markRecovery (s : State) (qs : List Nat) : State :=
  { s with runs := s.runs.map (fun e => (e.1, if qs.contains e.1 then { e.2 with group := e.2.group.map (fun g => { g with recovery := true }) } else e.2)) }

/-- R413 and R420 for the instance that serves logical l. -/
def strike (s : State) (c : EngineClass) (l cause : Nat) : State :=
  if goodPhys s c (isEast c l) ≤ leastGood c then
    let s := { s with retiredEngines := s.retiredEngines ++ [engineKey c (mapOf s c l).phys] }
    (servedQueues s c l).foldl (fun s q => failTile s q c l) s
  else recover (markRecovery (markFolds (retire s c l)) (servedQueues s c l)) c l cause

/-- Some lane of a tile has ended its epoch or its run. -/
def tileEnded (s : State) (tile : Nat) : Bool := (runningLanes s tile).any (fun k => (laneOf s k).stopped || (laneOf s k).finished)

/-- A bank that a problem lane of the tile owns (Table 3-2). -/
def ownsBank (s : State) (tile lane bank : Nat) : Bool :=
  let b := laneBanks (laneMode s tile) lane
  decide (lane < modeLanes (laneMode s tile)) && decide (b.1 ≤ bank) && decide (bank < b.1 + b.2)

-- DEDUCED, safe: notes/assumptions/76.md.
/-- Which causes may strike now: a bank of the coefficient store that the lane owns, a mismatch at a close or at the end of a run (R77,
R129, R145), a delivery failure while a lane waits (R82), a change list error by the descriptor itself (R176). -/
def faultPossible (s : State) (c : EngineClass) (l cause index lane : Nat) : Bool :=
  match c with
  | .anneal => (cause == 1 && ownsBank s l (lane % 16) index) || decide (2 ≤ cause ∧ cause ≤ 4) || (cause == 6 && tileEnded s l)
  | .tensor => cause == 1 || cause == 2 || cause == 4
  | .constraint => cause == 1 || (cause == 2 && tileEnded s (2 * l + lane / 16 % 2))

/-- An engine fault: recorded, logged, counted, and recovered from (R412, R413). -/
def faultNow (c : EngineClass) (l cause index lane : Nat) (s : State) : State :=
  let tile := match c with
    | .anneal => l
    | .constraint => 2 * l + lane / 16 % 2
    | .tensor => 0
  let epoch := match c with
    | .tensor => 0
    | _ => epochOf s (laneKey tile (lane % 16))
  strike (logFault (recordFault s c l cause index lane true) c l cause index lane epoch) c l cause

def engineFaultOn (c : EngineClass) (l cause index lane : Nat) (s : State) : State :=
  if faultPossible s c l cause index lane then faultNow c l cause index lane s else s

def execEngineFault (c : EngineClass) (l cause index lane : Nat) (s : State) : Result :=
  onEngine l (EngineClass.logical c) s (engineFaultOn c l cause index lane)

-- DEDUCED, unsafe: notes/assumptions/137.md.
-- DESIGN CHOICE, unsafe: notes/assumptions/163.md.
/-- CONSTRAINT_TIMEOUT: the tile reports its engine, which is retired in its stead (R82, R131, R413). -/
def constraintTimeoutOn (tile lane : Nat) (s : State) : State :=
  let l := laneOf s (laneKey tile lane)
  if !(l.running && l.waiting) then s
  else
    let e := tile / 2
    let cl := lane + 16 * (tile % 2)
    let number := ((l.records.find? (fun r => l.moved.any (names r))).map (·.number)).getD 0
    let epoch := epochOf s (laneKey tile lane)
    let s := recordFault (recordFault s .anneal tile 5 e lane true) .constraint e 3 number cl false
    strike (logFault s .constraint e 3 number cl epoch) .constraint e 3

def execConstraintTimeout (tile lane : Nat) (s : State) : Result := onLane tile lane s (constraintTimeoutOn tile lane)

/-! ### Replay -/

/-- The coefficients of a lane, read from its image. -/
def replayLoad (fn : Nat) (p : Prob) (l : Lane) : Act Store :=
  liftRead 0 (fun s => loadStore s (Prob.imageAt fn p) (Prob.held p).hd l.start l.np)

/-- The spare's store is filled from the image, and the lane goes on from its checkpoint (R415). -/
def replayOn (tile lane : Nat) (s : State) : State :=
  let key := laneKey tile lane
  let l := laneOf s key
  if !(l.running && l.replaying) then s
  else match probOf s l.queue l.problem with
    | none => s
    | some p =>
      match (replayLoad (queueFn s l.queue) p l).run s with
      | (.error _, s) => failTile s l.queue .anneal tile
      | (.ok st, s) => replayDone (setLane s key { restoreLane { l with store := st } l.save with replaying := false }) key

def execReplay (tile lane : Nat) (s : State) : Result := onLane tile lane s (replayOn tile lane)

/-! ### Folded pairs take turns (R422, R423) -/

/-- A tile's lanes have made their epoch, their turn of 65,536 decisions, or have nothing to run. -/
def tileRested (s : State) (tile : Nat) : Bool :=
  (runningLanes s tile).all (fun k => let l := laneOf s k; l.finished || l.stopped || decide (65536 ≤ l.epochDec) && !((probOf s l.queue l.problem).any (·.epochs)))

/-- A tile has a lane that could decide in its turn. -/
def tileEager (s : State) (tile : Nat) : Bool := (runningLanes s tile).any (fun k => let l := laneOf s k; !l.finished && !l.stopped)

/-- Tiles whose lanes take turns with logical l of a class. -/
def turnTiles (c : EngineClass) (l : Nat) : List Nat :=
  match c with
  | .anneal => [l]
  | .constraint => [2 * l, 2 * l + 1]
  | .tensor => []

def restTurn (s : State) (tile : Nat) : State :=
  (runningLanes s tile).foldl (fun s k =>
    let l := laneOf s k
    if (probOf s l.queue l.problem).any (·.epochs) then s else setLane s k { l with epochDec := 0 }) s

def foldSwitchOn (c : EngineClass) (l : Nat) (s : State) : State :=
  let m := mapOf s c l
  if !m.folded then s
  else
    let now := if m.turn then l else m.partner
    let next := if m.turn then m.partner else l
    if (turnTiles c now).all (tileRested s) && ((turnTiles c next).any (tileEager s) || (turnTiles c next).isEmpty) then
      let s := (turnTiles c now).foldl restTurn s
      setMap (setMap s c now { mapOf s c now with turn := false }) c next { mapOf s c next with turn := true }
    else s

def execFoldSwitch (c : EngineClass) (l : Nat) (s : State) : Result := onEngine l (EngineClass.logical c) s (foldSwitchOn c l)

/-! ### Control cores (R424) -/

/-- GL_STATUS after a failed start-up phase or the loss of the last core: PHASE FAILED, FAIL_CAUSE, and READY gone. -/
def statusFailed (s : State) (cause : Nat) : State :=
  setFld (setFld (setFld s 0x40 0 4 15) 0x40 4 1 0) 0x40 8 4 cause

-- DEDUCED, safe: notes/assumptions/140.md.
/-- A spare takes the logical number of the core that failed (R17); without one the other core does the work of both. -/
def coreFailoverOn (core : Nat) (s : State) : State :=
  match s.cores.findIdx? (· == core) with
  | none => s
  | some i =>
    let s := addLife s 161 1
    let log := fun (s : State) (c : Nat) => logEvent s (blockId 0x03 i core) 0x205 noFn (toLE 1 core ++ toLE 1 c)
    match s.spareCores, s.cores.filter (· != core) with
    | c :: cs, _ =>
      let s := log { s with cores := s.cores.set i c, spareCores := cs } c
      if sparesOut s then raiseReplace s 1 else s
    | [], c :: _ => log { s with cores := s.cores.map (fun x => if x = core then c else x) } c
    | [], [] => setHealth (statusFailed (lastWord { s with cores := [] } 0x0104) 4) 0 healthFaulted

def execCoreFailover (core : Nat) (s : State) : Result := onIndex core 4 s (coreFailoverOn core)

end Sys2Proof.Machine
end

