-- ==== Sys2Proof/Machine/Frontend.lean ====
section
/-! DEFINITION. The front ends: doorbells, the start of commands, waits, completion records, timers, queue control, and failed
host accesses (chapter 11; R355). -/

namespace Sys2Proof.Machine

/-! ### Starting commands (R250, R251, R258) -/

-- DEDUCED, safe: notes/assumptions/35.md.
/-- Started ring commands of a front end, FE_STATUS.IN_PROGRESS (R251). -/
def inProgress (s : State) (fe : Nat) : Nat :=
  (s.queues.filter (fun e => e.1 / 1024 == fe && (match e.2.cur with
    | some c => c.phase != .waiting
    | none => false))).length

/-- Old forms of handle table entries that the command at SQ_HEAD may still see: its doorbell came before they were replaced (R259). -/
def staleFor (s : State) (q : Nat) : List (Nat × List Byte) :=
  (s.stale.filter (fun e => e.tails.any (fun t => t.1 == q && pendingBefore (queueOf s q) t.2))).map (fun e => (e.addr, e.bytes))

/-- The active command starts: its checks are made, and the first failure ends it (R258). -/
def beginCmd (s : State) (q : Nat) : State :=
  match activeCmd (queueOf s q) with
  | none => s
  | some (inner, c) =>
    let Q := queueOf s q
    let s := match Q.buffer with
      | some b => if inner then setQueue s q { Q with buffer := some { b with started := b.started + 1 } } else s
      | none => s
    if inner && Cmd.opcode c == opExecBuffer then finish s q (badCommand 0 0)
    else
      match checkCommand s (queueFn s q) { c with stale := staleFor s q } with
      | (.ok c, s) => setQueue s q (setActive (queueOf s q) inner { c with phase := .started, since := s.us })
      | (.error o, s) => finish s q o

-- DEDUCED, unsafe: notes/assumptions/32.md.
/-- A command just read: with a wait on an object of its function's block it waits, whatever else its header holds, since R258 checks the
rest at its start; any other starts (R265). -/
def enterCmd (s : State) (q : Nat) : State :=
  match activeCmd (queueOf s q) with
  | none => s
  | some (_, c) => if Cmd.waitEn c && (globalSync s (queueFn s q) (Cmd.waitObj c)).isSome then s else beginCmd s q

/-- The queue's next command can be read: the previous one has completed and no record is held (R249, R250). -/
def nextReady (s : State) (q : Nat) : Bool :=
  let Q := queueOf s q
  Q.state == .running && Q.out.isEmpty && Q.undelivered.isEmpty && !Q.fetchFailed
  && (match Q.buffer with
    | some b => Q.innerCur.isNone && decide (b.next < b.count)
    | none => Q.cur.isNone && Q.sqHead != Q.sqTail && decide (inProgress s (q / 1024) < 64))

/-- The wait of the active command holds: its object has reached WAIT_VALUE (R265). -/
def waitHolds (s : State) (q : Nat) (c : Cmd) : Bool :=
  match globalSync s (queueFn s q) (Cmd.waitObj c) with
  | some g => decide (Cmd.waitValue c ≤ (syncOf s g).value.toNat)
  | none => false

def waitErrored (s : State) (q : Nat) (c : Cmd) : Bool :=
  match globalSync s (queueFn s q) (Cmd.waitObj c) with
  | some g => (syncOf s g).error
  | none => false

/-- The active command was read and waits on its object. -/
def waitsNow (s : State) (q : Nat) : Bool :=
  match activeCmd (queueOf s q) with
  | some (_, c) => c.phase == .waiting
  | none => false

/-- A queue whose next command is ready for its front end (R251): one to read, or one read whose wait holds. -/
def takeable (s : State) (q : Nat) : Bool :=
  nextReady s q || (match activeCmd (queueOf s q) with
    | some (inner, c) => c.phase == .waiting && waitHolds s q c && (queueOf s q).state == .running && (inner || decide (inProgress s (q / 1024) < 64))
    | none => false)

/-- Round robin in ascending global number, WEIGHT + 1 commands a turn (R251). -/
def arbitrate (s : State) (fe : Nat) : Option (Nat × FrontEnd) :=
  let F : FrontEnd := tget (fun _ => {}) s.fronts fe
  let ready := (s.queues.map (·.1)).filter (fun q => q / 1024 == fe && takeable s q)
  if ready.contains F.turn && decide (F.taken ≤ (queueOf s F.turn).weight) && decide (0 < F.taken) then
    some (F.turn, { F with taken := F.taken + 1 })
  else
    match (ready.filter (fun q => decide (F.turn < q)) ++ ready).head? with
    | some q => some (q, { turn := q, taken := 1 })
    | none => none

/-- Reads the next command of a queue (R248, R263). -/
def takeNext (s : State) (q : Nat) : State :=
  let Q := queueOf s q
  match Q.buffer with
  | some b =>
    match readInner s q (b.addr + 64 * b.next) with
    | (bytes, bad, s) =>
      let Q := queueOf s q
      let Q := { Q with buffer := some { b with next := b.next + 1 } }
      match bad with
      | some a => conclude (setQueue s q { Q with innerCur := some blankCmd }) q true blankCmd (memoryBad a) none
      | none => enterCmd (setQueue s q { Q with innerCur := some { bytes, since := Q.nextSince } }) q
  | none =>
    match readEntry s q Q.sqHead with
    | (bytes, bad, s) =>
      let Q := queueOf s q
      match bad with
      | some a => conclude s q false blankCmd (memoryBad a) none
      | none => enterCmd (setQueue s q { Q with cur := some { bytes, since := Q.nextSince } }) q

/-- A wait that holds is over: on an errored object the command ends with FENCE_ERROR, else it starts (R265). -/
def endWait (s : State) (q : Nat) (c : Cmd) : State :=
  if waitErrored s q c then finish s q (outcome stFenceError (Cmd.waitObj c) 0) else beginCmd s q

/-- The queue's next command is taken: the one whose wait holds, else the next to read. -/
def takeTurn (s : State) (q : Nat) : State :=
  match activeCmd (queueOf s q) with
  | some (_, c) => endWait s q c
  | none => takeNext s q

/-- COMMAND_START on a front end.  A command that is read and must wait takes no turn. -/
def commandStartOn (fe : Nat) (s : State) : State :=
  if !isReady s then s
  else match arbitrate s fe with
    | none => s
    | some (q, F) =>
      let t := takeTurn s q
      if waitsNow t q then t else { t with fronts := tset (fun _ => {}) t.fronts fe F }

def execCommandStart (fe : Nat) (s : State) : Result := onIndex fe 4 s (commandStartOn fe)

/-- The wait of a queue's command ends, when its front end comes to the queue in its turn (R251). -/
def waitSatisfiedOn (q : Nat) (s : State) : State :=
  match activeCmd (queueOf s q), arbitrate s (q / 1024) with
  | some (_, c), some (q', F) =>
    if c.phase = .waiting ∧ q' = q then endWait { s with fronts := tset (fun _ => {}) s.fronts (q / 1024) F } q c else s
  | _, _ => s

def execWaitSatisfied (q : Nat) (s : State) : Result := onQueue q s (waitSatisfiedOn q)

/-! ### Records (R249, R254, R263) -/

def completionWriteOn (q : Nat) (s : State) : State :=
  if (queueOf s q).recordHeld then s else closeBuffer (advanceOut s q) q

def execCompletionWrite (q : Nat) (s : State) : Result := onQueue q s (completionWriteOn q)

/-- A held record goes out once a slot is free. -/
def cqRoomOn (q : Nat) (s : State) : State :=
  let Q := queueOf s q
  if Q.recordHeld && decide (Queue.records Q < Queue.size Q) then closeBuffer (advanceOut s q) q else s

def execCqRoom (q : Nat) (s : State) : Result := onQueue q s (cqRoomOn q)

/-- A held command obtains what it waits for (R251): it goes on from where it was held. -/
def resourceGrantOn (q : Nat) (s : State) : State :=
  match activeCmd (queueOf s q) with
  | some (_, c) =>
    let fn := queueFn s q
    let free : Bool := match c.phase with
      | .held .plan =>
        match planById s fn (Cmd.fld c 0x20 4) with
        | some (_, p) => p.running.isNone
        | none => true
      | .held .context =>
        if Cmd.opcode c = opContext then
          match globalCtx s fn (Cmd.fld c 0x24 4) with
          | some g => (ctxOf s g).state != .running
          | none => true
        else true
      | .held _ => true
      | _ => false
    if free then updateCmd s q (fun c => { c with phase := .started }) else s
  | none => s

def execResourceGrant (q : Nat) (s : State) : Result := onQueue q s (resourceGrantOn q)

/-! ### Fetching ahead (R261, R262) -/

/-- Fetches n entries from counter value c; an entry that reads bad is left to its own read. -/
def fetchEntries (s : State) (q : Nat) (c : U32) : Nat → State
  | 0 => s
  | n + 1 =>
    let (b, bad, s) := readEntry s q c
    let Q := queueOf s q
    let s := if bad.isSome || Q.fetched.any (fun e => e.1 == c) then s else setQueue s q { Q with fetched := Q.fetched ++ [(c, b)] }
    fetchEntries s q (c + 1) n

/-- Fetches n commands of a buffer from device address a. -/
def fetchInner (s : State) (q a : Nat) : Nat → State
  | 0 => s
  | n + 1 =>
    let (b, bad, s) := readInner s q a
    let Q := queueOf s q
    let s := if bad.isSome || Q.fetchedBuffer.any (fun e => e.1 == a) then s else setQueue s q { Q with fetchedBuffer := Q.fetchedBuffer ++ [(a, b)] }
    fetchInner s q (a + 64) n

/-- The commands before the first EXEC_BUFFER among entries hold no PATCH; and where that command's buffer lies, looked up
without the checks that its start makes. -/
def aheadBuffer (s : State) (fn : Nat) (entries : List (List Byte)) : Option (Nat × Nat) :=
  match entries.dropWhile (fun b => leAt b 0 1 != opExecBuffer && leAt b 0 1 != opPatch) with
  | b :: _ =>
    if leAt b 0 1 = opExecBuffer ∧ bits (leAt b 1 1) 4 1 = 0 ∧ leAt b 0x24 4 ≤ 4096 then
      let c := fnOf s fn
      let e := peekDev s (c.htBase.toNat + 32 * (leAt b 0x20 4 % 2 ^ 24)) 32
      match checkEntry s fn (leAt b 0x20 4) e (onDevice rd) (leAt b 0x28 8) (64 * leAt b 0x24 4) with
      | .ok p => some (p.addr + leAt b 0x28 8, leAt b 0x24 4)
      | _ => none
    else none
  | [] => none

def prefetchOn (q : Nat) (s : State) : State :=
  let Q := queueOf s q
  match Q.state, Q.cur with
  | .running, some cur =>
    let n := Queue.waiting Q - 1
    let s := fetchEntries s q (Q.sqHead + 1) n
    if Q.buffer.isSome || Cmd.opcode cur == opPatch || Cmd.opcode cur == opExecBuffer then s
    else
      let es := (List.range n).filterMap (fun i => ((queueOf s q).fetched.find? (fun e => e.1 == Q.sqHead + 1 + BitVec.ofNat 32 i)).map (·.2))
      match aheadBuffer s (queueFn s q) es with
      | some (a, k) => fetchInner s q a k
      | none => s
  | _, _ => s

def execPrefetch (q : Nat) (s : State) : Result := onQueue q s (prefetchOn q)

/-! ### Timers (R267, R268) -/

-- DESIGN CHOICE, safe: notes/assumptions/39.md.
/-- A timer of `us` microseconds begun at `since` may have expired: interval timers are within 2 %. -/
def expired (s : State) (us since : Nat) : Bool := us != 0 && decide (us * 98 ≤ (s.us - since) * 100)

/-- The timer that runs for a queue's command: since when, and its microseconds (R267). -/
def timerOf (s : State) (q : Nat) : Option (Nat × Nat) :=
  let Q := queueOf s q
  if Q.state ≠ .running then none
  else match activeCmd Q, Q.cur with
    | some (_, c), some k =>
      if c.phase = .waiting ∧ Q.waitTimeout.toNat ≠ 0 ∧ waitHolds s q c = false then some (c.since, Q.waitTimeout.toNat)
      else if k.phase ≠ .waiting ∧ Q.timeout.toNat ≠ 0 ∧ Q.recordHeld = false then some (k.since, Q.timeout.toNat)
      else none
    | _, _ => none

/-- Timer a has expired by the tick at which b expires, however fast the front end's oscillator runs within its 2 %. -/
def notAfter (a b : Nat × Nat) : Bool :=
  decide (100 * a.1 + 98 * a.2 ≤ 100 * b.1 + 98 * b.2) && decide (100 * a.1 + 102 * a.2 ≤ 100 * b.1 + 102 * b.2)

/-- A queue of a lower number on the same front end is examined first: its timer has expired too (R268, R271). -/
def earlierExpired (s : State) (q : Nat) (t : Nat × Nat) : Bool :=
  s.queues.any (fun e => e.1 / 1024 == q / 1024 && decide (e.1 < q) && (timerOf s e.1).any (fun x => notAfter x t))

def waitTimeoutOn (q : Nat) (s : State) : State :=
  let Q := queueOf s q
  match activeCmd Q with
  | some (_, c) =>
    if c.phase = .waiting ∧ Q.state = .running ∧ expired s Q.waitTimeout.toNat c.since = true ∧ waitHolds s q c = false
        ∧ earlierExpired s q (c.since, Q.waitTimeout.toNat) = false then
      makeGuilty s q stWaitTimeout (outcome stWaitTimeout (Cmd.waitObj c) 0)
    else s
  | none => s

def execWaitTimeout (q : Nat) (s : State) : Result := onQueue q s (waitTimeoutOn q)

def queueTimeoutOn (q : Nat) (s : State) : State :=
  let Q := queueOf s q
  match Q.cur with
  | some c =>
    if c.phase ≠ .waiting ∧ Q.state = .running ∧ Q.recordHeld = false ∧ expired s Q.timeout.toNat c.since = true
        ∧ earlierExpired s q (c.since, Q.timeout.toNat) = false then
      makeGuilty s q stQueueTimeout (outcome stQueueTimeout (stageKind s q) 0)
    else s
  | none => s

def execQueueTimeout (q : Nat) (s : State) : Result := onQueue q s (queueTimeoutOn q)

/-! ### Doorbells and queue control (R246, R479) -/

/-- The host's writes that the doorbell announces are visible before it, by the ordering of posted writes (R259). -/
def hostCells (s : State) (cells : List (Nat × Byte)) : State := cells.foldl (fun s e => writeHost s e.1 [e.2]) s

def execDoorbellWrite (fn r : Nat) (tail head : Option U32) (host : List (Nat × Byte)) (s : State) : Result :=
  onFn fn s (fun s => doorbell (hostCells s host) fn r tail head)

/-- A write of FE_Q_CTRL through the selection of a function. -/
def onSelected (fn : Nat) (f : Nat → State → State) (s : State) : State :=
  match selectedQueue s fn with
  | some q => f q s
  | none => s

def execEnable (fn : Nat) (s : State) : Result := onBar0 fn s (onSelected fn (fun q s => writeQctrl s fn q 1))
def execDisable (fn : Nat) (s : State) : Result := onBar0 fn s (onSelected fn (fun q s => writeQctrl s fn q 0))
def execReset (fn : Nat) (s : State) : Result := onBar0 fn s (onSelected fn (fun q s => writeQctrl s fn q 2))
def execResume (fn : Nat) (s : State) : Result := onBar0 fn s (onSelected fn (fun q s => writeQctrl s fn q 4))

/-- Page 21 serves the physical function only (R281). -/
def execFeFnQueuesWrite (fn : Nat) (value : U32) (s : State) : Result :=
  onBar0 fn s (fun s => if fn = 0 then writeFnQueues s value else s)

def execFeSyncValueHiWrite (fn : Nat) (value : U32) (s : State) : Result := onBar0 fn s (fun s => writeSyncHi s fn value)
def execClearError (fn : Nat) (s : State) : Result := onBar0 fn s (fun s => clearSyncError s fn)

/-! ### Failed host accesses (R274, R275, R355) -/

/-- PX_LAST_FAIL; a failed read is counted. -/
def lastFail (s : State) (addr : Nat) : State := set64 s (reg 3500 0x64) addr
def countReadFail (s : State) (addr : Nat) : State := addCount (lastFail s addr) (reg 3500 0x50) 1

/-- The first record's ring slot in host memory holds the address. -/
def inRecordSlot (Q : Queue) (a : Nat) : Bool := !Q.cqDev && decide (Queue.cqSlot Q ≤ a) && decide (a < Queue.cqSlot Q + 32)

def spanHolds (p : Span) (a : Nat) : Bool := p.host && decide (p.addr ≤ a) && decide (a < p.addr + p.len)

/-- Buffers in host memory that a run's stages may have written: a spilled image (R155) or another output of the plan. -/
def runWrites (s : State) (q : Nat) : List Span :=
  match runOf s q with
  | some r => if Run.begun r then r.spans.filter (·.write) else []
  | none => []

/-- A destination in host memory turns out not to have been written: the state stores are as they stood at run start (R279), and a result
record's buffer is not fixed (R205). -/
def destFailed (s : State) (r : OutRec) (d : Nat × Span) : State :=
  let s := r.undo.foldl (fun s e => writeDev s e.1 e.2.1 e.2.2) s
  if d.1 = 0 then unfix s d.2 else s

/-- The first record is on its way into a free slot: neither suppressed nor held (R249, R254, R275). -/
def beingWritten (Q : Queue) (r : OutRec) : Bool := !r.quiet && Q.undelivered.isEmpty && decide (Queue.records Q < Queue.size Q)

-- DESIGN CHOICE, unsafe: notes/assumptions/37.md.
/-- A host write failed: an output of a run in progress, the command's own destination before its signal, or the record itself. -/
def verifyReadFailOn (q : Nat) (addr : Nat) (s : State) : State :=
  let Q := queueOf s q
  match Q.out with
  | [] =>
    if (runWrites s q).any (fun p => spanHolds p addr) then
      finish (endRun (lastFail s addr) q stHostWrite (fun _ => .ended) true) q (outcome stHostWrite 2 addr)
    else s
  | r :: rest =>
    match r.hostDest with
    | some d =>
      if spanHolds d.2 addr && !r.signalled && !isError r.out then
        let s := destFailed (lastFail s addr) r d
        setQueue s q { Q with out := { r with out := outcome stHostWrite d.1 addr, hostDest := none, undo := [], quiet := false } :: rest }
      else if inRecordSlot Q addr && beingWritten Q r then undeliverable (lastFail s addr) q
      else s
    | none => if inRecordSlot Q addr && beingWritten Q r then undeliverable (lastFail s addr) q else s

def execVerifyReadFail (q : Nat) (addr : U64) (s : State) : Result := onQueue q s (verifyReadFailOn q addr.toNat)

/-- The host buffers that the relocation entries of a plan name while a BIND_PLAN binds it, or while the checks of a RUN examine it. -/
def planSpans (s : State) (fn : Nat) (c : Cmd) : List Span :=
  let go := fun (a : Act (List Span)) => match a.run s with
    | (.ok l, _) => l
    | (.error _, _) => []
  if Cmd.opcode c = opBindPlan then
    go (do
      let img := Cmd.span c 0x20
      let b ← readAct 1 fn img 0 img.len
      let args ← listOf 3 fn c 0x2C (Cmd.fld c 0x30 1)
      relocAll c.stale fn (parsePlanHdr b) (Cmd.span c 0x24).addr args b)
  else if Cmd.opcode c = opRun then
    match planById s fn (Cmd.fld c 0x20 4) with
    | some (_, p) => go (do
        let b ← readAct 4 fn { addr := p.base, len := p.imageBytes, read := true } 0 p.imageBytes
        let args ← listOf 0 fn c 0x24 (Cmd.fld c 0x36 1)
        relocAll c.stale fn (parsePlanHdr b) p.base (if args.isEmpty then p.args else args) b)
    | none => []
  else []

-- DESIGN CHOICE, unsafe: notes/assumptions/38.md.
/-- The field or relocation entry that named the host buffer holding an address (R258, R355). -/
def failedField (s : State) (q : Nat) (c : Cmd) (a : Nat) : Option Outcome3 :=
  match c.spans.find? (fun e => spanHolds e.2 a) with
  | some (off, _) => some (badHandle 7 (Cmd.src c off) off)
  | none =>
    let spans := match runOf s q with
      | some r => r.spans
      | none => planSpans s (queueFn s q) c
    (spans.zipIdx.find? (fun e => spanHolds e.1 a)).map (fun e => badEntry 7 e.2)

/-- A command whose read of host memory failed ends; a RUN not yet begun tells the peers of its table (R241). -/
def readFailed (s : State) (q : Nat) (c : Cmd) (o : Outcome3) : State :=
  match runOf s q with
  | some _ => finish (endRun s q stBadHandle (fun _ => .ended) true) q o
  | none => if Cmd.opcode c = opRun then failStart s q (queueFn s q) c o else finish s q o

/-- A device read of host memory fails: a submission entry is retried, any other buffer ends the command. -/
def hostReadFailOn (q : Nat) (addr : Nat) (s : State) : State :=
  let Q := queueOf s q
  match activeCmd Q with
  | some (_, c) =>
    if c.phase = .started then
      match failedField s q c addr with
      | some o => readFailed (countReadFail s addr) q c o
      | none => s
    else s
  | none =>
    let slot := Queue.sqSlot Q Q.sqHead
    if nextReady s q && Q.buffer.isNone && !Q.sqDev && decide (slot ≤ addr) && decide (addr < slot + 64) then
      setQueue (countReadFail s addr) q { Q with fetchFailed := true }
    else s

def execHostReadFail (q : Nat) (addr : U64) (s : State) : Result := onQueue q s (hostReadFailOn q addr.toNat)

def sqFetchRetryOn (q : Nat) (ok : Bool) (s : State) : State :=
  let Q := queueOf s q
  if !Q.fetchFailed then s
  else if ok then setQueue s q { Q with fetchFailed := false }
  else countReadFail s (Queue.sqSlot Q Q.sqHead)

def execSqFetchRetry (q : Nat) (ok : Bool) (s : State) : Result := onQueue q s (sqFetchRetryOn q ok)

end Sys2Proof.Machine
end

