-- ==== Sys2Proof/Machine/Decide.lean ====
section
/-! DEFINITION. Decisions of a problem lane (R72 to R81), the delivery of masks (R79, R131), and the checks that a lane's registers meet at an
epoch close and at the end of its run (R77, R129, R143 to R145). -/

namespace Sys2Proof.Machine

/-! ### The changed set (R143) -/

/-- Replica of the copy that a lane serves (R100). -/
def replicaOf (p : Prob) (l : Lane) : Nat := l.t / p.tiles

/-- D_t of a lane with each Δ_i: problem variable and its change since the epoch's start. -/
def laneDelta (p : Prob) (l : Lane) : List (Nat × Int) :=
  (List.range l.np).filterMap (fun k =>
    let now := bitAt l.x k
    if now = (p.bits.getD (replicaOf p l) 0).testBit (l.start + k) then none
    else some (l.start + k, if now then 1 else -1))

/-! ### The checks of a lane's registers (R77, R129, R145) -/

/-- L_t, the local energy term of a lane (R144): g from its checkpoint, f as it stands. -/
def localTerm (p : Prob) (l : Lane) : Int :=
  ((laneDelta p l).map (fun e => e.2 * (l.save.field.getD (e.1 - l.start) 0 + l.field.getD (e.1 - l.start) 0))).sum / 2

/-- What the energy register must hold: E_prev + L_t + (P_t - P_t,prev), with P_t from the sums as recomputed. -/
def dueEnergy (p : Prob) (l : Lane) : Int :=
  p.ePrev.getD (replicaOf p l) 0 + localTerm p l + (penaltySum (resum l.x l.records) - l.save.penalty)

/-- The fault that the checks find: class, cause and index.  A kept sum that differs from the recomputed one, else the energy register. -/
def laneFault (p : Prob) (l : Lane) : Option (EngineClass × Nat × Nat) :=
  match l.records.find? (fun r => recordSum l.x r.terms != r.sum) with
  | some r => some (.constraint, 2, r.number)
  | none => if l.energy = dueEnergy p l then none else some (.anneal, 6, 0)

/-- That fault strikes the lane's tile or its constraint engine. -/
def laneStrike (s : State) (key : Nat) (f : EngineClass × Nat × Nat) : State :=
  let tile := key / 16
  let lane := key % 16
  match f with
  | (.constraint, cause, index) => faultNow .constraint (tile / 2) cause index (lane + 16 * (tile % 2)) s
  | (c, cause, index) => faultNow c tile cause index lane s

/-! ### Decisions -/

/-- A folded pair's member whose turn it is, of tiles and of constraint engines (R422, R423). -/
def hasTurn (s : State) (tile : Nat) : Bool :=
  (!inFold s .anneal tile || (mapOf s .anneal tile).turn) && (!inFold s .constraint (tile / 2) || (mapOf s .constraint (tile / 2)).turn)

-- DEDUCED, safe: notes/assumptions/64.md.
/-- A lane that may make its next decision: its tile has its turn, and no lane of the tile waits (R72, R81, R142). -/
def mayDecide (s : State) (tile lane : Nat) : Bool :=
  let l := laneOf s (laneKey tile lane)
  l.running && !l.finished && !l.stopped && !l.waiting && !l.replaying && !l.gens.isEmpty && hasTurn s tile
  && (List.range 16).all (fun i => !(laneOf s (laneKey tile i)).waiting)

-- DESIGN CHOICE, unsafe: notes/assumptions/155.md.
/-- The state a decision offers: after an applied move, when no hard record is broken (R105, R106). -/
def decisionOffer (p : Prob) (l : Lane) (moved : Bool) : List Star :=
  if moved && oneLane p && hardBroken l.records == 0 then
    [{ energy := l.energy, bits := bitsNat l.x, firstSeen := l.decisions, hash := l.hash }]
  else []

/-- What follows a committed decision: the end of the epoch (R142), the offer, and at the end of the schedule the checks of R77 and R129
(R90). -/
def afterDecision (s : State) (key : Nat) (p : Prob) (l : Lane) (moved : Bool) : State :=
  let ends := !p.epochs && scheduleDone p l
  let l := { l with stopped := p.epochs && decide (p.epochLen ≤ l.epochDec) }
  let s := replayDone (setLane s key l) key
  let s := updateProb s l.queue l.problem (fun p => { p with offers := p.offers ++ decisionOffer p l moved })
  if !ends then checkAnneal s l.queue
  else match laneFault p l with
    | some f => laneStrike s key f
    | none =>
      let s := setLane s key { laneOf s key with finished := true }
      checkAnneal (updateProb s l.queue l.problem (fun p => { p with finished := true })) l.queue

/-- Lanes of the tile that shares this one's constraint engine which wait for a delivery. -/
def rivals (s : State) (tile : Nat) : List Nat :=
  let o := if tile % 2 = 0 then tile + 1 else tile - 1
  ((List.range 16).map (laneKey o)).filter (fun k => (laneOf s k).waiting)

/-- A touching move is passed to the engine (R79); it and the moves of the other tile that wait there contend for its first beat (R131). -/
def passMove (s : State) (tile lane : Nat) (m : Move) : State :=
  let rs := rivals s tile
  let s := rs.foldl (fun s k => setLane s k { laneOf s k with contended := true }) s
  setLane s (laneKey tile lane) { laneOf s (laneKey tile lane) with waiting := true, moved := Move.vars m, contended := !rs.isEmpty }

-- DESIGN CHOICE, unsafe: notes/assumptions/63.md.
/-- A decision (R74 to R76); `corrected` words of the tile's memories that it reads are corrected on the way (R83, R412). -/
def decisionOn (tile lane corrected : Nat) (s : State) : State :=
  let key := laneKey tile lane
  let l := laneOf s key
  if !mayDecide s tile lane then s
  else match probOf s l.queue l.problem, paceStep s (engineKey .anneal tile) with
    | none, _ => s
    | some _, (false, s) => s
    | some p, (true, s) =>
      let s := countCEs s (256 + tile) corrected
      match (decide' p l).2.2 with
      | some m => if touches l m then passMove s tile lane m else afterDecision s key p (commit p l) true
      | none => afterDecision s key p (commit p l) false

def execDecision (tile : Nat) (turn : LaneTurn) (s : State) : Result := onLane tile turn.lane s (decisionOn tile turn.lane turn.corrected)

/-- A lane after its wait of w beats. -/
def waited (l : Lane) (w : Nat) : Lane :=
  { l with waiting := false, moved := [], contended := false, waits := l.waits + 1, waitBeats := l.waitBeats + w, waitMax := max l.waitMax w }

/-- The delivery ends the wait; the decision's effects become visible here (R78, R79).  Of two tiles that pass moves in one beat the odd
one is served second (R131). -/
def maskDeliveryOn (tile lane : Nat) (second corrected : Bool) (s : State) : State :=
  let key := laneKey tile lane
  let l := laneOf s key
  if !(l.running && l.waiting) then s
  else match probOf s l.queue l.problem with
    | none => s
    | some p =>
      match (decide' p l).2.2 with
      | none => s
      | some m =>
        let w := waitBeats l m (second && l.contended && tile % 2 == 1) corrected
        afterDecision (if corrected then countCE s (768 + tile / 2) else s) key p (commit p (waited l w)) true

def execMaskDelivery (tile lane : Nat) (second corrected : Bool) (s : State) : Result := onLane tile lane s (maskDeliveryOn tile lane second corrected)

end Sys2Proof.Machine
end

