-- ==== Sys2Proof/Machine/EpochClose.lean ====
section
/-! DEFINITION. What an epoch close computes (R143 to R146, R153, R154) on the lanes that a member holds: the changed set, the fold, the
cross term, the exact energies, the offers of R105, replica exchange (R101) and the switch of rotation sets. -/

namespace Sys2Proof.Machine

/-! ### The changed set (R143) -/

def insertDelta (e : Nat × Int) : List (Nat × Int) → List (Nat × Int)
  | [] => [e]
  | a :: r => if e.1 < a.1 then e :: a :: r else a :: insertDelta e r

/-- The changed variables of replica r on this member's lanes, ascending. -/
def ownDelta (s : State) (p : Prob) (r : Nat) : List (Nat × Int) :=
  (((p.lanes.map (laneOf s)).filter (fun l => replicaOf p l == r)).flatMap (laneDelta p)).foldr insertDelta []

/-- State bits after changes. -/
def applyDelta (b : Nat) (d : List (Nat × Int)) : Nat :=
  d.foldl (fun b e => if b.testBit e.1 = decide (0 < e.2) then b else if 0 < e.2 then b + 2 ^ e.1 else b - 2 ^ e.1) b

/-! ### The fold and the energies (R144, R145, R177) -/

/-- Σ J_kj Δ_j of one copy over the changed j outside k's own tile, 64 entries a block. -/
abbrev Fold := List (Nat × List Int)

/-- The ranges of copy r that tiles of this member take over the sets: its resident variables and its share of the field vector (R157). -/
def shareRanges (p : Prob) (position r : Nat) : List Range :=
  p.sets.flatMap (fun rs => (rs.zipIdx.filter (fun e => e.2 / p.tiles == r && tilePos p e.2 == position)).map (·.1))

def shareBlocks (p : Prob) (position r : Nat) : List Nat := (List.range (p.np / 64)).filter (fun q => covers (shareRanges p position r) (64 * q))

/-- Blocks of the tile that changed variable j of copy r, when that tile lies on this member: its registers hold its own part. -/
def ownBlocks (p : Prob) (position r j : Nat) : List Nat :=
  match (Prob.ranges p).zipIdx.find? (fun e => e.2 / p.tiles == r && decide (e.1.start ≤ j) && decide (j < e.1.start + e.1.count)) with
  | some (g, t) => if tilePos p t = position then (List.range (g.count / 64)).map (· + g.start / 64) else []
  | none => []

/-- Adds what a row says of the blocks of a fold. -/
def addBlocks (f : Fold) (sgn : Int) (row : List (Nat × List (Int × Nat))) : Fold :=
  f.map (fun e => match row.find? (fun b => b.1 == e.1) with
    | some b => (e.1, addColumn e.2 sgn b.2)
    | none => e)

/-- The fold of copy r over the changes d, in their order; a row is read but for the blocks of its variable's own tile (R157). -/
def foldCopy (fn position : Nat) (p : Prob) (r : Nat) (d : List (Nat × Int)) : Act Fold := do
  let blocks := shareBlocks p position r
  d.foldlM (fun f e => do
    let own := ownBlocks p position r e.1
    let row ← liftRead (ctxMark p) (fun s => imagePart s (Prob.imageAt fn p) (Prob.held p).hd e.1 (blocks.filter (fun q => !own.contains q)))
    pure (addBlocks f e.2 row)) (blocks.map (fun q => (q, List.replicate 64 0)))

/-- The folds of every copy. -/
def foldAll (fn position : Nat) (p : Prob) (d : List (List (Nat × Int))) : Act (List Fold) :=
  d.zipIdx.mapM (fun e => foldCopy fn position p e.2 e.1)

/-- F_k of the variables of a lane. -/
def laneFold (p : Prob) (fs : List Fold) (l : Lane) : List Int :=
  (((fs.getD (replicaOf p l) []).filter (fun e => decide (l.start ≤ 64 * e.1) && decide (64 * e.1 < l.start + l.np))).flatMap (·.2))

/-- Σ Δ_i F_i over the changed variables of a lane: twice its part of the cross term. -/
def laneCross (p : Prob) (l : Lane) (f : List Int) : Int := ((laneDelta p l).map (fun e => e.2 * f.getD (e.1 - l.start) 0)).sum

/-- This member's lanes of copy r. -/
def copyLanes (s : State) (p : Prob) (r : Nat) : List Lane := (p.lanes.map (laneOf s)).filter (fun l => replicaOf p l == r)

/-- CROSS_PART and REG_PART of this member's lanes of copy r (R228). -/
def crossPart (s : State) (p : Prob) (r : Nat) (fs : List Fold) : Int := ((copyLanes s p r).map (fun l => laneCross p l (laneFold p fs l))).sum

def regPart (s : State) (p : Prob) (r : Nat) : Int := ((copyLanes s p r).map (fun l => l.energy - p.ePrev.getD r 0)).sum

/-- Replaces the entries of a list from lo on. -/
def splice (f : List Int) (lo : Nat) (g : List Int) : List Int := f.take lo ++ g ++ f.drop (lo + g.length)

/-- The field vector of copy r after the close (R144): every entry gains its fold; the resident ones are the tiles' registers, folded. -/
def foldedFields (s : State) (p : Prob) (r : Nat) (fs : List Fold) : List Int :=
  let f := (fs.getD r []).foldl (fun f e => splice f (64 * e.1) (List.zipWith (fun a b => a + b) (slice f (64 * e.1) 64) e.2)) (p.fields.getD r [])
  (copyLanes s p r).foldl (fun f l => splice f l.start (List.zipWith (fun a b => a + b) l.field (laneFold p fs l))) f

/-- The exact energy of a whole state (R51, R106): the reference to which R145 comes. -/
def exactEnergy (fn : Nat) (p : Prob) (c : CSet) (b : Nat) : Act Int := do
  let x := natBits p.np b
  let h := (Prob.held p).h
  let ones := (List.range p.np).filterMap (fun v => if bitAt x v then some (v, (1 : Int)) else none)
  let f ← foldRows (ctxMark p) fn p (Prob.held p).hd 0 p.np ones h
  pure (p.cQ + quadEnergy h f x + (wholePenalty c p.eMax x).1)

/-! ### Replica exchange (R101, R102) -/

/-- One pair of ladder positions. -/
def exchangePair (p : Prob) (base : Nat) (at' : Nat) : Prob :=
  let a := p.position.getD at' 0
  let b := p.position.getD (at' + 1) 0
  let g := advance p.exGen
  let ta := laddered p base at'
  let tb := laddered p base (at' + 1)
  let p := { p with exGen := g }
  if 65536 * ((tb : Int) - ta) * (p.ePrev.getD b 0 - p.ePrev.getD a 0) ≤ noiseL (noiseOf g) * ta * tb then
    { p with position := (p.position.set at' b).set (at' + 1) a }
  else p

/-- An exchange round, when the close's count calls for one. -/
def exchangeRound (p : Prob) (base : Nat) : Prob :=
  if p.exchangeEvery = 0 ∨ p.replicas ≤ 1 ∨ p.epochCount % p.exchangeEvery ≠ 0 then p
  else
    let ps := (List.range (p.replicas - 1)).filter (fun i => i % 2 == p.rounds % 2)
    let p := ps.foldl (fun p i => exchangePair p base i) p
    { p with rounds := p.rounds + 1 }

/-! ### The end of a close (Table 6-2, steps 7 to 11) -/

/-- A lane after the close: fields folded, energy register exact, sums recomputed (R129), ready for the next epoch. -/
def closeLane (l : Lane) (f : List Int) (e : Int) : Lane :=
  let l := { l with field := List.zipWith (fun a b => a + b) l.field f, energy := e, records := resum l.x l.records
                    epochDec := 0, replays := 0, stopped := false, waiting := false }
  { l with penalty := penaltySum l.records }

/-- Schedule temperature of the k-th decision over segments; past their end the last decision's is held (R90 to R92). -/
def baseAt (k : Nat) : List Segment → Nat
  | [] => 0
  | g :: r =>
    if k < g.length ∨ r.isEmpty then
      let d := min k (g.length - 1)
      segTemp g d (if g.kind = 1 then (List.range d).foldl (fun x _ => txNext g x) (txStart g) else 0)
    else baseAt (k - g.length) r

-- DESIGN CHOICE, unsafe: notes/assumptions/75.md.
/-- Offers of a close (R105, R106): whole states that break no hard record, at the keeper. -/
def closeOffers (p : Prob) (c : CSet) (position : Nat) : List Star :=
  if oneLane p || position != 0 then []
  else (List.range p.replicas).filterMap (fun r =>
    let b := p.bits.getD r 0
    let x := natBits p.np b
    if (wholePenalty c p.eMax x).2 = 0 then
      some { energy := p.ePrev.getD r 0, bits := b, firstSeen := p.epochCount * p.epochLen, hash := hashFrom 0 x }
    else none)

/-- Every lane has run its schedule: all have made the same decisions (R142). -/
def epochsDone (p : Prob) : Bool := decide ((p.segments.map (·.length)).sum ≤ p.epochCount * p.epochLen)

-- DESIGN CHOICE, unsafe: notes/assumptions/73.md.
/-- Loads a lane with its range of the present set (R154): coefficients, records, and groups as they stand; the fields and the state of the
first copy come from its buffer (R153). -/
def switchLane (fn : Nat) (p : Prob) (c : CSet) (frozen : List Bool) (key : Nat) : Act Unit := do
  let s ← ExceptT.lift get
  let l := laneOf s key
  let r := replicaOf p l
  let rg := (Prob.ranges p).getD l.t { start := 0, count := 0 }
  let st ← liftRead (ctxMark p) (fun s => loadStore s (Prob.imageAt fn p) (Prob.held p).hd rg.start rg.count)
  let fb ← if r = 0 then readAct 0 fn p.fieldSpan (8 * rg.start) (8 * rg.count) else pure []
  let xb ← if r = 0 then readAct 0 fn p.fieldSpan (8 * p.np + rg.start / 8) (rg.count / 8) else pure []
  let field := if r = 0 then (chunks 8 fb rg.count).map (signed 64) else slice (p.fields.getD r []) rg.start rg.count
  let x := if r = 0 then natBits rg.count (ofLE xb) else slice (natBits p.np (p.bits.getD r 0)) rg.start rg.count
  let l := laneProblem { l with frozen := slice frozen rg.start rg.count } c p.eMax rg x st (slice (Prob.held p).h rg.start rg.count) field
  ExceptT.lift (modify (fun s => setLane s key { l with save := saveOf l }))

/-- The set switch, when the visit has ended and the schedule has not. -/
def switchSet (fn : Nat) (p : Prob) (c : CSet) : Act Prob :=
  if !p.rotates || p.finished || decide (p.visit < p.sweep) then pure p
  else do
    let p := { p with setNow := (p.setNow + 1) % max 1 p.sets.length, visit := 0 }
    ExceptT.lift (modify (writeStates fn p))
    let frozen ← frozenBits fn p
    for key in p.lanes do
      switchLane fn p c frozen key
    pure p

-- DESIGN CHOICE, safe: notes/assumptions/74.md.
/-- What a close adds to the registers of the tensor tiles: its beats, and its GEMV_SPX and REDUCE descriptors with their
multiplications (R184), shared among the tiles as the device chooses. -/
def closeBeats (s : State) : State :=
  (List.range 24).foldl (fun s t => [0x48, 0x50, 0x70].foldl (fun s a => let (v, s) := drawFree s; add64 s (reg (512 + t) a) v.toNat) s) s

/-- The close with the changes d, folds and exact energies e of each copy: lanes, checkpoint, offers (those of R105 where none are given),
exchange and set switch (Table 6-2, steps 7 to 11). -/
def closeProb (fn position : Nat) (p : Prob) (c : CSet) (d : List (List (Nat × Int))) (fs : List Fold) (e : List Int)
    (offers : Option (List Star)) : Act Prob := do
  let s ← ExceptT.lift get
  -- every lane has made the same decisions
  let base := baseAt ((p.epochCount + 1) * p.epochLen - 1) p.segments
  let p := { p with bits := List.zipWith applyDelta p.bits d, ePrev := e, epochCount := p.epochCount + 1, visit := p.visit + 1
                    fields := if p.rotates then (List.range p.replicas).map (fun r => foldedFields s p r fs) else p.fields
                    folded := p.folded || probFolded s p }
  let p := { p with finished := epochsDone p }
  ExceptT.lift (modify (fun s => p.lanes.foldl (fun s k =>
    let l := laneOf s k
    let l := { closeLane l (laneFold p fs l) (e.getD (replicaOf p l) 0) with finished := p.finished }
    setLane s k { l with save := saveOf l }) (closeBeats s)))
  ExceptT.lift (modify (writeFields fn p))
  let s ← ExceptT.lift get
  let (p, s) := keepStars fn s p (offers.getD (closeOffers p c position))
  ExceptT.lift (set s)
  switchSet fn (exchangeRound { p with starsSave := p.offers.foldl (offerTo p.cap) p.stars } base) c

/-- Every local lane has ended the epoch (R142). -/
def lanesStopped (s : State) (p : Prob) : Bool := p.lanes.all (fun k => let l := laneOf s k; l.running && l.stopped && !l.replaying)

/-- The first fault that the checks of R129 and R145 find among this member's lanes, and its lane. -/
def closeFault (s : State) (p : Prob) : Option (Nat × EngineClass × Nat × Nat) :=
  p.lanes.findSome? (fun k => (laneFault p (laneOf s k)).map (fun f => (k, f)))

/-- The close of a single device (R144, R145). -/
def closeAlone (fn : Nat) (r : Run) (p : Prob) : Act Run := do
  let c ← probSet fn p
  let s ← ExceptT.lift get
  let d := (List.range p.replicas).map (ownDelta s p)
  let fs ← foldAll fn 0 p d
  let e := (List.range p.replicas).map (fun i => p.ePrev.getD i 0 + regPart s p i + crossPart s p i fs / 2)
  let p ← closeProb fn 0 p c d fs e none
  pure (Run.setProb r p)

end Sys2Proof.Machine
end

