-- ==== Sys2Proof/Machine/Groups.lean ====
section
/-! DEFINITION. Run groups (chapter 10): the join exchange (R236, R239), exchange frames and their counters (R226, R227, R230), counted
barriers (R229 to R232), one close across the group (R228, R234), deadlines and loose exchange (R237, R238), and how a run of a group ends
(R240, R241); with them the command EPOCH_CLOSE (R147). -/

namespace Sys2Proof.Machine

-- PRESUMED, unsafe: notes/assumptions/178.md.
/-- AER: Unsupported Request. -/
def aerUnsupported : Nat := 20

/-! ### The run that holds a frame -/

/-- Queue, run and group of the run that holds frame f (R223). -/
def frameRun (s : State) (f : Nat) : Option (Nat × Run × GroupRun) :=
  s.runs.findSome? (fun e => match e.2.group with
    | some g => if g.frame = f then some (e.1, e.2, g) else none
    | none => none)

/-- Replaces the group part of a queue's run. -/
def setGroup (s : State) (q : Nat) (g : GroupRun) : State :=
  match runOf s q with
  | some r => setRun s q { r with group := some g }
  | none => s

def GroupRun.setMember (g : GroupRun) (p : Nat) (f : Member → Member) : GroupRun :=
  { g with members := g.members.zipIdx.map (fun e => if e.2 = p then f e.1 else e.1) }

/-- A RUN of queue q has started and its group is g. -/
def groupOn (s : State) (f : Nat) (k : Nat → Run → GroupRun → State) : State :=
  match frameRun s f with
  | some (q, r, g) => k q r g
  | none => s

/-! ### Writing a phase to the peers (R227, R229, R233) -/

/-- A phase to every peer; it stays at hand for a RESEND, and the member is ready from now on. -/
def sendPhase (s : State) (q : Nat) (g : GroupRun) (x : SentPhase) : State :=
  let s := (GroupRun.peers g).foldl (fun s e => sendTo s g x e.2) s
  setGroup s q { g with sent := x :: g.sent.filter (fun y => !(y.phase == x.phase && y.bank == x.bank))
                        members := g.members.map (fun m => { m with since := s.us }) }

/-! ### Frame writes (R226, R230) -/

/-- The phase area that n bytes at slot offset o of a bank lie in; 4 is the barrier target. -/
def areaOf (bank o n : Nat) : Option Nat :=
  let within := fun (lo len : Nat) => decide (lo ≤ o) && decide (o + n ≤ lo + len)
  if within 0 32 || within offList (3 * 2 ^ 20) then some phDelta
  else if within offEnergy 32 then some phEnergy
  else if within offControl 4096 && bank == 0 then some phJoin
  else if within offBarrier 32 then some 4
  else none

def countKey (frame slot bank phase : Nat) : Nat := ((frame * 64 + slot) * 2 + bank) * 4 + phase
def areaCount (s : State) (k : Nat) : Nat := tget (fun _ => 0) s.winCount k
def setCount (s : State) (k n : Nat) : State := { s with winCount := tset (fun _ => 0) s.winCount k n }

/-- Address of a frame byte in the window memory. -/
def winAddr (frame off : Nat) : Nat := 2 ^ 29 * frame + off
def winRead (s : State) (frame slot bank o n : Nat) : List Byte := readCells s.winMem (winAddr frame (2 ^ 28 * bank + 2 ^ 22 * slot + o)) n

def discardWrite (s : State) (requester : U16) (frame off : Nat) : State :=
  reportAer (logEvent s (blockId 0x70 0 0) 0x302 noFn (toLE 2 requester.toNat ++ toLE 1 frame ++ toLE 4 off)) 0 aerUnsupported false

/-- A JOIN record goes to the slot of its sender's POSITION: another member's slot, or this one's own, is a position claimed twice
(R236). -/
def claimSlot (s : State) (q : Nat) (g : GroupRun) (slot : Nat) (requester : U16) : State :=
  if slot ≠ g.position ∧ (g.members[slot]?).any (fun m => m.requester == requester) = true then s
  else setGroup s q { g with claimed := if g.claimed.contains slot then g.claimed else g.claimed ++ [slot] }

def frameWriteOn (requester : U16) (frame off : Nat) (b : List Byte) (s : State) : State :=
  let slot := off / 2 ^ 22 % 64
  let bank := off / 2 ^ 28
  match frameRun s frame, areaOf bank (off % 2 ^ 22) b.length with
  | some (q, _, g), some area =>
    if off < 2 ^ 29 ∧ (GroupRun.peers g).any (fun e => e.2.requester == requester) = true then
      let s := { s with winMem := writeCells s.winMem (winAddr frame off) b }
      if area = 4 then (if b.length = 32 then setGroup s q { g with barriers := g.barriers ++ [(slot, bank, b)] } else s)
      else
        let k := countKey frame slot bank area
        setCount (if area = phJoin then claimSlot s q g slot requester else s) k (areaCount s k + b.length)
    else discardWrite s requester frame off
  | _, _ => discardWrite s requester frame off

def execFrameWrite (requester : U16) (frame offset : Nat) (bytes : List Byte) (s : State) : Result :=
  onIndex frame 4 s (frameWriteOn requester frame offset bytes)

/-! ### Counted barriers (R230, R231) -/

/-- n bytes of a phase's area. -/
def areaBytes (s : State) (frame slot bank phase n : Nat) : List Byte :=
  if phase = phDelta then (winRead s frame slot bank 0 32 ++ winRead s frame slot bank offList (n - 32)).take n
  else if phase = phEnergy then winRead s frame slot bank offEnergy n
  else if phase = phJoin then winRead s frame slot bank offControl n
  else []

-- DESIGN CHOICE, safe: notes/assumptions/79.md.
/-- A barrier in hand that names itself right. -/
def isBarrier (g : GroupRun) (sender phase bank : Nat) (e : Nat × Nat × List Byte) : Bool :=
  let b := e.2.2
  e.1 == sender && e.2.1 == bank && leAt b 0 2 == 0x4252 && leAt b 2 1 == phase && leAt b 3 1 == sender && leAt b 0x18 8 == g.tag.toNat

/-- STATUS REPLAY of an ENERGY record (Table 10-3). -/
def isReplay (b : List Byte) : Bool := leAt b 24 1 == 1

/-- What an honoured barrier says; the bytes it counted are kept until a close uses them, and a REPLAY puts the close in recovery
(R237). -/
def honour (g : GroupRun) (sender phase epoch : Nat) (data : List Byte) : GroupRun :=
  let e : U64 := BitVec.ofNat 64 epoch
  let g := { g with recovery := g.recovery || (phase == phEnergy && isReplay data) }
  GroupRun.setMember g sender (fun m =>
    if phase = phJoin then { m with joined := true, joinRecord := data }
    else if phase = phDelta then { m with deltas := m.deltas ++ [(e, data)] }
    else if phase = phEnergy then { m with energies := m.energies ++ [(e, data)] }
    else { m with ended := true })

def GroupRun.isLoose (g : GroupRun) (e : U64) : Bool := g.looseFrom.any (fun o => decide (o ≤ e))

-- DEDUCED, safe: notes/assumptions/81.md.
/-- Epochs of a member whose barriers of a bank have been honoured, and for which it has no credit yet (R232): DELTA and ENERGY, of a loose
close DELTA alone. -/
def creditDue (g : GroupRun) (m : Member) : List U64 :=
  ((m.deltas.map (·.1)).dedup).filter (fun e => !m.given.contains e && (GroupRun.isLoose g e || m.energies.any (fun x => x.1 == e)))

/-- CREDIT words for what is due to a member. -/
def giveCredit (s : State) (q sender : Nat) : State :=
  match (runOf s q).bind (·.group) with
  | none => s
  | some g =>
    match g.members[sender]? with
    | none => s
    | some m =>
      let es := creditDue g m
      let s := es.foldl (fun s e => sendWord s (controlAddr m g.position) (.credit e)) s
      setGroup s q (GroupRun.setMember g sender (fun m => { m with given := m.given ++ es }))

/-- The receiver asks a member for a phase again, and is ready for it from now on (R231, R237). -/
def askAgain (s : State) (q : Nat) (g : GroupRun) (sender phase : Nat) (epoch : U64) : State :=
  let s := logEvent s (blockId 0x70 0 0) 0x303 noFn (toLE 1 sender ++ toLE 8 epoch.toNat ++ toLE 1 phase)
  let s := match g.members[sender]? with
    | some m => sendWord s (controlAddr m g.position) (.resend epoch phase)
    | none => s
  setGroup s q { GroupRun.setMember g sender (fun m => { m with since := s.us }) with recovery := true }

-- DESIGN CHOICE, unsafe: notes/assumptions/80.md.
def countedBarrierOn (frame sender phase bank : Nat) (s : State) : State :=
  groupOn s frame (fun q _ g =>
    match g.barriers.find? (isBarrier g sender phase bank) with
    | none => s
    | some e =>
      let b := e.2.2
      let n := leAt b 4 4
      let k := countKey frame sender bank phase
      let got := if phase = phEnd then n else areaCount s k
      let data := areaBytes s frame sender bank phase n
      let g := { g with barriers := g.barriers.erase e }
      if sender = g.position ∨ g.size ≤ sender ∨ phEnd < phase then s
      else if got < n then s
      else if got = n ∧ (phase = phEnd ∨ sumWords data = leAt b 0x10 8) then
        giveCredit (setGroup (setCount s k 0) q (honour g sender phase (leAt b 8 8) data)) q sender
      else askAgain (setCount s k 0) q g sender phase (BitVec.ofNat 64 (leAt b 8 8)))

def execCountedBarrier (frame sender phase bank : Nat) (s : State) : Result := onIndex frame 4 s (countedBarrierOn frame sender phase bank)

/-- A RESEND word: the phase is written again to the member that asks (R231). -/
def resendOn (frame sender phase : Nat) (epoch : U64) (s : State) : State :=
  groupOn s frame (fun q _ g =>
    match g.sent.find? (fun x => x.phase == phase && x.epoch == epoch), g.members[sender]? with
    | some x, some m =>
      if sender = g.position then s
      else setGroup (sendTo s g x m) q { GroupRun.setMember g sender (fun m => { m with since := s.us }) with recovery := true }
    | _, _ => s)

def execResend (frame sender phase : Nat) (epoch : U64) (s : State) : Result := onIndex frame 4 s (resendOn frame sender phase epoch)

/-- A CREDIT word (R232). -/
def creditOn (frame sender : Nat) (epoch : U64) (s : State) : State :=
  groupOn s frame (fun q _ g =>
    if sender = g.position then s else setGroup s q (GroupRun.setMember g sender (fun m => { m with credit := if m.credit.contains epoch then m.credit else m.credit ++ [epoch] })))

def execCredit (frame sender : Nat) (epoch : U64) (s : State) : Result := onIndex frame 4 s (creditOn frame sender epoch)

/-! ### The join exchange (R224, R236, R239) -/

-- DESIGN CHOICE, safe: notes/assumptions/15.md.
/-- What this member's JOIN record says. -/
def joinInfo (s : State) (r : Run) (g : GroupRun) : Config.JoinInfo :=
  { tag := g.tag, digest := ((planOf s r.slot).map (·.digest)).getD 0, size := g.size, position := g.position, seedMode := r.seedMode
    proposal := g.proposal, seed := if r.seedMode = 1 ∧ g.position = 0 then r.seed.getD 0 else 0 }

/-- Reason of R236 for which a record disagrees with this member's own. -/
def joinBad (own : Config.JoinInfo) (slot : Nat) (x : Config.JoinInfo) : Option Nat :=
  if x.tag ≠ own.tag then some 1
  else if x.digest ≠ own.digest then some 2
  else if x.size ≠ own.size then some 3
  else if x.position ≠ slot then some 4
  else if x.seedMode ≠ own.seedMode then some 5
  else none

/-- Every record is in hand: the checks, the seed and the largest proposal, or BAD_COMMAND. -/
def joinEnd (s : State) (q : Nat) (r : Run) (g : GroupRun) : State :=
  let own := joinInfo s r g
  let rs := (GroupRun.peers g).map (fun e => (e.1, Config.joinRead e.2.joinRecord))
  match rs.findSome? (fun e => (joinBad own e.1 e.2).map (fun k => k * 256 + e.1)) with
  | some d => failRun s q 0 (outcome stBadCommand d 0)
  | none =>
    let seed := if r.seedMode = 1 ∧ g.position ≠ 0 then ((rs.find? (fun e => e.1 == 0)).map (·.2.seed)) else r.seed
    let proposal := (rs.map (·.2.proposal)).foldl max g.proposal
    setRun s q { r with seed, group := some { g with joinDone := true, proposal, recovery := false } }

/-- JOIN: the record and its barrier are written, once position 0 has its seed; then the peers' records are checked. -/
def joinOn (q : Nat) : State → State :=
  onStarted q (isOp opRun) (fun _ _ s =>
    match runOf s q with
    | none => s
    | some r =>
      match r.group with
      | none => s
      | some g =>
        if g.joinDone then s
        else if !g.joinSent then
          if g.position = 0 ∧ r.seed.isNone then s
          else
            let b := Config.joinBytes (joinInfo s r g)
            sendPhase s q { g with joinSent := true } { phase := phJoin, bank := 0, epoch := 0, parts := [(offControl, padTo b (alignUp b.length 8))] }
        else match (sortNats g.claimed).head? with
          | some p => failRun s q 0 (outcome stBadCommand (4 * 256 + p) 0)
          | none => if (GroupRun.peers g).all (fun e => e.2.joined) then joinEnd s q r g else s)

def execJoin (q : Nat) (s : State) : Result := onQueue q s (joinOn q)

/-! ### Loose exchange (R217, R238) -/

/-- Tiles of a problem lie on more than one device. -/
def Prob.spread (p : Prob) : Bool := (Prob.ranges p).any (fun a => (Prob.ranges p).any (fun b => a.pos != b.pos))

/-- Every close from epoch e on is loose. -/
def fallLoose (s : State) (q : Nat) (e : U64) : State :=
  match runOf s q with
  | none => s
  | some r =>
    match r.group with
    | none => s
    | some g =>
      let e := match g.looseFrom with
        | some o => if o ≤ e then o else e
        | none => e
      let s := setRun s q { r with loose := true, group := some { g with looseFrom := some e }
                                   problems := r.problems.map (fun p => { p with loose := p.loose || Prob.spread p }) }
      (GroupRun.peers g).foldl (fun s m => giveCredit s q m.1) s

def looseOn (frame sender : Nat) (epoch : U64) (s : State) : State :=
  groupOn s frame (fun q _ g => if sender < g.size ∧ sender ≠ g.position then fallLoose s q epoch else s)

def execLoose (frame sender : Nat) (epoch : U64) (s : State) : Result := onIndex frame 4 s (looseOn frame sender epoch)

/-- A barrier of a phase that this member waits for from position `late`, and the epoch of its close. -/
def awaits (r : Run) (g : GroupRun) (late phase : Nat) : Option U64 :=
  match g.members[late]? with
  | none => none
  | some m =>
    let e := g.closes + 1
    if late = g.position then none
    else if phase = phJoin then (if g.joinSent && !m.joined then some 0 else none)
    else if phase = phDelta then (if g.deltaSent = e && !m.deltas.any (fun x => x.1 == e) then some e else none)
    else if phase = phEnergy then (if g.energySent = e && !m.energies.any (fun x => x.1 == e) then some e else none)
    else if phase = phEnd then (if g.position ≠ 0 ∧ late = 0 ∧ r.stages.length ≤ r.done ∧ m.ended = false then some e else none)
    else none

/-- The case of Table 10-6 under which the deadline of member `late` has run out: 0 start-up, 1 test, 2 recovery. -/
def missCase (s : State) (g : GroupRun) (late phase : Nat) : Option Nat :=
  let since := ((g.members[late]?).map (·.since)).getD 0
  if phase = phJoin ∧ expired s g.joinDeadline since = true then some 0
  else if g.test = true ∧ expired s g.joinDeadline since = true then some 1
  else if phase ≠ phJoin ∧ g.recovery = true ∧ expired s g.recoveryDeadline since = true then some 2
  else none

def barrierDeadlineMissOn (frame late phase : Nat) (s : State) : State :=
  groupOn s frame (fun q r g =>
    match awaits r g late phase, missCase s g late phase with
    | some e, some c =>
      if GroupRun.isLoose g e then s
      else
        let s := logEvent s (blockId 0x70 0 0) 0x304 noFn (toLE 1 late ++ toLE 8 e.toNat ++ [Config.logCode (2 + c)])
        fallLoose (tellPeers s g (.loose e)) q e
    | _, _ => s)

def execBarrierDeadlineMiss (frame late phase : Nat) (s : State) : Result := onIndex frame 4 s (barrierDeadlineMissOn frame late phase)

/-! ### One close across the group (R228, R234) -/

-- DESIGN CHOICE, unsafe: notes/assumptions/78.md.
/-- The problem of exchange e, counted from 1: the problems that run epochs take turns, in ascending index, each until its last close. -/
def closeAt (ps : List Prob) (e : Nat) : Option Nat :=
  let ns := (ps.filter (·.epochs)).map (fun p => (p.index, closesOf p))
  let upTo := fun k => (ns.map (fun n => min n.2 k)).sum
  match (List.range ((ns.map (·.2)).foldl max 0)).find? (fun k => decide (e ≤ upTo (k + 1))) with
  | none => none
  | some k => ((ns.filter (fun n => decide (k < n.2)))[e - upTo k - 1]?).map (·.1)

/-- Every peer has given credit for epoch e (R232). -/
def credited (g : GroupRun) (e : U64) : Bool := decide (e ≤ 2) || (GroupRun.peers g).all (fun m => m.2.credit.contains (e - 2))

/-- Changes of the local lanes over all copies: variable i of replica r is entry r N_P + i. -/
def ownList (s : State) (p : Prob) : List (Nat × Int) :=
  (List.range p.replicas).flatMap (fun r => (ownDelta s p r).map (fun e => (r * p.np + e.1, e.2)))

-- DESIGN CHOICE, unsafe: notes/assumptions/77.md.
/-- The DELTA phase of this member. -/
def deltaPhase (s : State) (p : Prob) (e : U64) : SentPhase :=
  let d := ownList s p
  let hash := (p.lanes.map (fun k => (laneOf s k).hash)).foldl (· + ·) 0
  { phase := phDelta, bank := e.toNat % 2, epoch := e
    parts := [(0, toLE 8 e.toNat ++ toLE 4 d.length ++ toLE 4 0 ++ toLE 8 hash.toNat ++ toLE 8 0),
              (offList, d.flatMap (fun x => toLE 4 x.1 ++ toLE 1 (unsigned 8 x.2) ++ toLE 3 0))] }

def energyPhase (e : U64) (reg cross : Int) (status : Nat) : SentPhase :=
  { phase := phEnergy, bank := e.toNat % 2, epoch := e
    parts := [(offEnergy, toLE 8 e.toNat ++ toLE 8 (unsigned 64 reg) ++ toLE 8 (unsigned 64 cross) ++ toLE 1 status ++ toLE 7 0)] }

/-- The DELTA phase that a member's close of epoch e uses: the oldest one honoured, in a loose run the newest. -/
def deltaOf (g : GroupRun) (m : Member) (e : U64) : List Byte :=
  let xs := (m.deltas.filter (fun x => x.1 == e)).map (·.2)
  if GroupRun.isLoose g e then xs.getLastD [] else xs.headD []

/-- Its change list. -/
def memberList (g : GroupRun) (m : Member) (e : U64) : List (Nat × Int) :=
  let b := deltaOf g m e
  (List.range (leAt b 8 4)).map (fun i => (leAt b (32 + 8 * i) 4, signed 8 (leAt b (36 + 8 * i) 1)))

/-- A change list that fails its descriptor (R176). -/
def listBad (p : Prob) (l : List (Nat × Int)) : Bool :=
  l.any (fun e => decide (p.replicas * p.np ≤ e.1)) || decide ((l.map (·.1)).dedup.length < l.length)

/-- The part of a list that concerns replica r. -/
def listOfReplica (p : Prob) (r : Nat) (l : List (Nat × Int)) : List (Nat × Int) :=
  (l.filter (fun e => e.1 / p.np == r)).map (fun e => (e.1 % p.np, e.2))

/-- A member's ENERGY record of epoch e, and its REG_PART and CROSS_PART. -/
def energyOf (m : Member) (e : U64) : List Byte := ((m.energies.find? (fun x => x.1 == e)).map (·.2)).getD []
def memberParts (m : Member) (e : U64) : Int × Int := (signed 64 (leAt (energyOf m e) 8 8), signed 64 (leAt (energyOf m e) 16 8))

/-- Takes the oldest entry of epoch e out of a list of honoured phases. -/
def dropFirst (e : U64) : List (U64 × List Byte) → List (U64 × List Byte)
  | [] => []
  | x :: r => if x.1 = e then r else x :: dropFirst e r

/-- The changes of every replica: this member's and those of the lists given. -/
def allChanges (s : State) (p : Prob) (ls : List (List (Nat × Int))) : List (List (Nat × Int)) :=
  (List.range p.replicas).map (fun r => (if p.finished then [] else ownDelta s p r) ++ ls.flatMap (listOfReplica p r))

-- DESIGN CHOICE, unsafe: notes/assumptions/85.md.
/-- A bad change list is a fault of the tensor tile that read it (R176, R418). -/
def badListFault (s : State) : State :=
  let (v, s) := drawFree s
  let t := v.toNat % 24
  strike (logFault (recordFault s .tensor t 3 0 0 true) .tensor t 3 0 0 0) .tensor t 3

/-- The offers of a member's one-lane copies go to the keeper as a close ends. -/
def sendOffers (g : GroupRun) (p : Prob) : Act Prob :=
  if g.position = 0 ∨ oneLane p = false ∨ p.lanes.isEmpty = true then pure p
  else ExceptT.lift (modifyGet (fun s => sendBatch s g p))

-- DEDUCED, unsafe: notes/assumptions/82.md.
/-- The end of a close at a member: its group is ready for the next exchange. -/
def closed (r : Run) (g : GroupRun) (e : U64) : Run :=
  { r with group := some { g with closes := e, recovery := false, replaySent := false } }

/-- Step 3 of R234: the check of this member's tiles, and its ENERGY record. -/
def sendEnergy (q fn : Nat) (p : Prob) (e : U64) (ls : List (List (Nat × Int))) (s : State) : State :=
  let s := match (if lanesStopped s p then closeFault s p else none) with
    | some (k, f) => laneStrike s k f
    | none => s
  match (runOf s q).bind (·.group) with
  | none => s
  | some g =>
    let ok := lanesStopped s p
    let a : Act (Int × Int) := do
      let d := allChanges s p ls
      let fs ← foldAll fn g.position p d
      let s ← ExceptT.lift get
      pure (((List.range p.replicas).map (regPart s p)).sum, ((List.range p.replicas).map (fun i => crossPart s p i fs)).sum)
    match a.run s with
    | (.error (n, o), s) => failRun s q n o
    | (.ok (rp, cp), s) =>
      sendPhase s q { g with energySent := e, replaySent := !ok, recovery := g.recovery || !ok } (energyPhase e rp cp (if ok then 0 else 1))

/-- Step 5 of R234: the fold is discarded; the faulting members write their DELTA phase again, every member its ENERGY phase.  What a
member has already sent again is kept. -/
def discardClose (s : State) (q : Nat) (g : GroupRun) (e : U64) : State :=
  let ms := g.members.map (fun m =>
    { m with energies := dropFirst e m.energies, deltas := if isReplay (energyOf m e) then dropFirst e m.deltas else m.deltas, since := s.us })
  setGroup s q { g with members := ms, recovery := true, replaySent := false, energySent := e - 1, deltaSent := if g.replaySent then e - 1 else e }

/-- Step 4 of R234; the offers of this member's one-lane copies go to the keeper in the same exchange (R113). -/
def closeStrict (fn : Nat) (r : Run) (g : GroupRun) (p : Prob) (e : U64) (ls : List (List (Nat × Int))) : Act Run := do
  let c ← probSet fn p
  let s ← ExceptT.lift get
  let d := allChanges s p ls
  let fs ← foldAll fn g.position p d
  let parts := (GroupRun.peers g).map (fun m => memberParts m.2 e)
  let es ← if p.replicas = 1 then
      pure [p.ePrev.headD 0 + regPart s p 0 + (parts.map (·.1)).sum + (crossPart s p 0 fs + (parts.map (·.2)).sum) / 2]
    else (List.zipWith applyDelta p.bits d).mapM (exactEnergy fn p c)
  let p ← closeProb fn g.position p c d fs es none
  let p ← sendOffers g p
  let g := { g with members := g.members.map (fun m => { m with energies := dropFirst e m.energies, deltas := dropFirst e m.deltas, foldedTo := e }) }
  pure (closed (Run.setProb r p) g e)

/-- Epochs of a member that a loose close of problem i folds: those it has honoured, in ascending order without a gap, n at most. -/
def foldable (ps : List Prob) (i : Nat) (m : Member) : Nat → U64 → List U64
  | 0, _ => []
  | n + 1, e => if m.deltas.any (fun x => x.1 == e) && closeAt ps e.toNat == some i then e :: foldable ps i m n (e + 1) else []

/-- What a loose close folds: position, member and epochs. -/
def looseFolds (r : Run) (g : GroupRun) (p : Prob) : List (Nat × Member × List U64) :=
  (GroupRun.peers g).map (fun m => (m.1, m.2, foldable (Run.inStage r 2) p.index m.2 m.2.deltas.length (m.2.foldedTo + 1)))

/-- A member's view of one copy: energy without the penalty of remote records, state bits, and the fold into its own variables. -/
structure View where
  energy : Int
  bits : Nat
  fold : Fold

/-- Folds remote changes into a view, one by one: the whole coupling row of each is read (R238). -/
def foldRemote (fn : Nat) (p : Prob) : List (Nat × Int) → View → Act View
  | [], v => pure v
  | (i, sgn) :: r, v => do
    let row ← liftRead (ctxMark p) (fun s => imagePart s (Prob.imageAt fn p) (Prob.held p).hd i (List.range (p.np / 64)))
    let f := (row.flatMap (·.2)).zipIdx.foldl (fun f e => if v.bits.testBit e.2 then f + unitsOf e.1 else f) ((Prob.held p).h.getD i 0)
    foldRemote fn p r { energy := v.energy + sgn * f, bits := applyDelta v.bits [(i, sgn)], fold := addBlocks v.fold sgn row }

/-- Exact energy of a view that began with the records at the bits given (R51, R106). -/
def View.exact (v : View) (p : Prob) (c : CSet) (b : Nat) : Int :=
  v.energy + ((wholePenalty c p.eMax (natBits p.np v.bits)).1 - (wholePenalty c p.eMax (natBits p.np b)).1)

/-- All tiles of a problem of several lanes lie on one member, not this one: the keeper offers each of its epochs (R217). -/
def liesWhole (p : Prob) (position : Nat) : Bool :=
  !oneLane p && !Prob.spread p && Prob.remote p position

/-- Closes of problem i among the exchanges up to e. -/
def closesUpTo (ps : List Prob) (i e : Nat) : Nat := ((List.range e).filter (fun k => closeAt ps (k + 1) == some i)).length

/-- The views of all copies after the epochs of one member, and what the keeper offers of a problem that lies wholly there. -/
def foldMember (fn : Nat) (r : Run) (g : GroupRun) (p : Prob) (c : CSet) (bs : List Nat) (m : Member) : List U64 → List View × List Star → Act (List View × List Star)
  | [], a => pure a
  | e :: es, (vs, os) => do
    let l := memberList g m e
    let vs ← vs.zipIdx.mapM (fun v => foldRemote fn p (listOfReplica p v.2 l) v.1)
    let n := closesUpTo (Run.inStage r 2) p.index e.toNat * p.epochLen
    let os' := (vs.zip bs).filterMap (fun v =>
      let x := natBits p.np v.1.bits
      if (wholePenalty c p.eMax x).2 = 0 then some { energy := View.exact v.1 p c v.2, bits := v.1.bits, firstSeen := n, hash := hashFrom 0 x : Star } else none)
    foldMember fn r g p c bs m es (vs, os ++ os')

/-- A loose close (R238): this member's view with the remote changes it folds now, and its exact energy.  After the problem's last
close only the view changes. -/
def closeLoose (fn : Nat) (r : Run) (g : GroupRun) (p : Prob) (e : U64) (fd : List (Nat × Member × List U64)) : Act Run := do
  let c ← probSet fn p
  let s ← ExceptT.lift get
  let d := allChanges s p []
  let fs ← foldAll fn g.position p d
  let bs := List.zipWith applyDelta p.bits d
  let start : List View := (bs.zip fs).zipIdx.map (fun v =>
    { energy := p.ePrev.getD v.2 0 + (if p.finished then 0 else regPart s p v.2 + crossPart s p v.2 fs / 2), bits := v.1.1, fold := v.1.2 })
  let (vs, os) ← fd.foldlM (fun a m => foldMember fn r g p c bs m.2.1 m.2.2 a) (start, ([] : List Star))
  let es := (vs.zip bs).map (fun v => View.exact v.1 p c v.2)
  let d := allChanges s p (fd.flatMap (fun m => m.2.2.map (memberList g m.2.1)))
  let g := { g with members := g.members.zipIdx.map (fun m =>
    let xs := ((fd.find? (fun y => y.1 == m.2)).map (·.2.2)).getD []
    { m.1 with deltas := m.1.deltas.filter (fun x => !xs.contains x.1), foldedTo := xs.getLastD m.1.foldedTo }) }
  let offers := if liesWhole p g.position then some (if g.position = 0 then os else []) else none
  if p.finished then
    let p := { p with bits := List.zipWith applyDelta p.bits d, ePrev := es }
    let s ← ExceptT.lift get
    let (p, s) := keepStars fn s p (offers.getD (closeOffers p c g.position))
    ExceptT.lift (set s)
    pure (Run.setProb { r with group := some g } p)
  else do
    let p ← closeProb fn g.position p c d (vs.map (·.fold)) es offers
    let p ← sendOffers g p
    pure (closed (Run.setProb r p) g e)

/-- Ends a close: the run goes on, or fails. -/
def endClose (q : Nat) (a : Act Run) (s : State) : State :=
  match a.run s with
  | (.error (n, o), s) => failRun s q n o
  | (.ok r, s) => checkAnneal (setRun s q r) q

/-- Ends a close once the checks of R129 and R145 find nothing; a fault strikes instead. -/
def closeChecked (q : Nat) (p : Prob) (a : Act Run) (s : State) : State :=
  match (if p.finished then none else closeFault s p) with
  | some (k, f) => laneStrike s k f
  | none => endClose q a s

/-- A loose close, or a late fold at position 0. -/
def looseClose (q fn : Nat) (r : Run) (g : GroupRun) (p : Prob) (s : State) : State :=
  let e := g.closes + 1
  let fd := looseFolds r g p
  let late := p.finished
  if late && (g.position != 0 || fd.all (fun m => m.2.2.isEmpty)) then s
  else if !late && !(lanesStopped s p && credited g e && closeAt (Run.inStage r 2) e.toNat == some p.index) then s
  else if (fd.any (fun m => m.2.2.any (fun x => listBad p (memberList g m.2.1 x)))) then badListFault s
  else
    let s := if late || decide (e ≤ g.deltaSent) then s else sendPhase s q { g with deltaSent := e } (deltaPhase s p e)
    match runOf s q with
    | some r => match r.group with
      | some g => closeChecked q p (closeLoose fn r g p e fd) s
      | none => s
    | none => s

-- DESIGN CHOICE, unsafe: notes/assumptions/168.md.
/-- The keeper builds a member's part of the offered state from its change list and checks it against HASH_PART (R234). -/
def hashBad (p : Prob) (g : GroupRun) (m : Nat × Member) (e : U64) : Bool :=
  let l := memberList g m.2 e
  let parts := (Prob.ranges p).zipIdx.map (fun t =>
    let b := applyDelta (p.bits.getD (t.2 / p.tiles) 0) (listOfReplica p (t.2 / p.tiles) l)
    if tilePos p t.2 = m.1 then hashFrom t.1.start (slice (natBits p.np b) t.1.start t.1.count) else 0)
  g.position == 0 && parts.foldl (· + ·) 0 != BitVec.ofNat 64 (leAt (deltaOf g m.2 e) 16 8)

/-- A strict close, phase by phase. -/
def strictClose (q fn : Nat) (r : Run) (g : GroupRun) (p : Prob) (s : State) : State :=
  let e := g.closes + 1
  if p.finished || closeAt (Run.inStage r 2) e.toNat != some p.index then s
  else if g.deltaSent < e then
    if lanesStopped s p && credited g e then sendPhase s q { g with deltaSent := e } (deltaPhase s p e) else s
  else if !(GroupRun.peers g).all (fun m => m.2.deltas.any (fun x => x.1 == e)) then s
  else
    let ls := (GroupRun.peers g).map (fun m => memberList g m.2 e)
    if ls.any (listBad p) then badListFault s
    else match (GroupRun.peers g).find? (fun m => hashBad p g m e) with
    | some (m, _) => askAgain s q (GroupRun.setMember g m (fun x => { x with deltas := dropFirst e x.deltas })) m phDelta e
    | none =>
      if g.energySent < e then sendEnergy q fn p e ls s
      else if !(GroupRun.peers g).all (fun m => m.2.energies.any (fun x => x.1 == e)) then s
      else if g.replaySent || (GroupRun.peers g).any (fun m => isReplay (energyOf m.2 e)) then discardClose s q g e
      else if lanesStopped s p && (g.position != 0 || (copyHolders p 0).all (fun m => decide (p.epochCount < batchesOf p m))) then
        endClose q (closeStrict fn r g p e ls) s
      else s

/-- EPOCH_CLOSE of a problem (R147): at once on a single device, and as far as its peers allow in a group. -/
def epochCloseOn (q i : Nat) : State → State :=
  stageOn q 2 (fun fn r s =>
    match (Run.inStage r 2).find? (fun p => p.index == i) with
    | none => s
    | some p =>
      if !(r.entered && p.epochs) then s
      else match r.group with
        | none => if !p.finished && lanesStopped s p then closeChecked q p (closeAlone fn r p) s else s
        | some g => if GroupRun.isLoose g (g.closes + 1) then looseClose q fn r g p s else strictClose q fn r g p s)

def execEpochClose (q problem : Nat) (s : State) : Result := onQueue q s (epochCloseOn q problem)

/-! ### The end of a group's run (R240, R241) -/

/-- Position 0's END barrier has been honoured: a member that has ended ANNEAL completes with the status it carries. -/
def endRunOn (frame : Nat) (status : Byte) (s : State) : State :=
  groupOn s frame (fun q r g =>
    if g.position = 0 ∨ r.done < r.stages.length ∨ (g.members.headD { frameAddr := 0, requester := 0 }).ended = false then s
    else if 0x10 ≤ status.toNat then s
    else
      let (v, s) := drawFree s
      let detail := if status.toNat = stLoose then (g.looseFrom.getD 0).toNat % 2 ^ 32 else if status.toNat = stTruncated then v.toNat % 2 ^ 32 else 0
      completeRun s q r (outcome status.toNat detail (Run.decisions r)))

def execEndRun (frame : Nat) (status : Byte) (s : State) : Result := onIndex frame 4 s (endRunOn frame status)

/-- An ABORT word: the run ends with the failing member's status (R241). -/
def abortOn (frame sender : Nat) (status : Byte) (s : State) : State :=
  groupOn s frame (fun q _ g =>
    if sender < g.size ∧ sender ≠ g.position ∧ 0x10 ≤ status.toNat then
      let o := outcome status.toNat (2 ^ 31 + sender) 0
      finish (endRun s q status.toNat (errorEnd o 0) false) q o
    else s)

def execAbort (frame sender : Nat) (status : Byte) (s : State) : Result := onIndex frame 4 s (abortOn frame sender status)

end Sys2Proof.Machine
end

