-- ==== Sys2Proof/Machine/Random.lean ====
section
/-! DEFINITION. The physical random source (chapter 16): health tests and conditioning (R380, R381), restarts and the fatal alarm (R389,
R390), delivery to consumers by rank (R384, R385), fresh seeds (R386), the holding buffers (R387) and RANDOM_FILL (R388). -/

namespace Sys2Proof.Machine

/-! ### The RN_ page -/

def rnStatus : Nat := 3100 * 4096 + 0x40

/-- RN_STATUS.SOURCE: 0 STARTING, 1 RUNNING, 2 RESTARTING, 3 FAILED. -/
def rnSource (s : State) : Nat := fld s rnStatus 0 2
def setSource (s : State) (v : Nat) : State := setFld s rnStatus 0 2 v

/-- RN_STATUS.POOL shows the pool. -/
def setPool (s : State) (p : List (BitVec 512)) : State :=
  setFld { s with rng := { s.rng with pool := p } } rnStatus 3 4 p.length

def rngBlock : Nat := 2 ^ 24 * 0x41

/-! ### Health tests and conditioning -/

/-- One raw sample through both tests: the tests' new state, and the test it fails, if any. -/
def sampleTest (r : Rng) (b : Bool) : Rng × Option Bool :=
  let run := if r.rctRun ≠ 0 ∧ b = r.rctLast then r.rctRun + 1 else 1
  let first := if r.aptSeen = 0 then b else r.aptFirst
  let cnt := if r.aptSeen = 0 then 1 else r.aptCount + (if b = r.aptFirst then 1 else 0)
  let t := { r with rctLast := b, rctRun := run, aptFirst := first, aptCount := cnt, aptSeen := (r.aptSeen + 1) % 1024, samples := r.samples + 1 }
  (t, if 61 ≤ run then some false else if 811 ≤ cnt then some true else none)

/-- R381: one sample enters the shift register. -/
def absorb (s : BitVec 256) (r : Bool) : BitVec 256 :=
  let fb := xor (xor (xor (xor (s.getLsbD 255) (s.getLsbD 9)) (s.getLsbD 4)) (s.getLsbD 1)) r
  (s <<< 1) ||| (if fb then 1 else 0)

/-- Samples of a block from number i on, n of them: the failing test, or the source with all of them absorbed. -/
def takeSamples (raw : BitVec 2048) (i : Nat) : Nat → Rng → Except (Bool × Rng) Rng
  | 0, r => .ok r
  | n + 1, r =>
    let b := raw.getLsbD i
    match sampleTest r b with
    | (t, some apt) => .error (apt, t)
    | (t, none) => takeSamples raw (i + 1) n { t with s := absorb t.s b }

-- DEDUCED, safe: notes/assumptions/88.md.
/-- A block from 2,048 samples: two halves of the register. -/
def makeBlock (raw : BitVec 2048) (r : Rng) : Except (Bool × Rng) (BitVec 512 × Rng) :=
  match takeSamples raw 0 1024 r with
  | .error e => .error e
  | .ok r1 =>
    match takeSamples raw 1024 1024 r1 with
    | .error e => .error e
    | .ok r2 => .ok (r2.s ++ r1.s, r2)

/-- The 64-byte image of a block. -/
def blockBytes (b : BitVec 512) : List Byte := toLE 64 b.toNat

/-! ### Consumers (R384, R385) -/

/-- RN_HOLD.STATE: 0 EMPTY, 1 PENDING, 2 FULL, 3 UNAVAILABLE. -/
def holdOf (s : State) (fn : Nat) : Nat := tget (fun _ => 0) s.rng.holdState fn
def setHold (s : State) (fn v : Nat) (b : BitVec 512) : State :=
  { s with rng := { s.rng with holdState := tset (fun _ => 0) s.rng.holdState fn v, holdBlock := tset (fun _ => 0) s.rng.holdBlock fn b } }

def addWaiter (s : State) (w : Waiter) : State :=
  if s.rng.waiters.contains w then s else { s with rng := { s.rng with waiters := s.rng.waiters ++ [w] } }
def dropWaiter (s : State) (w : Waiter) : State := { s with rng := { s.rng with waiters := s.rng.waiters.erase w } }

/-- The run of a queue takes its seed (R386). -/
def giveSeed (s : State) (q : Nat) (b : BitVec 512) : State :=
  match runOf s q with
  | some r => setRun s q { r with seed := some (b.setWidth 64) }
  | none => s

-- DEDUCED, safe: notes/assumptions/89.md.
/-- RANDOM_FILL takes a block for its next 64 bytes, and asks again or completes (R388). -/
def giveFill (s : State) (q : Nat) (b : BitVec 512) (w : Waiter) : State :=
  match activeCmd (queueOf s q) with
  | some (_, c) =>
    if Cmd.opcode c = opRandomFill then
      let dst := Cmd.span c 0x20
      let n := Cmd.fld c 0x28 8
      let s := writeSpan s (queueFn s q) dst (Cmd.fld c 0x30 8 + c.progress) (blockBytes b)
      let s := updateCmd s q (fun c => { c with progress := c.progress + 64 })
      if n ≤ c.progress + 64 then finishTo s q (okWith n) (destOf dst) else addWaiter s w
    else s
  | none => s

-- DESIGN CHOICE, unsafe: notes/assumptions/90.md.
/-- A block goes to a consumer (R384): counted in RN_BLOCKS. -/
def giveBlock (s : State) (w : Waiter) (b : BitVec 512) : State :=
  let s := add64 (dropWaiter s w) (reg 3100 0x58) 1
  if w.rank = 1 then { s with enclave := { s.enclave with drbgSeed := some b, drbgCount := 0 } }
  else if w.rank = 2 then giveSeed s w.who b
  else if w.queue then giveFill s w.who b w
  else setHold s w.who 2 b

/-- The consumer that the pool serves next: rank 1, then 2, then 3 while more than 2 blocks are kept. -/
def nextWaiter (s : State) : Option Waiter :=
  match s.rng.waiters.find? (fun w => w.rank == 1), s.rng.waiters.find? (fun w => w.rank == 2) with
  | some w, _ => some w
  | none, some w => some w
  | none, none => if 2 < s.rng.pool.length then s.rng.waiters.find? (fun w => w.rank == 3) else none

/-- Serves consumers from the pool, n blocks at most. -/
def servePool (s : State) : Nat → State
  | 0 => s
  | n + 1 =>
    match s.rng.pool, nextWaiter s with
    | b :: p, some w => servePool (giveBlock (setPool s p) w b) n
    | _, _ => s

/-- A new request is served from the pool if it may be. -/
def request (s : State) (w : Waiter) : State := servePool (addWaiter s w) 8

/-! ### Failures (R389, R390) -/

-- DESIGN CHOICE, unsafe: notes/assumptions/132.md.
/-- SE_STATUS.STATE after the enclave leaves approved mode; SE_REASON.LEFT keeps why it was left first; ERROR is left by a start
only (R398). -/
def leaveApproved (s : State) (st why : Nat) : State :=
  if fld s (reg 3072 0x40) 0 3 = 3 then s
  else
    let s := setFld s (reg 3072 0x40) 0 3 st
    if fld s (reg 3072 0x44) 0 3 = 0 then setFld s (reg 3072 0x44) 0 3 why else s

def rngUnavailable : Outcome3 := outcome stRng 0 0

/-- RANDOM_FILL ends with RNG_UNAVAILABLE; the bytes it has not written are open. -/
def failFill (s : State) (q : Nat) : State :=
  match activeCmd (queueOf s q) with
  | some (_, c) =>
    if Cmd.opcode c = opRandomFill then
      let dst := Cmd.span c 0x20
      let lo := Cmd.fld c 0x30 8 + c.progress
      let s := unfix s { dst with addr := dst.addr + lo, len := Cmd.fld c 0x28 8 - c.progress }
      finish s q rngUnavailable
    else s
  | none => s

/-- What the alarm does to a waiting consumer. -/
def failWaiter (s : State) (w : Waiter) : State :=
  if w.rank = 2 then failRun s w.who 0 rngUnavailable
  else if w.rank = 3 ∧ w.queue = true then failFill s w.who
  else if w.rank = 3 then setHold s w.who 3 0
  else s

/-- The fatal alarm. -/
def rngFatal (s : State) : State :=
  let s := setFld (setSource s 3) rnStatus 2 1 1
  let a := reg 3100 0x60
  let s := setReg s 0 a (satAdd 16 (getReg s 0 a) 1)
  let s := setPool s []
  let s := setFld (leaveApproved s 2 2) (reg 3072 0x40) 4 1 1
  let ws := s.rng.waiters
  let s := { s with rng := { s.rng with waiters := [] } }
  let s := ws.foldl failWaiter s
  lastWord (logEvent s rngBlock 0x602 noFn (toLE 1 s.rng.failures.length)) 0x0100

/-- A sample has failed a test. -/
def rngFail (s : State) (apt : Bool) : State :=
  let s := setSource s 2
  let s := addSat s (reg 3100 (if apt then 0x54 else 0x50)) 1
  let n := s.rng.samples
  let fs := (s.rng.failures.filter (fun f => decide (n ≤ f + 2 ^ 20))) ++ [n]
  let s := { s with rng := { s.rng with failures := fs } }
  let s := logEvent s rngBlock 0x601 noFn (Config.logCode (if apt then 1 else 0) :: toLE 8 n)
  if 3 ≤ fs.length then rngFatal s else s

/-! ### Events of the source -/

/-- A completed block: to the enclave, to a fresh-seed run, or to the pool, which serves the host. -/
def placeBlock (s : State) (b : BitVec 512) : State :=
  match s.rng.waiters.find? (fun w => w.rank == 1), s.rng.waiters.find? (fun w => w.rank == 2) with
  | some w, _ => giveBlock s w b
  | none, some w => giveBlock s w b
  | none, none => servePool (if s.rng.pool.length < 8 then setPool s (s.rng.pool ++ [b]) else s) 8

def rngBlockCompleteOn (raw : BitVec 2048) (s : State) : State :=
  if rnSource s ≠ 1 then s
  else match makeBlock raw s.rng with
    | .error (apt, r) => rngFail { s with rng := r } apt
    | .ok (b, r) => placeBlock { s with rng := r } b

def execRngBlockComplete (raw : BitVec 2048) (s : State) : Result := always s (rngBlockCompleteOn raw)

/-- A sample of the block in progress fails, `n` samples after the last event. -/
def rngTestFailOn (apt : Bool) (n : Nat) (s : State) : State :=
  if rnSource s = 1 ∨ (rnSource s = 0 ∧ phaseOf s = 7) then rngFail { s with rng := { s.rng with samples := s.rng.samples + n } } apt else s

def execRngTestFail (apt : Bool) (samples : Nat) (s : State) : Result := always s (rngTestFailOn apt samples)

/-- After the stop: s = 0 and both tests afresh; in phase 7 the start-up count begins again (R382). -/
def rngRestartDoneOn (s : State) : State :=
  if rnSource s ≠ 2 then s
  else
    let s := { s with rng := { s.rng with s := 0, rctRun := 0, aptSeen := 0, aptCount := 0 } }
    setSource s (if phaseOf s = 7 then 0 else 1)

def execRngRestartDone (s : State) : Result := always s rngRestartDoneOn

/-! ### Consumers' commands -/

/-- A fresh-seed run that is next in its rank takes a block from the pool. -/
def seedDrawOn (q : Nat) (s : State) : State :=
  if s.rng.waiters.any (fun w => w.rank == 2 && w.who == q) then servePool s 8 else s

def execSeedDraw (q : Nat) (s : State) : Result := onQueue q s (seedDrawOn q)

def randomFillOn (q : Nat) : State → State :=
  onStarted q (isOp opRandomFill) (fun _ _ s =>
    if rnSource s = 3 then failFill s q else request s { rank := 3, queue := true, who := q })

def execRandomFill (q : Nat) (s : State) : Result := onQueue q s (randomFillOn q)

def fetchOn (fn : Nat) (s : State) : State :=
  if holdOf s fn ≠ 0 then s
  else if rnSource s = 3 then setHold s fn 3 0
  else if rnSource s = 0 then s
  else request (setHold s fn 1 0) { rank := 3, queue := false, who := fn }

def execFetch (fn : Nat) (s : State) : Result := onBar0 fn s (fetchOn fn)

-- DESIGN CHOICE, safe: notes/assumptions/113.md.
/-- The answer of an access: 0 is Successful Completion. -/
def answer (s : State) (b : List Byte) : State := { s with port := { status := 0, data := b, poisoned := [] } }

/-- Word w of the holding buffer as a function reads it. -/
def holdWord (s : State) (fn w : Nat) : Nat :=
  if holdOf s fn = 2 then (tget (fun _ => 0) s.rng.holdBlock fn).toNat / 2 ^ (32 * w) % 2 ^ 32 else 0

def rnData15ReadOn (fn : Nat) (s : State) : State :=
  let v := holdWord s fn 15
  answer (if holdOf s fn = 2 then setHold s fn 0 0 else s) (toLE 4 v)

def execRnData15Read (fn : Nat) (s : State) : Result := onFn fn s (rnData15ReadOn fn)

end Sys2Proof.Machine
end

