-- ==== Sys2Proof/Machine/MemRows.lean ====
section
/-! DEFINITION. The commands on the two memories (chapter 12): reads, writes, scrubbing and row repair of device memory, error
injection, sealing, and the shared slices with their march test. -/

namespace Sys2Proof.Machine

/-! ### The memory-wide registers -/

/-- A memory-wide MC_ register: its one home is the first channel's page. -/
def mcWide (off : Nat) : Nat := reg 1024 off

/-! ### MEM_READ and MEM_WRITE -/

/-- MC_STATUS.STATE of a channel: 0 in service, 1 training, 2 self-refresh. -/
def channelState (s : State) (ch : Nat) : Nat := fld s (reg (channelPage ch) 0x40) 0 2

-- DESIGN CHOICE, unsafe: notes/assumptions/126.md.
/-- The controllers serve demand accesses: the memory is trained and initialised, and the core is awake. -/
def memoryUp (s : State) : Bool := awake s && channelState s 0 != 1 && (isReady s || phaseOf s == 7 || phaseOf s == 8)

/-- An upset strikes word w. -/
def upsetWord (s : State) (w : Nat) (u : Upset) : State := setErr s w (errOf s w ^^^ u)

/-- The answer of a read that met bad words. -/
def answerBad (s : State) (b : List Byte) (bad : List Nat) : State := { s with port := { status := 0, data := b, poisoned := bad } }

def memReadOn (a : Nat) (u : Upset) (s : State) : State :=
  if !memoryUp s then s
  else if a < capacity s then
    match readWord (upsetWord s (a / 32) u) (a / 32) with
    | (some d, s) => answer s d
    | (none, s) => answerBad s (List.replicate 32 0) [a / 32 * 32]
  else
    let w := a / 32 * 32
    let (b, bad, s) := readAbove (match sliceAt a with | some (n, o) => strikeSlice s n (.read o 32 u) | none => s) noFn w 32
    answerBad s b bad

def execMemRead (addr : Nat) (upset : Upset) (s : State) : Result := always s (memReadOn addr upset)

def memWriteOn (a : Nat) (b : List Byte) (s : State) : State := if memoryUp s then writeDev s noFn a b else s

def execMemWrite (addr : Nat) (bytes : List Byte) (s : State) : Result := always s (memWriteOn addr bytes)

/-! ### Scrubbing and row repair (R294 to R297) -/

/-- Words of 32 bytes in a channel. -/
def channelWords : Nat := 18 * GiB / 32

-- DESIGN CHOICE, unsafe: notes/assumptions/93.md.
/-- The scrubber moves to its next word; a new pass begins a new scrub period (R296). -/
def scrubNext (s : State) (ch : Nat) : State :=
  let p := tget (fun _ => 0) s.scrubPos ch + 1
  let n := if p < channelWords then p else 0
  let s := { s with scrubPos := tset (fun _ => 0) s.scrubPos ch n }
  let s := setFld s (reg (channelPage ch) 0x70) 0 27 (n / 8)
  if n = 0 then { s with rowErrors := s.rowErrors.filter (fun e => e.1 / 2 ^ 24 != physChannel s ch) } else s

def scrubOn (ch : Nat) (u : Upset) (s : State) : State :=
  if channels s ≤ ch ∨ memoryUp s = false ∨ channelState s ch ≠ 0 ∨ fld s (mcWide 0x10C) 8 1 = 0 then s
  else
    let w := unplace ch (tget (fun _ => 0) s.scrubPos ch * 32) (channels s) / 32
    scrubNext (visitWord (upsetWord s w u) w true).2 ch

def execScrub (channel : Nat) (upset : Upset) (s : State) : Result := onMemory channel 48 s (scrubOn channel upset)

/-- Row number of a row key within its channel: 4 KiB range and subchannel. -/
def rowNumber (k : Nat) : Nat := k % 2 ^ 24
def rowPhys (k : Nat) : Nat := k / 2 ^ 24

/-- A channel is marked for retirement (R297). -/
def markChannel (s : State) (ch why : Nat) : State :=
  let p := physChannel s ch
  if s.flash.retireMarks.contains p then s
  else
    let s := { s with flash := { s.flash with retireMarks := s.flash.retireMarks ++ [p] } }
    let s := degrade s (channelPage ch)
    logEvent s (channelBlock ch) 0x104 noFn (toLE 1 p ++ [Config.logCode (5 + why)])

/-- A row is recorded in flash for hard repair at the next start. -/
def recordRow (s : State) (ch k : Nat) : State :=
  let e := (rowPhys k, rowNumber k)
  if s.flash.hardRows.contains e then s
  else
    let s := { s with flash := { s.flash with hardRows := s.flash.hardRows ++ [e] } }
    let a := reg (channelPage ch) 0x54
    setFld s a 8 8 (satAdd 8 (fld s a 8 8) 1)

/-- The row is no longer one to repair, and its errors so far are settled. -/
def clearRow (s : State) (k : Nat) : State :=
  { s with faultyRows := s.faultyRows.filter (· != k), rowErrors := s.rowErrors.filter (fun e => e.1 != k) }

-- DESIGN CHOICE, safe: notes/assumptions/94.md.
def rowRepairOn (a : Nat) (way : RowFix) (s : State) : State :=
  let w := a / 32
  let ch := (wordPlace s w).1
  let k := rowKey s w
  if capacity s ≤ a ∨ memoryUp s = false ∨ s.faultyRows.contains k = false ∨ (s.repairs.any (fun e => e.1 == ch)) = true then s
  else match way with
    | .soft => recordRow { s with repairs := tput s.repairs ch k } ch k
    | .hardOnly => recordRow (clearRow s k) ch k
    | .noSpare => markChannel (clearRow s k) ch 1

def execRowRepair (addr : Nat) (way : RowFix) (s : State) : Result := always s (rowRepairOn addr way)

/-- The words of a row that hold errors are read and written back as the copy was. -/
def settleRow (s : State) (k : Nat) : State :=
  ((s.memErr.map (·.1)).filter (fun w => rowKey s w == k)).foldl (fun s w => (visitWord s w false).2) s

def rowRepairDoneOn (ch : Nat) (s : State) : State :=
  match s.repairs.find? (fun e => e.1 == ch) with
  | none => s
  | some e =>
    let k := e.2
    let s := clearRow (settleRow s k) k
    let s := { s with repairs := tdel s.repairs ch }
    let a := reg (channelPage ch) 0x54
    let s := setFld s a 0 8 (satAdd 8 (fld s a 0 8) 1)
    let s := logEvent s (channelBlock ch) 0x103 noFn (toLE 1 (rowPhys k) ++ toLE 4 (rowNumber k) ++ [Config.logCode 8])
    let n := tget (fun _ => 0) s.rowRepairs (rowPhys k) + 1
    let s := { s with rowRepairs := tset (fun _ => 0) s.rowRepairs (rowPhys k) n }
    if 64 < n then markChannel s ch 2 else s

def execRowRepairDone (channel : Nat) (s : State) : Result := onMemory channel 48 s (rowRepairDoneOn channel)

/-! ### MC_INJECT (R481) -/

def mcInjectWriteOn (fn ch : Nat) (v : U32) (s : State) : State :=
  if fn ≠ 0 ∨ channels s ≤ ch then s
  else if pageParked s (channelPage ch) then discard s
  else if 36 ≤ v.toNat % 64 then s
  else setReg s 0 (reg (channelPage ch) 0x11C) (v.toNat % 256)

def execMcInjectWrite (fn channel : Nat) (value : U32) (s : State) : Result :=
  if channel < 48 then onBar0 fn s (mcInjectWriteOn fn channel value) else .fault .noSuchMemory

/-! ### Sealing (R298, R299) -/

/-- Device addresses of a function's partition, from the first up to the second (R243). -/
def partition (s : State) (fn : Nat) : Nat × Nat :=
  let c := fnOf s fn
  if c.memBase = 0 ∧ c.memLimit = 0 then (0, 0) else (c.memBase.toNat, min (c.memLimit.toNat + 1) (firmwareArea s))

/-- Every word of a range becomes zero with valid code, under the tag that holds where nothing else is listed. -/
def clearRange (s : State) (lo hi : Nat) : State :=
  let keep := fun w => decide (w * 32 < lo) || decide (hi ≤ w * 32)
  { s with
    mem := s.mem.filter (fun e => decide (e.1 < lo) || decide (hi ≤ e.1))
    memMeta := s.memMeta.filter (fun e => keep e.1)
    memErr := s.memErr.filter (fun e => keep e.1)
    injected := s.injected.filter keep
    rewritten := s.rewritten.filter keep
    unfixedDev := cutOut s.unfixedDev lo hi }

/-- The same under one tag. -/
def zeroRange (s : State) (lo hi : Nat) (t : Tag) : State :=
  let s := clearRange s lo hi
  { s with ranges := { lo, hi, tag := t } :: s.ranges }

/-- What a rekey makes of a tag at an address: the new generation, or poison where the word cannot be read.  What was written
under another partition's key stays what that key alone reads. -/
def rekeyTag (s : State) (a : Nat) (new : Tag) (t : Tag) : Tag :=
  if poisonBit t.md then { new with md := new.md ||| 1 }
  else match sealKey s a (versionBits t.md) with
    | none => { new with md := new.md ||| 1 }
    | some k => if versionBits t.md = 0 ∨ k = t.key then new else { new with key := t.key }

-- DESIGN CHOICE, unsafe: notes/assumptions/97.md.
/-- A rekey of a range: the words with errors are read first; then every word stands under the new tag, poisoned words still
poisoned. -/
def rekeyRange (s : State) (lo hi : Nat) (new : Tag) : State :=
  let inside := fun w => decide (lo ≤ w * 32) && decide (w * 32 < hi)
  let s := ((s.memErr.map (·.1)).filter inside).foldl (fun s w => (visitWord s w false).2) s
  let old := (s.ranges.filter (fun r => decide (r.lo < hi) && decide (lo < r.hi))).map
    (fun r : TagRange => { lo := max lo r.lo, hi := min hi r.hi, tag := rekeyTag s lo new r.tag : TagRange })
  let listed := (s.memMeta.filter (fun e => inside e.1)).map (fun e => (e.1, rekeyTag s lo new (tagOf s e.1)))
  let s := { s with memMeta := s.memMeta.filter (fun e => !inside e.1), ranges := old ++ ({ lo, hi, tag := new } :: s.ranges) }
  listed.foldl (fun s e => setTag s e.1 e.2) s

/-- The function that MC_SEAL_SEL selects. -/
def sealSel (s : State) : Nat := fld s (mcWide 0x110) 0 4

-- DESIGN CHOICE, unsafe: notes/assumptions/125.md.
/-- One output of the enclave's DRBG, and the request for a block that reseeds it (R384). -/
def drawDrbg (s : State) : BitVec 256 × State :=
  let v := Config.drbg (s.enclave.drbgSeed.getD 0) s.enclave.drbgCount
  (v, request { s with enclave := { s.enclave with drbgCount := s.enclave.drbgCount + 1 } } { rank := 1, queue := false, who := 0 })

/-- The enclave makes a new sealing key and gives its number. -/
def newSealKey (s : State) : Nat × State :=
  let s := { s with keys := s.keys + 1 }
  (s.keys, (drawDrbg s).2)

/-- The rewrite of a partition as zero plaintext under VERSION 1 and new keys (R299, R375). -/
def sealAnew (s : State) (fn : Nat) : State :=
  let (k, s) := newSealKey s
  let v := { sealOf s fn with enabled := true, version := 1, previous := 0, key := k, prevKey := 0, rekeyBusy := false, zeroing := true }
  let p := partition s fn
  zeroRange (setSeal s fn v) p.1 p.2 { md := mkMeta false 1, key := k }

/-- The enclave can make keys: in APPROVED only (R399, R400, R405). -/
def approved (s : State) : Bool := fld s (reg 3072 0x40) 0 3 == 1

/-- A request for a sealing key that the fatal alarm refuses is logged (R399): 1 ENABLE, 2 REKEY. -/
def sealRefused (s : State) (fn req : Nat) : State :=
  if fld s (reg 3072 0x40) 4 1 = 1 then logEvent s rngBlock 0x603 fn (toLE 1 fn ++ toLE 1 req) else s

/-- MC_SEAL_CTRL.ENABLE written 1 for the selected function. -/
def sealEnable (s : State) : State :=
  let fn := sealSel s
  if (sealOf s fn).enabled ∨ fnQuiet s fn = false then s
  else if approved s then sealAnew s fn else sealRefused s fn 1

/-- MC_SEAL_CTRL.ENABLE written 0. -/
def sealDisable (s : State) : State :=
  let fn := sealSel s
  if (sealOf s fn).enabled = false ∨ fnQuiet s fn = false then s
  else
    let p := partition s fn
    zeroRange (setSeal s fn { zeroing := true }) p.1 p.2 {}

/-- Generations run 1, 2, 3, 1. -/
def nextVersion (v : Nat) : Nat := if v = 3 then 1 else v + 1

/-- MC_SEAL_CTRL.REKEY. -/
def sealRekey (s : State) : State :=
  let fn := sealSel s
  let v := sealOf s fn
  if v.enabled = false ∨ v.version = 0 ∨ v.rekeyBusy = true ∨ v.zeroing = true ∨ fnQuiet s fn = false then s
  else if approved s then
    let (k, s) := newSealKey s
    setSeal s fn { v with version := nextVersion v.version, previous := v.version, key := k, prevKey := v.key, rekeyBusy := true }
  else sealRefused s fn 2

-- DEDUCED, unsafe: notes/assumptions/96.md.
/-- Memory-wide registers act through the page of any channel, by the physical function alone (R310). -/
def mcSealOn (fn : Nat) (f : State → State) (s : State) : State := if fn = 0 then f s else s

def execMcSealEnable (fn : Nat) (s : State) : Result := onBar0 fn s (mcSealOn fn sealEnable)
def execMcSealDisable (fn : Nat) (s : State) : Result := onBar0 fn s (mcSealOn fn sealDisable)
def execRekey (fn : Nat) (s : State) : Result := onBar0 fn s (mcSealOn fn sealRekey)

/-- A rewrite ends: of a function's partition, or, for 16, of the firmware area, which is sealed before READY (R298). -/
def sealRewriteDoneOn (n : Nat) (s : State) : State :=
  if n = 16 then
    if phaseOf s = 8 ∧ s.areaSealed = false ∧ s.enclave.drbgSeed.isSome ∧ approved s = true then
      let s := clearRange s (firmwareArea s) (capacity s)
      setFld { s with areaSealed := true, areaKey := true } (reg 3072 0x40) 5 1 1
    else s
  else
    let v := sealOf s n
    if v.zeroing then setSeal s n { v with zeroing := false, byFlr := false }
    else if v.rekeyBusy then
      let p := partition s n
      let s := rekeyRange s p.1 p.2 { md := mkMeta false v.version, key := v.key }
      setSeal s n { v with rekeyBusy := false, previous := 0, prevKey := 0 }
    else s

def execSealRewriteDone (target : Nat) (s : State) : Result := onIndex target 17 s (sealRewriteDoneOn target)

/-- The enclave zeroises its sealing keys: what is sealed reads as uncorrectable from then on (R400, R405). -/
def zeroiseSealing (s : State) : State :=
  { s with
    areaKey := false
    seals := s.seals.map (fun e => (e.1, { e.2 with version := 0, previous := 0, key := 0, prevKey := 0, rekeyBusy := false })) }

/-! ### SLICE_ACCESS (R300 to R303) -/

/-- One handshake, and its answer. -/
def handshake (s : State) (n : Nat) (ports : List PortAccess) : State :=
  let (b, bad, s) := serve s n ports
  answerBad s b bad

/-- The slice is powered: the core is awake. -/
def sliceAccessOn (n : Nat) (a b : Option PortAccess) (s : State) : State :=
  if awake s && (a.isSome || b.isSome) then handshake s n (a.toList ++ b.toList) else s

def execSliceAccess (slice : Nat) (a b : Option PortAccess) (s : State) : Result := onMemory slice 128 s (sliceAccessOn slice a b)

/-! ### The march test -/

-- DESIGN CHOICE, safe: notes/assumptions/95.md.
def marchWindowOn (n : Nat) (s : State) : State :=
  let m := marchOf s n
  if awake s = false ∨ fld s (reg (slicePage n) 0x44) 0 1 = 0 ∨ m.testing = true ∨ (64 ≤ n ∧ fld s (reg 4 0x70) 0 2 ≠ 0) then s
  else
    let s := setMarch s n { m with testing := true, window := m.next }
    setReg s 0 (reg (slicePage n) 0x40) (1 + m.next * 4)

def execMarchWindow (slice : Nat) (s : State) : Result := onMemory slice 128 s (marchWindowOn slice)

def marchPreemptOn (n : Nat) (a : PortAccess) (s : State) : State :=
  let m := marchOf s n
  if m.testing && inWindow m (PortAccess.word a) then handshake s n [a] else s

/-- Port A or B: either way the access waits for the release and then proceeds. -/
def execMarchPreempt (slice : Nat) (access : PortAccess) (_portB : Bool) (s : State) : Result :=
  onMemory slice 128 s (marchPreemptOn slice access)

/-- A faulty word goes to a spare word of its bank, or stays in use (R307). -/
def mapSliceWord (s : State) (n w : Nat) : State :=
  let k := n * 16 + w % 16
  let used := tget (fun _ => 0) s.sliceSpares k
  let a := reg (slicePage n) 0x54
  let (v, s) := drawFree s
  let s := setSliceInfo s n w v.toNat false true
  if used < 16 then
    let s := { s with sliceSpares := tset (fun _ => 0) s.sliceSpares k (used + 1) }
    setFld s a 0 9 (fld s a 0 9 + 1)
  else logEvent (degrade (setFld s a 9 1 1) (slicePage n)) (sliceBlock n) 0x106 noFn (toLE 1 n ++ toLE 1 (w % 16))

/-- Words of the window that hold errors are restored from a copy that reads correct or corrected, else as read. -/
def restoreWindow (s : State) (n : Nat) (m : March) : State :=
  ((s.sliceErr.map (·.1)).filter (fun k => k / 65536 == n && inWindow m (k % 65536))).foldl
    (fun s k => (readSlice s n (k % 65536) true true).2) s

def marchWindowDoneOn (n : Nat) (faulty : List Nat) (s : State) : State :=
  let m := marchOf s n
  if m.testing = false then s
  else
    let s := restoreWindow s n m
    let s := (faulty.filter (· < 128)).foldl (fun s i => mapSliceWord s n (m.window * 128 + i)) s
    let next := (m.window + 1) % 512
    let s := setFld (setMarch s n { m with testing := false, next }) (reg (slicePage n) 0x40) 0 2 0
    if next = 0 then addCount s (reg (slicePage n) 0x5C) 1 else s

def execMarchWindowDone (slice : Nat) (faulty : List Nat) (s : State) : Result := onMemory slice 128 s (marchWindowDoneOn slice faulty)

end Sys2Proof.Machine
end

