-- ==== Sys2Proof/Machine/Keys.lean ====
section
/-! DEFINITION. The keys of the enclave and the ways it leaves APPROVED (R398 to R400, R405): what zeroising them does to the rest
of the device. -/

namespace Sys2Proof.Machine

/-- SE_STATUS and SE_REASON. -/
def seStatus : Nat := reg 3072 0x40
def seReason : Nat := reg 3072 0x44

/-- SE_SESSIONS.ACTIVE follows the open sessions. -/
def setSessions (s : State) (l : List Session) : State :=
  setFld { s with enclave := { s.enclave with sessions := l } } (reg 3072 0x54) 0 4 l.length

/-- A register of a function's SE_ view. -/
def seFn (s : State) (fn off : Nat) : Nat := getReg s fn (reg 3073 off)
def setSeFn (s : State) (fn off v : Nat) : State := setReg s fn (reg 3073 off) v

/-- SE_UPLOAD_STATUS.STATE, and SE_UNWRAP_STATUS.STATE, whose change sets the page's IRQ_STAT bit 0 (R410). -/
def uploadState (s : State) (fn : Nat) : Nat := bits (seFn s fn 0x54) 0 2
def setUploadState (s : State) (fn v : Nat) : State := setSeFn s fn 0x54 (putBits (seFn s fn 0x54) 0 2 v)
def unwrapState (s : State) (fn : Nat) : Nat := bits (seFn s fn 0x6C) 0 3
def setUnwrapState (s : State) (fn v : Nat) : State :=
  if unwrapState s fn = v then s else setEvent (setSeFn s fn 0x6C (putBits (seFn s fn 0x6C) 0 3 v)) fn 3073 1

/-- DISCARD: the key pair of a function is zeroised (R408). -/
def dropUpload (s : State) (fn : Nat) : State :=
  let s := setUpload s fn { uploadOf s fn with keySeed := none, encapsKey := [] }
  setUploadState s fn 0

-- PRESUMED, unsafe: notes/assumptions/178.md.
/-- AER: IDE Check Failed. -/
def aerIde : Nat := 28

/-- Every sealing, upload, session and IDE key, and the identity private key (R400).  The streams that had keys stop as at an integrity
failure, which AER reports (R353). -/
def zeroiseAll (s : State) : State :=
  let s := setSessions (zeroiseSealing s) []
  let s := if s.enclave.ideKeys.isEmpty then s else reportAer s 0 aerIde false
  let s := { s with enclave := { s.enclave with identity := none, ideKeys := [] } }
  (List.range 16).foldl (fun s fn => if (uploadOf s fn).keySeed.isSome then dropUpload s fn else s) s

/-- The enclave enters ERROR with a reason, and its keys go; what it was asked to make or unwrap ends (R400, R410). -/
def enterError (s : State) (why : Nat) : State :=
  if enclaveState s = 3 then s
  else zeroiseAll (leaveApproved s 3 why)

end Sys2Proof.Machine
end

