-- ==== Sys2Proof/Machine/Twilight.lean ====
section
/-! DEFINITION. The twilight domain (R328 to R334, R468): its registers, event flags, the wake and alert pins, the last-word file, and
the target on the management bus. -/

namespace Sys2Proof.Machine

/-! ### Flags and pins -/

/-- ALERT# is asserted (R333). -/
def alertPin (s : State) : Bool := decide (s.tw.event &&& s.tw.alertEn ≠ 0)

/-- WAKE# is asserted: some flag that asserted it still stands (R333). -/
def wakePin (s : State) : Bool := decide (s.tw.wakeBy ≠ 0)

/-- An enabled wake event of the flags m: WAKE# while main is absent or PERST# asserted, the WAKE event of page 3400 in D0, a PME
message in D3hot (R333, R359, R450). -/
def wakeEvent (s : State) (m : BitVec 8) : State :=
  if !s.board.mainOk || s.board.perst then { s with tw := { s.tw with wakeBy := s.tw.wakeBy ||| m } }
  else match s.board.power with
    | .d0 => setEvent s 0 3400 1
    | .d3hot => if s.pcie.pmeEn then sendMsg s .pme else s
    | .off => s

/-- Sets TW_EVENT bit b. -/
def setTwEvent (s : State) (b : Nat) : State :=
  let m : BitVec 8 := BitVec.ofNat 8 (2 ^ b)
  let s := { s with tw := { s.tw with event := s.tw.event ||| m } }
  if s.tw.wakeEn &&& m = 0 then s else wakeEvent s m

/-- Clears the TW_EVENT flags written 1; WAKE# falls with the flags that asserted it (R333). -/
def clearTwEvent (s : State) (m : BitVec 8) : State :=
  { s with tw := { s.tw with event := s.tw.event &&& ~~~ m, wakeBy := s.tw.wakeBy &&& ~~~ m } }

/-! ### Comparators (R330, R331, R471) -/

def compareValue (s : State) (n : Nat) : U64 := s.tw.cmp.getD n 0xFFFFFFFFFFFFFFFF

def timeComparatorMatchOn (n : Nat) (s : State) : State :=
  if s.board.auxOk = false ∨ s.tw.matched.getD n false = true ∨ s.tw.count.toNat < (compareValue s n).toNat
      ∨ compareValue s n = 0xFFFFFFFFFFFFFFFF then s
  else setTwEvent { s with tw := { s.tw with matched := s.tw.matched.set n true } } n

def execTimeComparatorMatch (n : Nat) (s : State) : Result := onIndex n 4 s (timeComparatorMatchOn n)

/-- Comparator n of Table 13-5 trips; its flag writes one last-word entry when it is set. -/
def analogComparatorOn (n : Nat) (s : State) : State :=
  if s.board.auxOk = false ∨ s.tw.level.getLsbD n = true then s
  else
    let fresh := !s.tw.event.getLsbD (4 + n)
    let s := { s with tw := { s.tw with level := s.tw.level ||| BitVec.ofNat 4 (2 ^ n) } }
    if fresh then lastWord (setTwEvent s (4 + n)) (n + 1) else s

def execAnalogComparator (n : Nat) (s : State) : Result := onIndex n 4 s (analogComparatorOn n)

def analogLevelClearOn (n : Nat) (s : State) : State :=
  if s.board.auxOk then { s with tw := { s.tw with level := s.tw.level &&& ~~~ BitVec.ofNat 4 (2 ^ n) } } else s

def execAnalogLevelClear (n : Nat) (s : State) : Result := onIndex n 4 s (analogLevelClearOn n)

/-! ### The last-word file and the interval timer -/

/-- TW_LW_CLEAR: every entry empty, and the next is entry 0 (R332). -/
def clearLastWords (s : State) : State := { s with tw := { s.tw with lw := List.replicate 8 0, lwNext := 0 } }

def execTwLwClear (fn : Nat) (s : State) : Result := onBar0 fn s (fun s => if fn = 0 then clearLastWords s else s)

-- DEDUCED, safe: notes/assumptions/108.md.
/-- R329: the model's interval timer counts true microseconds and its ticks come of them, so a trim finds it in step. -/
def timerTrimOn (s : State) : State := s

def execTimerTrim (s : State) : Result := always s timerTrimOn

/-! ### Registers of the TW_ page (Table 13-6) -/

/-- The word at an offset of the page from 0x40 up. -/
def twWord (s : State) (off : Nat) : Nat :=
  if off = 0x40 then s.tw.count.toNat % 2 ^ 32
  else if off = 0x44 then s.tw.count.toNat / 2 ^ 32
  else if off = 0x48 then (if s.tw.auxFresh then 1 else 0) + s.tw.level.toNat * 16
  else if off = 0x4C then s.tw.event.toNat
  else if off = 0x50 then s.tw.wakeEn.toNat
  else if off = 0x54 then s.tw.alertEn.toNat
  else if off = 0x58 then s.tw.therm.toNat
  else if 0x60 ≤ off ∧ off < 0x80 then
    let v := (compareValue s ((off - 0x60) / 8)).toNat
    if off % 8 = 0 then v % 2 ^ 32 else v / 2 ^ 32
  else if off = 0x80 then s.tw.lwSeq.toNat
  else if 0x88 ≤ off ∧ off < 0xC8 then
    let v := (s.tw.lw.getD ((off - 0x88) / 8) 0).toNat
    if (off - 0x88) % 8 = 0 then v % 2 ^ 32 else v / 2 ^ 32
  else 0

/-- A write to the page. -/
def twWrite (s : State) (off : Nat) (v : U32) : State :=
  if off = 0x48 then { s with tw := { s.tw with auxFresh := s.tw.auxFresh && !v.getLsbD 0 } }
  else if off = 0x4C then clearTwEvent s (v.setWidth 8)
  else if off = 0x50 then { s with tw := { s.tw with wakeEn := v.setWidth 8 } }
  else if off = 0x54 then { s with tw := { s.tw with alertEn := v.setWidth 8 } }
  else if off = 0x58 then { s with tw := { s.tw with therm := v.setWidth 8 } }
  else if 0x60 ≤ off ∧ off < 0x80 then
    let n := (off - 0x60) / 8
    let old := (compareValue s n).toNat
    let new := if off % 8 = 0 then 2 ^ 32 * (old / 2 ^ 32) + v.toNat else old % 2 ^ 32 + 2 ^ 32 * v.toNat
    { s with tw := { s.tw with cmp := s.tw.cmp.set n (BitVec.ofNat 64 new), matched := s.tw.matched.set n false } }
  else if off = 0x84 then (if v.getLsbD 0 then clearLastWords s else s)
  else s

/-! ### The twilight target (R468) -/

/-- The low words of the 64-bit pairs of this page. -/
def twPair (off : Nat) : Bool := off == 0x40 || (decide (0x60 ≤ off) && decide (off < 0x80) && off % 8 == 0) || (decide (0x88 ≤ off) && decide (off < 0xC8) && off % 8 == 0)

def captureKey (fn a : Nat) : Nat := 2 ^ 24 * fn + a

-- DEDUCED, safe: notes/assumptions/30.md.
/-- A read of the low word of a pair captures the high word for the reader (R86). -/
def captureHigh (s : State) (fn a high : Nat) : State :=
  { s with captures := tput s.captures (captureKey fn (a + 4)) (BitVec.ofNat 32 high) }

-- DESIGN CHOICE, safe: notes/assumptions/149.md.
/-- A read of the high word at a: what was captured, once, else the current word, which is not fixed while the value changes. -/
def takeHigh (s : State) (fn a now : Nat) (changing : Bool) : Nat × State :=
  match s.captures.find? (fun e => e.1 == captureKey fn a) with
  | some e => (e.2.toNat, { s with captures := tdel s.captures (captureKey fn a) })
  | none =>
    if changing then
      let (v, s) := drawFree s
      (v.toNat % 2 ^ 32, s)
    else (now, s)

/-- A read of the TW_ page by a reader: a function, or 16 for the management bus. -/
def twRead (s : State) (fn off : Nat) : Nat × State :=
  if twPair off then (twWord s off, captureHigh s fn (reg 3400 off) (twWord s (off + 4)))
  else if 4 ≤ off ∧ twPair (off - 4) = true then takeHigh s fn (reg 3400 off) (twWord s off) (off == 0x44)
  else (twWord s off, s)

/-- The status word of command code 0x01. -/
def twStatusWord (s : State) : Nat :=
  (if s.tw.svcLed then 1 else 0) + s.tw.causes * 2 + (if s.tw.thermtrip then 16 else 0)

def twilightTargetAccessOn (code : Nat) (write : Option U32) (s : State) : State :=
  if s.board.auxOk = false then s
  else match write with
    | some v => if 0x10 ≤ code ∧ code < 0x40 then twWrite s (4 * code) v else s
    | none =>
      if 0x10 ≤ code ∧ code < 0x40 then
        let (v, s) := twRead s 16 (4 * code)
        answer s (toLE 4 v)
      else answer s (toLE 4 (if code = 1 then twStatusWord s else 0))

def execTwilightTargetAccess (code : Nat) (write : Option U32) (s : State) : Result := always s (twilightTargetAccessOn code write)

end Sys2Proof.Machine
end

