-- ==== Sys2Proof/Machine/Power.lean ====
section
/-! DEFINITION. Performance points, the beat monitor, the power limiter, parking of the East half, and D3hot (R314 to R326). -/

namespace Sys2Proof.Machine

/-! ### Performance points (R314, R315) -/

/-- Bit position of a half's field in GL_PP_REQ, GL_PP_CEIL and GL_PP_STATUS. -/
def Half.lo : Half → Nat
  | .west => 0
  | .east => 4

/-- The lower of request and ceiling (R314). -/
def wantedPoint (s : State) (h : Half) : Nat := min (fld s (reg 4 0x40) (Half.lo h) 3) (fld s (reg 4 0x44) (Half.lo h) 3)

/-- The half is parked, so its request and ceiling take effect when it unparks. -/
def halfParked (s : State) (h : Half) : Bool := h == .east && eastDown s

def setRamp (s : State) (h : Half) (t : Option Nat) : State :=
  let s := match h with
    | .west => { s with limiter := { s.limiter with rampWest := t } }
    | .east => { s with limiter := { s.limiter with rampEast := t } }
  setFld s (reg 4 0x48) (Half.lo h + 3) 1 (if t.isSome then 1 else 0)

def rampOf (s : State) (h : Half) : Option Nat :=
  match h with
  | .west => s.limiter.rampWest
  | .east => s.limiter.rampEast

/-- A half's rail follows its effective point. -/
def retarget (s : State) (h : Half) : State :=
  if halfParked s h then s
  else if wantedPoint s h = (rampOf s h).getD (fld s (reg 4 0x48) (Half.lo h) 3) then s
  else setRamp s h (some (wantedPoint s h))

/-- A half's field of GL_PP_REQ or GL_PP_CEIL; a reserved code leaves it (R314). -/
def putPoint (s : State) (off : Nat) (h : Half) (v : Nat) : State :=
  if v ≤ 5 then setFld s (reg 4 off) (Half.lo h) 3 v else s

def ppRequestOn (fn : Nat) (v : U32) (s : State) : State :=
  if fn ≠ 0 then s
  else
    let s := putPoint (putPoint s 0x40 .west (bits v.toNat 0 3)) 0x40 .east (bits v.toNat 4 3)
    retarget (retarget s .west) .east

def execPpRequest (fn : Nat) (value : U32) (s : State) : Result := onBar0 fn s (ppRequestOn fn value)

def ppRampDoneOn (h : Half) (s : State) : State :=
  match rampOf s h with
  | some t => setFld (setRamp s h none) (reg 4 0x48) (Half.lo h) 3 t
  | none => s

def execPpRampDone (half : Half) (s : State) : Result := always s (ppRampDoneOn half)

/-! ### The beat monitor (R316, R434) -/

/-- Histogram bin of a mean beat in 1/16 ps: 400 + 25 b ps up. -/
def beatBin (mean : Nat) : Nat := if mean < 6400 then 0 else min ((mean - 6400) / 400) 31

def beatReg (h : Half) : Nat :=
  match h with
  | .west => reg 4 0x4C
  | .east => reg 4 0x50

def beatWindowOn (h : Half) (mean : U16) (temp : Byte) (s : State) : State :=
  if awake s = false ∨ halfParked s h = true then s
  else
    let s := setReg s 0 (beatReg h) (mean.toNat + 2 ^ 16 * temp.toNat)
    addLife s ((match h with | .west => 46 | .east => 78) + beatBin mean.toNat) 1

def execBeatWindow (half : Half) (mean : U16) (temp : Byte) (s : State) : Result := always s (beatWindowOn half mean temp)

/-- Junction temperature a half last measured. -/
def junction (s : State) (h : Half) : Int := signed 8 (bits (getReg s 0 (beatReg h)) 16 8)

/-! ### The limiter (R318 to R322) -/

-- DESIGN CHOICE, safe: notes/assumptions/141.md.
def setRho (s : State) (v : Nat) : State := setFld s powerStatus 10 9 v

/-- The effective power limit, in watts. -/
def powerLimit (s : State) : Nat := min (fld s (reg 4 0x54) 0 10) (fld s (reg 4 0x58) 0 10)

/-- A power limit as it is stored. -/
def clampWatts (v : Nat) : Nat := max 200 (min v 750)

def glPowerLimitWriteOn (fn : Nat) (v : U32) (s : State) : State :=
  if fn = 0 then setReg s 0 (reg 4 0x54) (clampWatts (v.toNat % 1024)) else s

def execGlPowerLimitWrite (fn : Nat) (value : U32) (s : State) : Result := onBar0 fn s (glPowerLimitWriteOn fn value)

-- DEDUCED, unsafe: notes/assumptions/106.md.
/-- The lowest voltage seen on a rail, with the tick it was seen at (Table 18-6). -/
def noteRail (s : State) (i mv : Nat) : State :=
  let old := lifeOf s i
  if old ≠ 0 ∧ old % 2 ^ 16 ≤ mv % 2 ^ 16 then s
  else
    let v := mv % 2 ^ 16 + 2 ^ 16 * (s.tw.count.toNat % 2 ^ 48)
    { s with lifetime := tset (fun _ => 0) s.lifetime i (BitVec.ofNat 64 v) }

-- DESIGN CHOICE, unsafe: notes/assumptions/103.md.
/-- UNREACHABLE holds while ρ stands at its least and the average draw exceeds the limit; its record is written when it comes to
hold (R322). -/
def checkReach (s : State) : State :=
  let draw := fld s powerStatus 0 10
  if rho s = 32 ∧ powerLimit s < draw then
    if fld s powerStatus 21 1 = 1 then s
    else logEvent (setFld s powerStatus 21 1 1) (blockId 0x01 4 4) 0x501 noFn (toLE 2 (powerLimit s) ++ toLE 2 draw)
  else setFld s powerStatus 21 1 0

-- DESIGN CHOICE, safe: notes/assumptions/5.md.
-- DESIGN CHOICE, unsafe: notes/assumptions/102.md.
-- DESIGN CHOICE, unsafe: notes/assumptions/105.md.
def powerSampleOn (watts mainMv auxMv westMv eastMv : Nat) (s : State) : State :=
  if awake s = false then s
  else
    let l := (watts :: s.limiter.samples).take 100
    let s := { s with limiter := { s.limiter with samples := l, mainMv } }
    let s := setFld s powerStatus 0 10 (min (l.sum / l.length) 1023)
    let s := if rho s < 256 then add64 s (reg 4 0x64) 10 else s
    let s := noteRail (noteRail (noteRail s 164 mainMv) 165 auxMv) 166 westMv
    checkReach (if eastDown s then s else noteRail s 167 eastMv)

def execPowerSample (watts mainMv auxMv westMv eastMv : Nat) (s : State) : Result :=
  always s (powerSampleOn watts mainMv auxMv westMv eastMv)

-- DESIGN CHOICE, unsafe: notes/assumptions/170.md.
/-- A new ρ (R320).  The activity estimator sets it as it finds the engines busy.  The measured draw, above the limit, lowers ρ by 1 to 16,
and otherwise never lowers it and raises it by at most 16.  While thermal pacing holds ρ down it does not rise (R321). -/
def newRho (s : State) (target : Nat) (estimator : Bool) : Nat :=
  let r := rho s
  let t := max 32 (min target 256)
  let t := if estimator then t
    else if powerLimit s < fld s powerStatus 0 10 then max 32 (max (r - 16) (min t (r - 1)))
    else max r (min t (r + 16))
  if fld s powerStatus 20 1 = 1 then min t r else t

def rhoCorrectionOn (target : Nat) (estimator : Bool) (s : State) : State :=
  if awake s = false then s
  else
    let r := rho s
    let t := newRho s target estimator
    let s := setRho s t
    let thermal := fld s powerStatus 20 1 == 1
    checkReach (setFld s powerStatus 19 1 (if t < r ∨ (t < 256 ∧ (!thermal || fld s powerStatus 19 1 == 1) = true) then 1 else 0))

def execRhoCorrection (target : Nat) (estimator : Bool) (s : State) : Result := always s (rhoCorrectionOn target estimator)

/-- T_THROTTLE, °C. -/
def throttleAt (s : State) : Int := fld s (reg 4 0x60) 0 8

-- DESIGN CHOICE, unsafe: notes/assumptions/104.md.
def thermalPacingStepOn (s : State) : State :=
  if awake s = false then s
  else if throttleAt s ≤ junction s .west ∨ throttleAt s ≤ junction s .east then
    checkReach (setFld (setRho s (max 32 (rho s - 8))) powerStatus 20 1 1)
  else if fld s powerStatus 20 1 = 1 ∧ junction s .west + 3 ≤ throttleAt s ∧ junction s .east + 3 ≤ throttleAt s then
    let r := min 256 (rho s + 8)
    checkReach (setFld (setRho s r) powerStatus 20 1 (if r < 256 then 1 else 0))
  else s

def execThermalPacingStep (s : State) : Result := always s thermalPacingStepOn

/-! ### Parking the East half (R324, R325) -/

def parkStatus : Nat := reg 4 0x70
def setParkState (s : State) (v : Nat) : State := setFld s parkStatus 0 2 v
def setParkResult (s : State) (v : Nat) : State := setFld s parkStatus 2 3 v

/-- Some East tensor tile has a chain in progress. -/
def eastChain (s : State) : Bool :=
  s.runs.any (fun e => match e.2.chain with
    | some c => (chainTiles s c).any (fun t => decide (12 ≤ t))
    | none => false)

/-- What refuses a parking as busy: running East lanes, chains on East tensor tiles, an access in progress (`bridge`) or held (R324). -/
def eastBusy (s : State) (bridge : Bool) : Bool :=
  bridge || s.limiter.heldEast || (List.range 48).any (fun t => tileRunning s (48 + t)) || eastChain s

/-- East RESIDENT contexts become PARKED. -/
def parkEastContexts (s : State) : State := (List.range 48).foldl (fun s t => parkTile s (48 + t)) s

/-- Channels of one half, or all, take a state (Table 12-4). -/
def setChannels (s : State) (east : Bool) (v : Nat) : State :=
  (List.range (channels s)).foldl (fun s c => if channelWest s c && east then s else setFld s (reg (channelPage c) 0x40) 0 2 v) s

/-- What a half loses with its rail: tile state and lane modes, slice contents (Table 13-4, R308). -/
def loseSlices (s : State) (lo : Nat) : State :=
  { s with
    sliceMem := s.sliceMem.filter (fun e => decide (e.1 < sliceBytes * lo))
    sliceErr := s.sliceErr.filter (fun e => decide (e.1 < 65536 * lo))
    marches := s.marches.map (fun e => (e.1, if lo ≤ e.1 then { e.2 with testing := false } else e.2)) }

/-- With the pacing of the tiles, four anneal tiles to a tensor tile (R319). -/
def loseTiles (s : State) (lo : Nat) : State :=
  { s with
    lanes := s.lanes.filter (fun e => decide (e.1 < lo * 16))
    frames := s.frames.filter (fun e => decide (e.1 < lo * 256))
    laneModes := s.laneModes.filter (fun e => decide (e.1 < lo))
    paces := s.paces.filter (fun e => decide (e.1 % 256 * (if e.1 / 256 = EngineClass.no .tensor then 4 else 1) < lo)) }

/-- A slice whose test has stopped shows IDLE. -/
def idleSlices (s : State) (lo : Nat) : State :=
  (List.range (128 - lo)).foldl (fun s i => setFld s (reg (slicePage (lo + i)) 0x40) 0 2 0) s

/-- The East half begins to park.  No access reaches its slices from then on until they have been cleared (R308, R325), so what they
held is gone already. -/
def beginParking (s : State) : State := setParkState (idleSlices (loseSlices (parkEastContexts s) 64) 64) 1

def parkRequestOn (fn : Nat) (h : Half) (bridge : Bool) (s : State) : State :=
  if fn ≠ 0 then s
  else
    let s := setFld s (reg 4 0x6C) 0 1 (match h with | .west => 0 | .east => 1)
    match h with
    | .west => setParkResult s 2
    | .east =>
      if eastBusy s bridge then setParkResult s 3
      else
        let s := setParkResult { s with limiter := { s.limiter with wakeEast := false } } 1
        if fld s parkStatus 0 2 % 3 = 0 then beginParking s else s

def execParkRequest (fn : Nat) (half : Half) (bridgeBusy : Bool) (s : State) : Result := onBar0 fn s (parkRequestOn fn half bridgeBusy)

-- DESIGN CHOICE, unsafe: notes/assumptions/99.md.
def parkDoneOn (s : State) : State :=
  if fld s parkStatus 0 2 ≠ 1 then s
  else
    let s := loseTiles (setChannels s true 2) 48
    let s := setReg (setRamp s .east none) 0 (reg 4 0x50) 0
    let again := s.limiter.wakeEast
    setParkState { s with limiter := { s.limiter with wakeEast := false } } (if again then 3 else 2)

def execParkDone (s : State) : Result := always s parkDoneOn

def execUnpark (fn : Nat) (s : State) : Result := onBar0 fn s (fun s => if fn = 0 then unparkEast s else s)

def unparkDoneOn (s : State) : State :=
  if fld s parkStatus 0 2 ≠ 3 then s
  else
    let s := setFld (setParkState (setChannels s true 0) 0) (reg 4 0x48) 4 3 (wantedPoint s .east)
    { s with limiter := { s.limiter with heldEast := false } }

def execUnparkDone (s : State) : Result := always s unparkDoneOn

/-! ### D3hot (R326, Table 13-4) -/

/-- Every queue with a command in progress is stopped as a driver reset stops it, and the records are written. -/
def stopQueues (s : State) : State :=
  (s.queues.map (·.1)).foldl (fun s q => drain (if (queueOf s q).cur.isSome then resetQueue s q else s) q) s

/-- The surface layer and the lifetime counters go to flash (R428, R434). -/
def flushPeat (s : State) : State := { s with peat := { s.peat with flashSurface := s.peat.surface } }
def flushLife (s : State) : State := setReg { s with flash := { s.flash with lifetime := s.lifetime } } 0 (reg 3300 0x4C) 0

/-- What was fetched ahead lies in SRAM. -/
def dropFetched (s : State) : State :=
  { s with queues := s.queues.map (fun e => (e.1, { e.2 with fetched := [], fetchedBuffer := [] })) }

-- DEDUCED, safe: notes/assumptions/107.md.
def d3hotEntryOn (s : State) : State :=
  if awake s = false then s
  else
    let s := stopQueues s
    let s := (List.range 96).foldl (fun s t => parkTile s t) s
    let s := idleSlices (loseTiles (loseSlices (setChannels s false 2) 0) 0) 0
    let s := setParkState (setRamp (setRamp (dropFetched s) .west none) .east none) 0
    let s := { s with localMem := [], limiter := { s.limiter with wakeEast := false, heldEast := false } }
    let s := flushLife (flushPeat s)
    setFld { s with board := { s.board with power := .d3hot } } 0x40 4 1 0

def execD3hotEntry (s : State) : Result := always s d3hotEntryOn

/-- Firmware restores what it kept, both layers of the peat log are reloaded, and READY follows a good firmware check. -/
def d3hotExitOn (ok : Bool) (s : State) : State :=
  if s.board.power ≠ .d3hot then s
  else
    let s := { s with board := { s.board with power := .d0 }, peat := { s.peat with surface := s.peat.flashSurface, deep := s.peat.flashDeep } }
    let s := setChannels s false 0
    let s := setFld (setFld s (reg 4 0x48) 0 3 (wantedPoint s .west)) (reg 4 0x48) 4 3 (wantedPoint s .east)
    if phaseOf s ≠ 8 then s
    else if ok then setFld s 0x40 4 1 1
    else setFld (enterError s 4) seStatus 6 1 1

def execD3hotExit (firmwareOk : Bool) (s : State) : Result := always s (d3hotExitOn firmwareOk)

end Sys2Proof.Machine
end

