-- ==== Sys2Proof/Machine/Pcie.lean ====
section
/-! DEFINITION. The PCI Express attachment (chapter 14): BAR windows, configuration space, MSI-X unmasking, ATS invalidation, the link
and its power states. -/

namespace Sys2Proof.Machine

/-! ### BAR0 accesses of a wrong size (R343) -/

def answerStatus (s : State) (st : Nat) : State := { s with port := { status := st, data := [], poisoned := [] } }

/-- Status codes of a completion: Unsupported Request, and Configuration Request Retry Status. -/
def cplUnsupported : Nat := 1
def cplRetry : Nat := 2

-- DESIGN CHOICE, unsafe: notes/assumptions/109.md.
def bar0BadAccessOn (off size : Nat) (isRead : Bool) (s : State) : State :=
  if awake s = false ∨ ((size = 4 ∨ size = 8) ∧ off % size = 0) then s
  else
    let s := discard s
    if isRead then answerStatus s cplUnsupported else s

def execBar0BadAccess (fn offset size : Nat) (isRead : Bool) (s : State) : Result := onFn fn s (bar0BadAccessOn offset size isRead)

/-! ### The BAR2 window (R344, R345, R347) -/

/-- S: the BAR2 size of a function. -/
def bar2Size (s : State) (fn : Nat) : Nat := 2 ^ (if fn = 0 then s.pcie.bar2Log2 else s.pcie.vfBar2Log2)

def framesBytes : Nat := 2 ^ 31

/-- B: device address at BAR2 offset 0. -/
def windowBase (s : State) (fn : Nat) : Nat := if fn = 0 then get64 s (reg 3500 0x58) else (fnOf s fn).memBase.toNat

/-- First device address that a function's window does not reach. -/
def windowEnd (s : State) (fn : Nat) : Nat :=
  if fn = 0 then firmwareArea s else min ((fnOf s fn).memLimit.toNat + 1) (firmwareArea s)

-- DESIGN CHOICE, unsafe: notes/assumptions/111.md.
/-- The n bytes of an access that lie beyond what the window reaches: a hole or the firmware area, which is logged (R285); past a
virtual function's partition they are counted as discarded instead (R345). -/
def beyondWindow (s : State) (fn a n : Nat) : State :=
  if fn = 0 then holeAccess s a fn
  else
    let stop := (fnOf s fn).memLimit.toNat + 1
    let s := if a < stop then holeAccess s a fn else s
    if stop < a + n then discard s else s

/-- The address lies in a partition that a function level reset is having rewritten (R375). -/
def beingZeroed (s : State) (a : Nat) : Bool :=
  match ownerOf s a with
  | some f => (sealOf s f).zeroing && (sealOf s f).byFlr
  | none => false

/-- One event on poison through BAR2 (Table 18-5): kind 0 a poisoned write, 1 a read of a bad word. -/
def logPoison (s : State) (fn a kind : Nat) (requester : U16) : State :=
  logEvent s (blockId 0x70 0 0) 0x107 fn (toLE 8 a ++ toLE 1 kind ++ toLE 2 requester.toNat)

-- DESIGN CHOICE, safe: notes/assumptions/110.md.
def bar2ReadOn (fn off len : Nat) (requester : U16) (s : State) : State :=
  let n := min len 4096
  if awake s = false ∨ bar2Size s fn < off + n ∨ n = 0 then s
  else if isReady s = false then answer s (List.replicate n 0)
  else if bar2Size s fn - framesBytes ≤ off then
    let (b, s) := drawBytes s n
    answer s b
  else
    let a := windowBase s fn + off
    let k := min n (windowEnd s fn - a)
    let s := if k < n then beyondWindow s fn (a + k) (n - k) else s
    if beingZeroed s a then answer s (List.replicate n 0)
    else
      let (b, bad, s) := readDev s fn a k
      let s := bad.foldl (fun s w => logPoison s fn w 1 requester) s
      answerBad s (b ++ List.replicate (n - k) 0) bad

def execBar2Read (fn offset len : Nat) (requester : U16) (s : State) : Result := onFn fn s (bar2ReadOn fn offset len requester)

-- PRESUMED, unsafe: notes/assumptions/178.md.
/-- AER: Poisoned TLP Received. -/
def aerPoisoned : Nat := 12

/-- Table entries of function f that a write of [a, a + n) touches, by address. -/
def touchedEntries (s : State) (f a n : Nat) : List Nat :=
  let c := fnOf s f
  ((List.range c.htSize).map (fun i => c.htBase.toNat + 32 * i)).filter (fun e => decide (e < a + n) && decide (a < e + 32))

/-- A host write is about to replace table entries: the commands that earlier doorbells cover may still see their old forms (R259). -/
def noteStale (s : State) (a n : Nat) : State :=
  let live := s.stale.filter (fun e => e.tails.any (fun t => pendingBefore (queueOf s t.1) t.2))
  let new := (List.range 16).flatMap (fun f =>
    let tails := ((s.queues.filter (fun e => queueFn s e.1 == f && e.2.sqHead != e.2.sqTail)).map (fun e => (e.1, e.2.sqTail)))
    if tails.isEmpty then [] else (touchedEntries s f a n).map (fun e => ({ addr := e, bytes := peekDev s e 32, tails } : StaleEntry)))
  if live = s.stale ∧ new = [] then s else { s with stale := live ++ new }

def bar2WriteOn (fn off : Nat) (b : List Byte) (poisoned : Bool) (requester : U16) (s : State) : State :=
  let n := b.length
  if awake s = false ∨ isReady s = false ∨ bar2Size s fn < off + n ∨ n = 0 then s
  else if bar2Size s fn - framesBytes ≤ off then
    let x := off - (bar2Size s fn - framesBytes)
    if poisoned then reportAer (logPoison s fn (windowBase s fn + off) 0 requester) fn aerPoisoned false
    else frameWriteOn requester (x / 2 ^ 29) (x % 2 ^ 29) b s
  else
    let a := windowBase s fn + off
    let k := min n (windowEnd s fn - a)
    let s := if k < n then beyondWindow s fn (a + k) (n - k) else s
    if beingZeroed s a then s
    else if poisoned then reportAer (logPoison (poisonSpan s a k) fn a 0 requester) fn aerPoisoned false
    else writeDev (noteStale s a k) fn a (b.take k)

def execBar2Write (fn offset : Nat) (bytes : List Byte) (poisoned : Bool) (requester : U16) (s : State) : Result :=
  onFn fn s (bar2WriteOn fn offset bytes poisoned requester)

/-- R344: 16 GiB to 1 TiB, while the memory space concerned is disabled. -/
def resizeBarOn (fn log2 : Nat) (s : State) : State :=
  if log2 < 34 ∨ 40 < log2 then s
  else if fn = 0 then (if s.pcie.memEnable then s else { s with pcie := { s.pcie with bar2Log2 := log2 } })
  else if s.pcie.vfMemEnable then s else { s with pcie := { s.pcie with vfBar2Log2 := log2 } }

def execResizeBar (fn : Nat) (log2 : Nat) (s : State) : Result := onFn fn s (resizeBarOn fn log2)

/-! ### Configuration space (R340, R348, R349) -/

/-- A register of which only the bits of a mask are given; the others are free. -/
structure CfgWord where
  known : Nat := 0
  mask : Nat := 0
  deriving DecidableEq, Repr

def cfgAll (v : Nat) : CfgWord := { known := v, mask := 2 ^ 32 - 1 }

/-- Header of an extended capability: ID, the next one's offset, and the version, which Table 14-6 gives or leaves open: of every
function it is the physical one's. -/
def cfgExt (id next : Nat) (version : Option Nat) : CfgWord :=
  cfgAll (id + 2 ^ 16 * version.getD (Config.capVersion id).toNat + 2 ^ 20 * next)

/-- The capabilities of Table 14-6 from 0x100 up, in order; the second flag tells which a virtual function carries. -/
def extCaps : List (Nat × Nat × Bool × Option Nat) :=
  [(0x100, 0x0001, true, some 2), (0x148, 0x0003, false, none), (0x158, 0x000E, true, none), (0x160, 0x0010, false, none),
   (0x1A0, 0x000F, true, none), (0x1B0, 0x0015, false, none), (0x1C0, 0x0024, false, none), (0x1D0, 0x0019, false, none),
   (0x200, 0x0025, false, none), (0x210, 0x0026, false, none), (0x240, 0x002A, false, none), (0x280, 0x0031, false, none),
   (0x2C0, 0x0027, false, none), (0x300, 0x0002, false, none), (0x340, 0x0018, false, none), (0x350, 0x001E, false, none),
   (0x360, 0x002E, true, none), (0x3A0, 0x002F, false, none), (0x3B0, 0x0030, false, none)]

def capsOf (fn : Nat) : List (Nat × Nat × Bool × Option Nat) := extCaps.filter (fun c => fn == 0 || c.2.2.1)

/-- The extended capability header at an offset. -/
def extHeader (fn off : Nat) : Option CfgWord :=
  match (capsOf fn).dropWhile (fun c => c.1 != off) with
  | [] => none
  | [c] => some (cfgExt c.2.1 0 c.2.2.2)
  | c :: n :: _ => some (cfgExt c.2.1 n.1 c.2.2.2)

def partNo (p : Part) : Nat :=
  match p with
  | .c7200 => 1
  | .m7200 => 2
  | .c7206 => 3

/-- log2 of the size of BAR n, a multiple of 2: of the physical function, or of each virtual one (Table 14-4). -/
def barLog2 (s : State) (vf : Bool) (n : Nat) : Nat :=
  if n = 0 then 24
  else if n = 2 then (if vf then s.pcie.vfBar2Log2 else s.pcie.bar2Log2)
  else if vf then (if bits s.pcie.sysPage 4 1 = 1 then 16 else 12)
  else 16

/-- A base address register at a configuration offset, BAR0 at `base`: the type bits, and the address bits that its size leaves (R342). -/
def barWord (s : State) (vf : Bool) (base off : Nat) : Nat :=
  let raw := (tget (fun _ => 0) s.pcie.bars off).toNat
  let n := (off - base) / 4
  let k := barLog2 s vf (n / 2 * 2)
  if n % 2 = 0 then (if k < 32 then raw / 2 ^ k * 2 ^ k else 0) + (if n = 2 then 12 else 4)
  else raw / 2 ^ (k - 32) * 2 ^ (k - 32)

/-- Status bits of AER: the errors reported for a function. -/
def aerBits (s : State) (fn : Nat) (correctable : Bool) : Nat :=
  ((s.pcie.aer.filter (fun e => e.fn == fn && e.correctable == correctable)).map (fun e => 2 ^ e.bit)).sum

def b2 (b : Bool) (k : Nat) : Nat := if b then 2 ^ k else 0

/-- The first 256 bytes. -/
def cfgHeader (s : State) (fn off : Nat) : CfgWord :=
  if off = 0x00 then cfgAll (if fn = 0 then 0x72001F6E else 0xFFFFFFFF)
  else if off = 0x04 then { known := b2 (fn == 0 && s.pcie.memEnable) 1 + b2 s.pcie.busMaster 2 + 2 ^ 20, mask := 0x100006 }
  else if off = 0x08 then cfgAll (0x12000000 + Config.stepping.toNat)
  else if off = 0x0C then { known := 0, mask := 0x7F0000 }
  else if 0x10 ≤ off ∧ off ≤ 0x24 then cfgAll (if fn = 0 then barWord s false 0x10 off else 0)
  else if off = 0x2C then cfgAll (2 ^ 16 * partNo s.part + 0x1F6E)
  else if off = 0x34 then { known := if fn = 0 then 0x40 else 0x50, mask := 0xFF }
  else if off = 0x3C then { known := 0, mask := 0xFF00 }
  else if fn = 0 ∧ off = 0x40 then cfgAll 0xC8C35001
  else if fn = 0 ∧ off = 0x44 then { known := 8 + b2 s.pcie.pmeEn 8 + (match s.board.power with | .d3hot => 3 | _ => 0), mask := 0x10B }
  else if off = 0x50 then cfgAll 0x00029010
  else if off = 0x54 then { known := 0x10008022, mask := 0x10008027 }
  else if fn = 0 ∧ off = 0x58 then { known := s.pcie.devControl, mask := 0xFFFF }
  else if off = 0x74 then { known := 0x3080F, mask := 0x33BCF }
  else if fn = 0 ∧ off = 0x78 then { known := s.pcie.devControl2, mask := 0xFFFF }
  else if off = 0x5C then { known := 6 + 16 * 2 ^ 4 + 2 * 2 ^ 10 + 5 * 2 ^ 15, mask := 0x38FFF }
  else if off = 0x90 then { known := 0x11 + 2 ^ 16 * (tableSize fn - 1), mask := 0x07FFFFFF }
  else if off = 0x94 then cfgAll 4
  else if off = 0x98 then cfgAll ((if fn = 0 then 0x8000 else 0x800) + 4)
  else {}

-- PRESUMED, unsafe: notes/assumptions/112.md.
/-- The extended capabilities' own words. -/
def cfgBody (s : State) (fn off : Nat) : CfgWord :=
  if off = 0x104 then cfgAll (aerBits s fn false)
  else if off = 0x110 then cfgAll (aerBits s fn true)
  else if off = 0x118 then { known := 0x2A0, mask := 0x2A0 }
  else if off = 0x1A4 then { known := 2 ^ 5 + b2 (s.pcie.atsEnable.contains fn) 31, mask := 0x8000003F }
  else if fn ≠ 0 then {}
  else if off = 0x14C then cfgAll (Config.serial.toNat % 2 ^ 32)
  else if off = 0x150 then cfgAll (Config.serial.toNat / 2 ^ 32)
  else if off = 0x15C then { known := 0, mask := 0xFF00 }
  else if off = 0x164 then { known := 0, mask := 1 }
  else if off = 0x168 then { known := b2 s.pcie.vfEnable 0 + b2 s.pcie.vfMemEnable 3 + b2 s.pcie.ari 4, mask := 0x19 }
  else if off = 0x16C then cfgAll (15 + 15 * 2 ^ 16)
  else if off = 0x170 then { known := s.pcie.numVfs, mask := 0xFFFF }
  else if off = 0x174 then cfgAll (1 + 2 ^ 16)
  else if off = 0x178 then { known := 2 ^ 16 * 0x7201, mask := 0xFFFF0000 }
  else if off = 0x17C then cfgAll 0x11
  else if off = 0x180 then cfgAll s.pcie.sysPage
  else if 0x184 ≤ off ∧ off ≤ 0x198 then cfgAll (barWord s true 0x184 off)
  else if off = 0x1B4 ∨ off = 0x1C4 then { known := 2 ^ 18 * 0x7F, mask := 0xFFFFFFF0 }
  else if off = 0x1B8 then { known := 2 + 2 ^ 5 + 2 ^ 8 * (s.pcie.bar2Log2 - 20), mask := 0x3FE7 }
  else if off = 0x1C8 then { known := 2 + 2 ^ 5 + 2 ^ 8 * (s.pcie.vfBar2Log2 - 20), mask := 0x3FE7 }
  else if off = 0x204 then { known := 1, mask := 1 }
  else if off = 0x304 then { known := 1, mask := 7 }
  else if off = 0x354 then { known := 0x1F, mask := 0x1F }
  else if off = 0x3A4 then { known := 0xE, mask := 0xE }
  else if off = 0x3B4 then { known := 3 + 7 * 2 ^ 16, mask := 0xFFE003 }
  else {}

def cfgWord (s : State) (fn off : Nat) : CfgWord :=
  match extHeader fn off with
  | some w => w
  | none => if off < 0x100 then cfgHeader s fn off else cfgBody s fn off

-- PRESUMED, unsafe: notes/assumptions/17.md.
/-- A read: the known bits, the others free. -/
def cfgRead (s : State) (fn off : Nat) : Nat × State :=
  let w := cfgWord s fn off
  let (v, s) := drawFree s
  (Nat.lor (Nat.land w.known w.mask) (Nat.land (v.toNat % 2 ^ 32) (2 ^ 32 - 1 - w.mask)), s)

/-- A write: the fields that this chapter uses; of the others the device does nothing the manual states. -/
def cfgWrite (s : State) (fn off : Nat) (v : U32) : State :=
  let P := s.pcie
  if off = 0x104 ∨ off = 0x110 then
    { s with pcie := { P with aer := P.aer.filter (fun e => !(e.fn == fn && e.correctable == (off == 0x110) && v.getLsbD e.bit)) } }
  else if off = 0x1A4 then
    let l := P.atsEnable.filter (· != fn)
    { s with pcie := { P with atsEnable := if v.getLsbD 31 then l ++ [fn] else l } }
  else if fn ≠ 0 then s
  else if off = 0x04 then { s with pcie := { P with memEnable := v.getLsbD 1, busMaster := v.getLsbD 2 } }
  else if (0x10 ≤ off ∧ off ≤ 0x24) ∨ (0x184 ≤ off ∧ off ≤ 0x198) then { s with pcie := { P with bars := tset (fun _ => 0) P.bars off v } }
  else if off = 0x44 then { s with pcie := { P with pmeEn := v.getLsbD 8 } }
  else if off = 0x58 then { s with pcie := { P with devControl := v.toNat % 2 ^ 15 } }
  else if off = 0x78 then { s with pcie := { P with devControl2 := v.toNat % 2 ^ 16 } }
  else if off = 0x180 then (if v = 1 ∨ v = 0x10 then { s with pcie := { P with sysPage := v.toNat } } else s)
  else if off = 0x1B8 then resizeBarOn 0 (20 + bits v.toNat 8 6) s
  else if off = 0x1C8 then resizeBarOn 1 (20 + bits v.toNat 8 6) s
  else if off = 0x168 then { s with pcie := { P with vfEnable := v.getLsbD 0, vfMemEnable := v.getLsbD 3, ari := v.getLsbD 4 } }
  else if off = 0x170 then (if P.vfEnable ∨ 15 < v.toNat % 2 ^ 16 then s else { s with pcie := { P with numVfs := v.toNat % 2 ^ 16 } })
  else if off = 0x320 then setFld s (reg 3500 0x40) 9 1 (if v.getLsbD 31 && v.getLsbD 7 then 1 else 0)
  else s

/-- A function answers configuration requests: VF v exists once VF Enable is set and NumVFs reaches it; above 7 it is reached with
ARI alone (R340). -/
def fnPresent (s : State) (fn : Nat) : Bool :=
  fn == 0 || (s.pcie.vfEnable && decide (fn ≤ s.pcie.numVfs) && (s.pcie.ari || decide (fn ≤ 7)))

/-- Configuration requests are answered: from the end of phase 2, or when the start has failed (R360, R364, R365). -/
def configUp (s : State) : Bool := decide (3 ≤ phaseOf s)

def configRequestOn (fn : Nat) (a : ConfigAccess) (s : State) : State :=
  if s.board.mainOk = false ∨ s.board.perst = true then s
  else if configUp s = false then answerStatus s cplRetry
  else if fnPresent s fn = false then answerStatus s cplUnsupported
  else match a with
    | .read off =>
      let (v, s) := cfgRead s fn (off % 4096 / 4 * 4)
      answer s (toLE 4 v)
    | .write off v => answer (cfgWrite s fn (off % 4096 / 4 * 4) v) []

def execConfigRequest (fn : Nat) (access : ConfigAccess) (s : State) : Result := onFn fn s (configRequestOn fn access)

/-! ### MSI-X and ATS (R342, R358, R352) -/

/-- Unmasks a vector: what its pending bit holds back goes out as one message (R358). -/
def unmaskVector (s : State) (fn v : Nat) : State :=
  if tableSize fn ≤ v then s
  else
    let s := { s with pcie := { s.pcie with unmasked := tset (fun _ => false) s.pcie.unmasked (vectorKey fn v) true } }
    if vectorPending s fn v then
      sendMsg { s with pcie := { s.pcie with pending := tset (fun _ => false) s.pcie.pending (vectorKey fn v) false } } (.msix fn v)
    else s

/-- BAR4's size, and where its pending bit array begins (Table 14-4). -/
def bar4Size (s : State) (fn : Nat) : Nat := 2 ^ barLog2 s (fn != 0) 4
def pendingBase (fn : Nat) : Nat := if fn = 0 then 0x8000 else 0x800

-- PRESUMED, unsafe: notes/assumptions/177.md.
/-- A 4-byte word of BAR4: address and data of an entry as written, its vector control with the mask bit, the pending bits. -/
def msixWord (s : State) (fn off : Nat) : Nat :=
  let v := off / 16
  let p := off - pendingBase fn
  if v < tableSize fn then
    (if off % 16 = 12 then (if vectorUnmasked s fn v then 0 else 1) else (tget (fun _ => 0) s.pcie.msixTable (2 ^ 16 * fn + off)).toNat)
  else if pendingBase fn ≤ off ∧ 8 * p < tableSize fn then
    ((List.range 32).map (fun i => b2 (vectorPending s fn (8 * p + i)) i)).sum
  else 0

/-- A write of BAR4: entries alone, of whose vector control the mask bit counts. -/
def msixWrite (s : State) (fn off : Nat) (value : U32) : State :=
  let v := off / 16
  if tableSize fn ≤ v then s
  else if off % 16 ≠ 12 then { s with pcie := { s.pcie with msixTable := tset (fun _ => 0) s.pcie.msixTable (2 ^ 16 * fn + off) value } }
  else if value.getLsbD 0 then
    { s with pcie := { s.pcie with unmasked := tset (fun _ => false) s.pcie.unmasked (vectorKey fn v) false } }
  else unmaskVector s fn v

/-- Accesses of BAR4 take effect before READY too (R360). -/
def msixUnmaskOn (fn : Nat) (a : MsixAccess) (s : State) : State :=
  match a with
  | .unmask v => unmaskVector s fn v
  | .read off => if awake s = false ∨ bar4Size s fn ≤ off then s else answer s (toLE 4 (msixWord s fn (off / 4 * 4)))
  | .write off value => if awake s = false ∨ bar4Size s fn ≤ off then s else msixWrite s fn (off / 4 * 4) value

def execMsixUnmask (fn : Nat) (access : MsixAccess) (s : State) : Result := onFn fn s (msixUnmaskOn fn access)

def execAtsInvalidate (fn : Nat) (page : U64) (s : State) : Result := onFn fn s (fun s => sendMsg s (.invalidated fn page))

/-! ### The link (R338, R339, R356) -/

def linkStatus : Nat := reg 3500 0x40

/-- PX_LINK_STATUS.DEGRADED, the page's HEALTH and the record. -/
def setDegraded (s : State) (bad : Bool) (speed width : Nat) : State :=
  if bad then
    logEvent (degrade (setFld s linkStatus 16 1 1) 3500) (blockId 0x70 0 0) 0x301 noFn (toLE 1 speed ++ toLE 1 width)
  else setHealth (setFld s linkStatus 16 1 0) 3500 healthGood

/-- What was held while the link was not in L0 is sent (R339). -/
def backInL0 (s : State) : State :=
  { s with
    board := { s.board with l1 := none, clkreqReleased := false }
    pcie := { s.pcie with sent := s.pcie.sent ++ s.pcie.held, held := [] } }

/-- The link reaches L0 at a speed and width of Table 14-1; at 64.0 GT/s in FLIT mode alone. -/
def linkUpOn (speed width partner : Nat) (flit : Bool) (s : State) : State :=
  if s.board.mainOk = false ∨ s.board.perst = true ∨ speed = 0 ∨ 6 < speed ∨ (speed = 6 ∧ flit = false) ∨ [1, 2, 4, 8, 16].contains width = false then s
  else
    let s := backInL0 s
    let s := setFld (setFld (setFld (setFld s linkStatus 0 3 speed) linkStatus 3 5 width) linkStatus 8 1 (if flit then 1 else 0)) linkStatus 11 5 width
    setDegraded s (decide (width < 4) || (decide (speed < 4) && decide (speed < partner))) speed width

def execLinkUp (speed width partner : Nat) (flit : Bool) (s : State) : Result := always s (linkUpOn speed width partner flit)

def linkReplayOn (e : LinkEvent) (s : State) : State :=
  match e with
  | .replay => addLife (addSat s (reg 3500 0x44) 1) 162 1
  | .retrain => addLife (addSat s (reg 3500 0x48) 1) 163 1
  | .fecCorrected => addSat s (reg 3500 0x4C) 1

def execLinkReplay (event : LinkEvent) (s : State) : Result := always s (linkReplayOn event)

/-- The link leaves L0, for L2 in D3hot alone; in L1.2 the clock request is released (R339, R466). -/
def l1EntryOn (sub : L1Sub) (s : State) : State :=
  if fld s linkStatus 0 3 = 0 ∨ s.board.l1.isSome ∨ (sub = .l2 ∧ s.board.power ≠ .d3hot) then s
  else { s with board := { s.board with l1 := some sub, clkreqReleased := decide (sub = .l12) } }

def execL1Entry (sub : L1Sub) (s : State) : Result := always s (l1EntryOn sub)

def l1ExitOn (s : State) : State := if s.board.l1.isNone then s else backInL0 s

def execL1Exit (s : State) : Result := always s l1ExitOn

/-- L0p runs between x16, x8 and x4, in FLIT mode, within the trained width (Table 14-1). -/
def l0pWidthChangeOn (w : Nat) (s : State) : State :=
  if fld s linkStatus 8 1 = 0 ∨ [4, 8, 16].contains w = false ∨ fld s linkStatus 3 5 < w then s else setFld s linkStatus 11 5 w

def execL0pWidthChange (width : Nat) (s : State) : Result := always s (l0pWidthChangeOn width)

end Sys2Proof.Machine
end

