-- ==== Sys2Proof/Machine/Start.lean ====
section
/-! DEFINITION. Rails, resets, the eight phases of a start, function level resets and firmware updates (chapter 15, R395, R397, R463,
R473). -/

namespace Sys2Proof.Machine

/-! ### Reset of the core (R362, R372 to R374) -/

-- DEDUCED, safe: notes/assumptions/118.md.
/-- Keeps the STKY bits of stored registers; the rest returns to the Reset column (Table 15-5). -/
def keepSticky (d : Nat → U32) (t : Table U32) : Table U32 :=
  t.foldl (fun acc e =>
    let m : U32 := BitVec.ofNat 32 (match regSpec (e.1 % 2 ^ 24) with | some r => r.stky | none => 0)
    tset d acc e.1 ((e.2 &&& m) ||| (d e.1 &&& ~~~ m))) []

/-- Everything but the twilight domain, flash, host memory, the log and the lifetime store as a warm reset leaves it. -/
def resetCore (s : State) : State :=
  { s with
    regs := keepSticky regReset s.regs
    fnRegs := keepSticky (fun k => regReset (k % 2 ^ 24)) s.fnRegs
    captures := [], queues := [], fronts := [], fns := [], syncs := [], stale := [], ctxs := [], plans := [], planGens := [], runs := []
    laneModes := [], lanes := [], frames := [], maps := [], retiredEngines := [], cores := [0, 1], spareCores := [2, 3]
    repairs := [], rowRepairs := [], rowErrors := [], faultyRows := [], scrubPos := [], seals := [], areaSealed := false, areaKey := false
    sliceMem := [], sliceErr := [], sliceSpares := [], marches := [], winCount := [], winMem := []
    localMem := [], paces := [], rng := {}, enclave := {}
    peat := { s.peat with storms := [], lastBy := [], viewState := [], viewData := [], viewWant := [] }
    flash := { s.flash with update := 0 }
    board := { s.board with l1 := none, clkreqReleased := false }
    pcie := { sent := s.pcie.sent }
    limiter := {}, port := {} }

/-- The core is reset and held; the phase that the reset found is kept for the record of R378. -/
def holdReset (s : State) : State :=
  let was := phaseOf s
  let t := resetCore s
  if s.board.perst || !s.board.mainOk then t else { t with board := { t.board with interrupted := was } }

/-- The peat log and the lifetime store at a start: a cold one reloads them from flash, a warm one keeps the SRAM, unless it had
failed (R428, R433, R434). -/
def reloadStores (s : State) (cold : Bool) : State :=
  let p := s.peat
  let fresh := cold || p.direct
  { s with
    peat := { p with surface := if fresh then p.flashSurface else p.surface, deep := if fresh then p.flashDeep else p.deep, direct := false }
    lifetime := if cold then s.flash.lifetime else s.lifetime }

/-- t0 of a start (R362, R371, R378). -/
def beginStart (s : State) : State :=
  let cold := s.board.mainWasLost
  let was := s.board.interrupted
  let s := reloadStores s cold
  let s := if cold then { s with regs := [], fnRegs := [] } else s
  let s := { s with t0 := s.us, board := { s.board with power := .d0, mainWasLost := false, interrupted := 0 } }
  let s := setFld s 0x40 13 1 (if cold then 0 else 1)
  if cold then s
  else
    let s := setFld s 0x40 24 8 (satAdd 8 (fld s 0x40 24 8) 1)
    let s := if was = 6 then setFld s 0x40 16 8 (satAdd 8 (fld s 0x40 16 8) 1) else s
    logEvent s (blockId 0x01 0 0) 0x702 noFn (toLE 1 was ++ toLE 1 (if was = 6 then 1 else 0))

/-- A start begins as soon as the rails are good and PERST# is released (R362, R463). -/
def tryStart (s : State) : State := if s.board.mainOk && s.board.auxOk && !s.board.perst then beginStart s else s

/-! ### PERST# and the rails -/

def perstAssertOn (s : State) : State :=
  if s.board.perst then s else let t := holdReset s; { t with board := { t.board with perst := true } }

def execPerstAssert (s : State) : Result := always s perstAssertOn

/-- WAKE# falls with PERST# (R333). -/
def perstDeassertOn (s : State) : State :=
  if s.board.perst then tryStart { s with board := { s.board with perst := false }, tw := { s.tw with wakeBy := 0 } } else s

def execPerstDeassert (s : State) : Result := always s perstDeassertOn

/-- The power stages stop; nothing but the twilight domain runs. -/
def stopStages (s : State) : State :=
  let t := holdReset s
  { t with board := { t.board with mainOk := false, mainWasLost := true, power := .off } }

def mainLostOn (s : State) : State :=
  if s.board.mainIn then let t := stopStages s; { t with board := { t.board with mainIn := false } } else s

def execMainLost (s : State) : Result := always s mainLostOn

-- DEDUCED, safe: notes/assumptions/124.md.
/-- Main returns: a latched trip is over (R473), the twilight domain writes its entry, and the power stages start when aux is there. -/
def mainPowerReturnOn (s : State) : State :=
  if s.board.mainIn then s
  else
    let s := { s with board := { s.board with mainIn := true } }
    if s.board.auxOk then
      let s := lastWord { s with tw := { s.tw with thermtrip := false } } 0x0005
      tryStart { s with board := { s.board with mainOk := true } }
    else s

def execMainPowerReturn (s : State) : Result := always s mainPowerReturnOn

/-- Aux arrives: the twilight domain starts from its Reset column, and samples the straps (R328, R465, R467). -/
def auxPowerOnOn (straps : Nat) (s : State) : State :=
  if s.board.auxOk then s
  else
    let s := { s with tw := { straps := straps % 8 }, nsSinceTick := 0, board := { s.board with auxOk := true } }
    if s.board.mainIn then tryStart { s with board := { s.board with mainOk := true } } else s

def execAuxPowerOn (straps : Nat) (s : State) : Result := always s (auxPowerOnOn straps)

def auxLostOn (s : State) : State :=
  if s.board.auxOk then let t := stopStages s; { t with tw := {}, nsSinceTick := 0, board := { t.board with auxOk := false } } else s

def execAuxLost (s : State) : Result := always s auxLostOn

/-- The stages stop by themselves and stay off until main is removed and applied again (R473). -/
def thermtripOn (s : State) : State :=
  if s.board.mainOk then let t := stopStages s; lastWord { t with tw := { t.tw with thermtrip := true } } 0x0006 else s

def execThermtrip (s : State) : Result := always s thermtripOn

/-- DL_Down, a hot reset and a link disable act alike (R357). -/
def hotResetOn (_cause : HotCause) (s : State) : State :=
  if s.board.mainOk && !s.board.perst then beginStart (holdReset s) else s

def execHotReset (cause : HotCause) (s : State) : Result := always s (hotResetOn cause)

/-! ### Phases (R363, R365) -/

/-- Milliseconds since t0, as the start registers hold them. -/
def sinceT0 (s : State) : Nat := min ((s.us - s.t0) / 1000) 65535

/-- A phase ends: its time is recorded, and the next phase is in progress. -/
def endPhase (s : State) (n : Nat) : State :=
  setFld (setFld s (0x48 + (n - 1) / 2 * 4) ((n - 1) % 2 * 16) 16 (sinceT0 s)) 0x40 0 4 (n + 1)

/-- A phase fails. -/
def failPhase (s : State) (cause : Nat) : State :=
  lastWord (logEvent (statusFailed s cause) (blockId 0x01 0 0) 0x701 noFn (toLE 1 cause)) 0x0105

/-- What happens in phase n of a start. -/
def inPhase (n : Nat) (f : State → State) (s : State) : State := if awake s && phaseOf s == n && !isReady s then f s else s

/-! ### BOOT (R395) -/

def slotPasses (s : State) (x : Slot) : Bool := x.valid && decide (s.flash.fwMin ≤ x.svn)

/-- The slot that boots: among those that pass, the higher sequence number. -/
def bootSlot (s : State) : Option Nat :=
  if !(s.flash.manifestValid && decide (s.flash.manifestMin ≤ s.flash.manifestSvn)) then none
  else match slotPasses s s.flash.slotA, slotPasses s s.flash.slotB with
    | true, true => some (if s.flash.slotA.seq < s.flash.slotB.seq then 1 else 0)
    | true, false => some 0
    | false, true => some 1
    | false, false => none

def bootedSlot (s : State) : Slot := if fld s 0x40 12 1 = 1 then s.flash.slotB else s.flash.slotA

/-- The security versions and minimums that the SE_ page shows (Table 17-6). -/
def showVersions (s : State) : State :=
  let f := s.flash
  let s := setReg s 0 (reg 3072 0x4C)
    ((bootedSlot s).svn % 256 + 2 ^ 8 * (f.fwMin % 256) + 2 ^ 16 * (f.cfgSvn % 256) + 2 ^ 24 * (f.cfgMin % 256))
  setReg s 0 (reg 3072 0x50)
    (f.manifestSvn % 256 + 2 ^ 8 * (f.manifestMin % 256) + 2 ^ 16 * (f.manifestKeys % 32) + 2 ^ 21 * (f.cfgPlanKeys.length % 16))

/-- GL_HEALTH and SVC_LED# at a start: the causes kept in flash stand, and without any the request drops (R425, R470). -/
def reloadRequest (s : State) : State :=
  let f := s.flash
  let s := setReg s 0 (reg 1 0x40)
    ((if f.channelCause || f.lifetimeCause then 1 else 0) + (if f.channelCause then 4 else 0) + (if f.lifetimeCause then 8 else 0))
  { s with tw := { s.tw with svcLed := f.channelCause || f.lifetimeCause, causes := fld s (reg 1 0x40) 1 3 } }

-- DESIGN CHOICE, unsafe: notes/assumptions/116.md.
def bootOn : State → State := inPhase 1 (fun s =>
  match bootSlot s with
  | none => failPhase s 1
  | some n =>
    let s := setFld s 0x40 12 1 n
    if !(s.flash.cfgValid && decide (s.flash.cfgMin ≤ s.flash.cfgSvn)) then failPhase s 2
    else
      let s := setFld (showVersions s) (reg 3500 0x40) 10 1 (if s.flash.sris then 1 else 0)
      let s := addLife s (if fld s 0x40 13 1 = 1 then 13 else 12) 1
      endPhase s 1)

def execBoot (s : State) : Result := always s bootOn

/-! ### IDENTITY (R397, R402) -/

/-- Words of a 256-bit value into eight registers. -/
def setWords (s : State) (a : Nat) (v : BitVec 256) : State :=
  (List.range 8).foldl (fun s i => setReg s 0 (a + 4 * i) (v.toNat / 2 ^ (32 * i) % 2 ^ 32)) s

def identityOn (helperOk testsOk certOk : Bool) (keyId : BitVec 256) : State → State := inPhase 2 (fun s =>
  if helperOk && testsOk && certOk then
    let s := setWords { s with enclave := { s.enclave with identity := some keyId } } (reg 3072 0x60) keyId
    endPhase s 2
  else failPhase s 3)

def execIdentity (helperOk testsOk certOk : Bool) (keyId : BitVec 256) (s : State) : Result :=
  always s (identityOn helperOk testsOk certOk keyId)

/-! ### SELFTEST (R366, R367) -/

/-- Good physical instances of a half, ascending. -/
def goodList (c : EngineClass) (bad : List Nat) (east : Bool) : List Nat :=
  let lo := if east then EngineClass.physHalf c else 0
  ((List.range (EngineClass.physHalf c)).map (· + lo)).filter (fun p => !bad.contains p)

/-- Maps one half of a class onto its good instances in order, and folds the logical instances left over. -/
def mapHalf (s : State) (c : EngineClass) (bad : List Nat) (east : Bool) : State :=
  let good := goodList c bad east
  let n := EngineClass.logical c / 2
  let lo := if east then n else 0
  let none' := (bad.filter (fun p => decide ((if east then EngineClass.physHalf c else 0) ≤ p))).headD 0
  let s := (List.range n).foldl (fun s i => setMap s c (lo + i) { phys := (good[i]?).getD none' }) s
  ((List.range n).filter (fun i => decide (good.length ≤ i))).foldl (fun s i =>
    match foldHost s c (lo + i) with
    | some h => foldOnto s c (lo + i) h
    | none => s) s

def mapClass (s : State) (c : EngineClass) (bad : List Nat) : State :=
  let s := { s with retiredEngines := s.retiredEngines ++ bad.map (engineKey c) }
  mapHalf (mapHalf s c bad false) c bad true

/-- A limit of R367 is crossed. -/
def tooFew (bad : EngineClass → List Nat) (badCores : List Nat) : Bool :=
  classes.any (fun c => decide ((goodList c (bad c) false).length < leastGood c) || decide ((goodList c (bad c) true).length < leastGood c))
  || decide (((List.range 4).filter (fun c => !badCores.contains c)).length < 2)

/-- Logical cores 0 and 1 on their own core, or on a spare where that one fails; the spares left over (R16, R17). -/
def placeCores (s : State) (bad : List Nat) : State :=
  let good := [2, 3].filter (fun c => !bad.contains c)
  let (cores, spares) := [0, 1].foldl (fun (acc : List Nat × List Nat) l =>
    if bad.contains l then (acc.1 ++ acc.2.take 1, acc.2.drop 1) else (acc.1 ++ [l], acc.2)) ([], good)
  { s with cores, spareCores := spares }

-- DESIGN CHOICE, unsafe: notes/assumptions/117.md.
def selftestOn (bad : EngineClass → List Nat) (badCores : List Nat) (infraOk : Bool) (badWords : List (Nat × Nat)) : State → State :=
  inPhase 3 (fun s =>
    if tooFew bad badCores || !infraOk then failPhase s 4
    else
      let stood := s.tw.svcLed
      let s := reloadRequest s
      let s := placeCores s badCores
      -- a request that stood before the start and holds still is not raised anew
      let s := if stood then setFld { s with tw := { s.tw with svcLed := true } } (reg 1 0x40) 1 1 1 else s
      let s := classes.foldl (fun s c => mapClass s c (bad c)) s
      let s := badWords.foldl (fun s e => if e.1 < 128 ∧ e.2 < 65536 then mapSliceWord s e.1 e.2 else s) s
      let out := sparesOut s
      let s := if !out then setFld s (reg 1 0x40) 1 1 0 else if stood then s else raiseReplace s 1
      let causes := fld s (reg 1 0x40) 1 3
      let s := setFld { s with tw := { s.tw with svcLed := causes != 0, causes } } (reg 1 0x40) 0 1 (if causes = 0 then 0 else 1)
      endPhase s 3)

def badOf (a t c : List Nat) : EngineClass → List Nat
  | .anneal => a
  | .tensor => t
  | .constraint => c

def execSelftest (badAnneal badTensor badConstraint badCores : List Nat) (infraOk : Bool) (badWords : List (Nat × Nat)) (s : State) : Result :=
  always s (selftestOn (badOf badAnneal badTensor badConstraint) badCores infraOk badWords)

/-! ### TRAINING (R296, R297, R368) -/

/-- Channels of a half of the fit. -/
def westPhys (p : Part) (c : Nat) : Bool := decide (c < physChannels p / 2)

/-- Hard repair of one recorded row. -/
def repairHard (s : State) (e : Nat × Nat) : State :=
  match (channelMap s).findIdx? (fun c => c == e.1) with
  | none => s
  | some ch =>
    let a := reg (channelPage ch) 0x54
    let s := setFld s a 16 8 (satAdd 8 (fld s a 16 8) 1)
    logEvent s (channelBlock ch) 0x103 noFn (toLE 1 e.1 ++ toLE 4 e.2 ++ [Config.logCode 9])

/-- Retires channels for good, and says so (R297, Table 18-3). -/
def retireChannels (s : State) (new : List Nat) : State :=
  if new.isEmpty then { s with flash := { s.flash with retireMarks := [] } }
  else raiseReplace { s with flash := { s.flash with retired := s.flash.retired ++ new, retireMarks := [] } } 2

def trainingOn (failed : List Nat) : State → State := inPhase 4 (fun s =>
  let fit := fun c => decide (c < physChannels s.part) && !s.flash.retired.contains c
  let lost := (List.range 48).filter (fun c => fit c && failed.contains c && !s.flash.retireMarks.contains c)
  let s := lost.foldl (fun s c => logEvent s (blockId 0x20 c c) 0x104 noFn (toLE 1 c ++ [Config.logCode 5])) s
  let new := (List.range 48).filter (fun c => fit c && (failed.contains c || s.flash.retireMarks.contains c))
  let all := s.flash.retired ++ new
  let s := { s with flash := { s.flash with retireMarks := s.flash.retireMarks ++ lost } }
  if 2 < (all.filter (westPhys s.part)).length ∨ 2 < (all.filter (fun c => !westPhys s.part c)).length then failPhase s 5
  else
    let s := retireChannels s new
    let s := s.flash.hardRows.foldl repairHard s
    let s := { s with flash := { s.flash with hardRows := [] } }
    endPhase (setChannels s false 0) 4)

/-- The one command that may add to the channels retired for good (R297). -/
def execTraining (failed : List Nat) (s : State) : Result :=
  .next { keep s (trainingOn failed s) with flash := (trainingOn failed s).flash }

/-! ### CALIBRATION, MEMINIT, RNG_TEST and READY (R363, R368, R382, R398, R405) -/

def calibrationOn (ok : Bool) : State → State := inPhase 5 (fun s => if ok then endPhase s 5 else failPhase s 6)

def execCalibration (ok : Bool) (s : State) : Result := always s (calibrationOn ok)

-- DEDUCED, unsafe: notes/assumptions/121.md.
/-- Raw samples of the 20 ms in which the oscillators settle (R379, R382). -/
def settleSamples : Nat := 20480000

def meminitOn (stuck : List Nat) : State → State := inPhase 6 (fun s =>
  if stuck.any (fun c => decide (c < channels s)) then failPhase s 7
  else
    let s := { s with mem := [], memMeta := [], ranges := [], keys := 0, memErr := [], unfixedDev := [], injected := [], rewritten := [], rowErrors := [], faultyRows := []
                      rng := { samples := settleSamples } }
    endPhase s 6)

def execMeminit (stuck : List Nat) (s : State) : Result := always s (meminitOn stuck)

-- DESIGN CHOICE, safe: notes/assumptions/122.md.
/-- The nonce of R405 is drawn; without randomness its value is open. -/
def drawNonce (s : State) : State :=
  let (v, s) := if s.enclave.drbgSeed.isSome then drawDrbg s
    else
      let (b, s) := drawBytes s 32
      (BitVec.ofNat 256 (ofLE b), s)
  setWords s (reg 3074 0x40) v

/-- Phase 7 ends at RUNNING or at the alarm: the known-answer test, then 2^20 samples that pass, whose last 2,048 make the block
that instantiates the DRBG. -/
def rngTestOn (katOk : Bool) (raw : BitVec 2048) : State → State := inPhase 7 (fun s =>
  if rnSource s = 3 then endPhase (drawNonce s) 7
  else if rnSource s ≠ 0 then s
  else if katOk = false then endPhase (drawNonce (rngFatal s)) 7
  else
    let r := { s.rng with samples := s.rng.samples + (2 ^ 20 - 2048) }
    match makeBlock raw r with
    | .error (apt, r) => rngFail { s with rng := r } apt
    | .ok (b, r) =>
      let s := setSource { s with rng := r, enclave := { s.enclave with drbgSeed := some b, drbgCount := 0 } } 1
      let s := setFld s seStatus 0 3 1
      endPhase (drawNonce s) 7)

def execRngTest (katOk : Bool) (raw : BitVec 2048) (s : State) : Result := always s (rngTestOn katOk raw)

-- DEDUCED, unsafe: notes/assumptions/123.md.
/-- READY, once the firmware area is sealed, which it is when the DRBG was instantiated (R298), and the link has trained (R337). -/
def readyOn : State → State := inPhase 8 (fun s =>
  if (s.enclave.drbgSeed.isSome && !s.areaSealed) || fld s (reg 3500 0x40) 0 3 == 0 then s
  else setFld (setFld s 0x44 0 16 (sinceT0 s)) 0x40 4 1 1)

def execReady (s : State) : Result := always s readyOn

/-! ### Function level reset (R373, R375) -/

/-- Registers of a view that a function level reset leaves: SE_FN_POLICY (R411) and the LOCK bit (Table 15-5). -/
def flrKeeps (a : Nat) : Bool := a == reg 3073 0x44 || a % 4096 == 0x0C

-- DEDUCED, unsafe: notes/assumptions/119.md.
/-- RW and W1C bits of common registers return to the Reset column; the power page keeps what the management controller set. -/
def clearWritable (t : Table U32) : Table U32 :=
  t.foldl (fun acc e =>
    let m : U32 := BitVec.ofNat 32 (match regSpec e.1 with | some r => if flrKeeps e.1 then 0 else Nat.lor r.rw r.w1c | none => 0)
    tset regReset acc e.1 ((regReset e.1 &&& m) ||| (e.2 &&& ~~~ m))) []

-- DESIGN CHOICE, unsafe: notes/assumptions/120.md.
/-- The keys of a sealed partition go, and it is rewritten as zero under new ones; without randomness it is left in plaintext. -/
def flrSeal (s : State) (fn : Nat) : State :=
  if !(sealOf s fn).enabled then s
  else if approved s then
    let s := sealAnew s fn
    setSeal s fn { sealOf s fn with byFlr := true }
  else
    let p := partition s fn
    zeroRange (setSeal s fn { zeroing := true, byFlr := true }) p.1 p.2 {}

/-- An unwrap in progress stops, and what it has written is open (R410); the upload key is zeroised (R408). -/
def flrUpload (s : State) (fn : Nat) : State :=
  let s := if unwrapState s fn = 1 then
      let u := uploadOf s fn
      unfix s { addr := u.dst, len := leAt (peekDev s u.src 16) 8 8 }
    else s
  { s with enclave := { s.enclave with uploads := s.enclave.uploads.filter (fun e => e.1 != fn) } }

-- DEDUCED, safe: notes/assumptions/114.md.
/-- One function: queues, plans, contexts, sync objects, sealing, enclave view, random view. -/
def flrOne (s : State) (fn : Nat) : State :=
  let c := fnOf s fn
  let qs := (s.queues.map (·.1)).filter (fun q => decide (c.qBase ≤ q) && decide (q < c.qBase + c.qCount))
  let s := qs.foldl (fun s q => if (queueOf s q).state = .disabled then s else drain (makeGuilty s q stAborted (outcome stAborted 3 0)) q) s
  let s := qs.foldl (fun s q => setQueue s q {}) s
  let s := { s with plans := s.plans.filter (fun e => e.2.fn != fn) }
  let cs := (s.ctxs.map (·.1)).filter (fun x => decide (c.ctxBase ≤ x) && decide (x < c.ctxBase + c.ctxCount))
  let s := cs.foldl (fun s x => setCtx (dropFrame s (ctxOf s x)) x {}) s
  let s := { s with syncs := s.syncs.filter (fun e => !(decide (c.syncBase ≤ e.1) && decide (e.1 ≤ c.syncBase + c.syncCount))) }
  let s := flrUpload (flrSeal s fn) fn
  { s with
    fnRegs := s.fnRegs.filter (fun e => e.1 / 2 ^ 24 != fn || flrKeeps (e.1 % 2 ^ 24))
    captures := s.captures.filter (fun e => e.1 / 2 ^ 24 != fn)
    peat := { s.peat with viewState := tdel s.peat.viewState fn, viewData := tdel s.peat.viewData fn, viewWant := tdel s.peat.viewWant fn }
    rng := { s.rng with holdState := tdel s.rng.holdState fn, holdBlock := tdel s.rng.holdBlock fn
                        waiters := s.rng.waiters.filter (fun w => !(w.rank == 3 && !w.queue && w.who == fn)) } }

/-- PCIe configuration state of a function. -/
def flrConfig (s : State) (fn : Nat) : State :=
  let P := s.pcie
  let mine := fun (e : Nat × Bool) => e.1 / 2048 == fn
  let P := { P with
             unmasked := P.unmasked.filter (fun e => !mine e), pending := P.pending.filter (fun e => !mine e)
             msixTable := P.msixTable.filter (fun e => e.1 / 2 ^ 16 != fn)
             atsEnable := P.atsEnable.filter (· != fn), aer := P.aer.filter (fun e => e.fn != fn) }
  let P := if fn = 0 then { P with memEnable := false, busMaster := false, pmeEn := false, vfEnable := false, vfMemEnable := false
                                   numVfs := 0, ari := false, bars := [], sysPage := 1, devControl2 := 0
                                   devControl := 0x2810 + 2 ^ 5 * bits P.devControl 5 3 } else P
  { s with pcie := P }

def flrOn (fn : Nat) (s : State) : State :=
  if s.board.mainOk = false ∨ s.board.perst = true ∨ fnPresent s fn = false then s
  else
    let ready := isReady s
    let fns := if fn = 0 then List.range 16 else [fn]
    let s := if ready then fns.foldl flrOne s else s
    let s := if ready && fn == 0 then
        let s := { s with regs := clearWritable s.regs, fns := [] }
        retarget (retarget s .west) .east
      else s
    fns.foldl flrConfig s

def execFlr (fn : Nat) (s : State) : Result := onFn fn s (flrOn fn)

/-! ### Firmware update (R377) -/

/-- The slot that is not booted. -/
def setInactive (s : State) (x : Slot) : State :=
  { s with flash := if fld s 0x40 12 1 = 1 then { s.flash with slotA := x } else { s.flash with slotB := x } }

def firmwareUpdateOn (step : UpdateStep) (s : State) : State :=
  if awake s = false ∨ (isReady s = false ∧ phaseOf s ≠ 15) then s
  else match step with
    | .begin =>
      let s := flushLife s
      setInactive { s with flash := { s.flash with update := 1, updateSlot := {} } } {}
    | .image d v =>
      if s.flash.update = 1 then { s with flash := { s.flash with update := 2, updateSlot := { digest := d, svn := v } } } else s
    | .signature ok =>
      if s.flash.update = 2 then { s with flash := { s.flash with update := 3, updateSlot := { s.flash.updateSlot with valid := ok } } } else s
    | .sequence n =>
      if s.flash.update = 3 then setInactive { s with flash := { s.flash with update := 0 } } { s.flash.updateSlot with seq := n } else s

def execFirmwareUpdate (step : UpdateStep) (s : State) : Result := always s (firmwareUpdateOn step)

end Sys2Proof.Machine
end

