-- ==== Sys2Proof/Machine/Security.lean ====
section
/-! DEFINITION. The services of the enclave (chapter 17): self-test on demand, commits, upload keys and unwraps, debug unlock, SPDM and
IDE key programming. -/

namespace Sys2Proof.Machine

/-- SE_STATUS.SELFTEST_BUSY. -/
def selftestBusy (s : State) : Bool := fld s seStatus 7 1 == 1

/-- SE_STATUS.DEBUG_OPEN. -/
def debugOpen (s : State) : Bool := fld s seStatus 3 1 == 1

/-- The function whose view of page 3073 an access reaches: the physical function selects it by SE_FNSEL. -/
def seView (s : State) (fn : Nat) : Nat := if fn = 0 then bits (seFn s 0 0x40) 0 4 else fn

/-! ### Commits (R396) -/

/-- Each minimum rises to the version that runs. -/
def commitMins (s : State) : State :=
  let f := s.flash
  showVersions { s with flash := { f with fwMin := max f.fwMin (bootedSlot s).svn, cfgMin := max f.cfgMin f.cfgSvn
                                          manifestMin := max f.manifestMin f.manifestSvn } }

/-- The enclave serves: every power-up test has passed, and it is not in ERROR. -/
def enclaveServes (s : State) : Bool := enclaveState s == 1 || enclaveState s == 2

def commitOn (fn : Nat) (s : State) : State := if fn = 0 ∧ enclaveServes s = true then commitMins s else s

/-- Written by the physical function, or asked for by the management controller. -/
def execCommit (fn : Nat) (management : Bool) (s : State) : Result :=
  if management then onFn fn s (fun s => if awake s then commitOn 0 s else s) else onBar0 fn s (commitOn fn)

/-! ### Upload keys (R408) -/

def dec64 (s : State) (fn off : Nat) : Nat := seFn s fn off + 2 ^ 32 * seFn s fn (off + 4)

/-- n bytes at a device address lie within a function's partition. -/
def inPartition (s : State) (fn a n : Nat) : Bool :=
  let p := partition s fn
  decide (p.1 ≤ a) && decide (a + n ≤ p.2)

-- DESIGN CHOICE, unsafe: notes/assumptions/127.md.
def generateOn (fn : Nat) (s : State) : State :=
  let f := seView s fn
  if unwrapState s f = 1 ∨ uploadState s f = 1 then s
  else setUploadState s f (if approved s then 1 else 3)

def execGenerate (fn : Nat) (s : State) : Result := onBar0 fn s (generateOn fn)

/-- A list of exactly n bytes. -/
def fitBytes (n : Nat) (b : List Byte) : List Byte := (b ++ List.replicate n 0).take n

/-- The pair is made from one DRBG output and tested; the encapsulation key goes to the function's buffer. -/
def uploadKeyReadyOn (fn : Nat) (pairOk : Bool) (s : State) : State :=
  if uploadState s fn ≠ 1 then s
  else if approved s = false then setUploadState s fn 3
  else if pairOk = false then
    let (v, s) := drawFree s
    enterError (setFld (setUploadState s fn 3) seStatus 8 8 v.toNat) 3
  else if inPartition s fn (dec64 s fn 0x48) 1184 = false then setUploadState s fn 3
  else
    let (seed, s) := drawDrbg s
    let ek := fitBytes 1184 (Config.mlkemEncapsKey seed)
    let s := writeDev s fn (dec64 s fn 0x48) ek
    let s := setUpload s fn { uploadOf s fn with keySeed := some seed, encapsKey := ek }
    let g := bits (seFn s fn 0x54) 2 16 + 1
    setUploadState (setSeFn s fn 0x54 (putBits (seFn s fn 0x54) 2 16 g)) fn 2

def execUploadKeyReady (fn : Nat) (pairOk : Bool) (s : State) : Result := onFn fn s (uploadKeyReadyOn fn pairOk)

def discardOn (fn : Nat) (s : State) : State :=
  let f := seView s fn
  if unwrapState s f = 1 then s else dropUpload s f

def execDiscard (fn : Nat) (s : State) : Result := onBar0 fn s (discardOn fn)

/-! ### Unwraps (R409, R410) -/

/-- "NRN-UPLOAD". -/
def uploadLabel : List Byte := [0x4E, 0x52, 0x4E, 0x2D, 0x55, 0x50, 0x4C, 0x4F, 0x41, 0x44]

-- DESIGN CHOICE, unsafe: notes/assumptions/128.md.
/-- Steps 1 and 2 of R410. -/
def startUnwrap (s : State) (fn : Nat) : State :=
  let src := dec64 s fn 0x58
  let dst := dec64 s fn 0x60
  if enclaveState s = 3 ∨ debugOpen s = true then setUnwrapState s fn 6
  else if inPartition s fn src 0x490 = false then setUnwrapState s fn 4
  else
    let (h, bad, s) := readDev s fn src 0x480
    let n := leAt h 8 8
    if inPartition s fn src (0x490 + n) = false ∨ inPartition s fn dst n = false then setUnwrapState s fn 4
    else if bad ≠ [] ∨ leAt h 0 4 ≠ 0x4E525550 ∨ leAt h 4 2 ≠ 1 ∨ n = 0 ∨ 2 ^ 40 < n ∨ leAt h 0x1C 4 ≠ 0 ∨ leAt h 0x460 32 ≠ 0 then
      setUnwrapState s fn 7
    else if (uploadOf s fn).keySeed.isNone ∨ leAt h 6 2 ≠ bits (seFn s fn 0x54) 2 16 then setUnwrapState s fn 5
    else setUnwrapState (setUpload s fn { uploadOf s fn with src, dst }) fn 1

def goOn (fn : Nat) (s : State) : State :=
  let f := seView s fn
  if unwrapState s f = 1 ∨ (uploadOf s f).heldGo = true then s
  else if selftestBusy s then setUpload s f { uploadOf s f with heldGo := true }
  else startUnwrap s f

def execGo (fn : Nat) (s : State) : Result := onBar0 fn s (goOn fn)

/-- The AES key of a package (R409). -/
def uploadKey (fn : Nat) (seed : BitVec 256) (pkg : List Byte) : BitVec 256 :=
  Config.shake256 (Config.mlkemDecaps seed ((pkg.drop 0x20).take 1088) ++ uploadLabel ++ toLE 1 fn ++ (pkg.drop 6).take 2 ++ (pkg.drop 0x10).take 12)

/-- The plaintext of a package of n payload bytes; none when the tag fails, or when a word of it cannot be read. -/
def openPackage (fn : Nat) (seed : BitVec 256) (pkg : List Byte) (n : Nat) (bad : List Nat) : Option (List Byte) :=
  if bad ≠ [] then none
  else Config.gcmDecrypt (uploadKey fn seed pkg) ((pkg.drop 0x10).take 12) (pkg.take 0x480) ((pkg.drop 0x480).take n) ((pkg.drop (0x480 + n)).take 16)

/-- Steps 3 and 4 end.  When the key went meanwhile, what stands at DST is open. -/
def unwrapDoneOn (fn : Nat) (s : State) : State :=
  if unwrapState s fn ≠ 1 then s
  else
    let u := uploadOf s fn
    let (hd, _, s) := readDev s fn u.src 16
    let n := leAt hd 8 8
    match u.keySeed with
    | none => setUnwrapState (unfix s { addr := u.dst, len := n }) fn 6
    | some seed =>
      let (pkg, bad, s) := readDev s fn u.src (0x490 + n)
      match openPackage fn seed pkg n bad with
      | some p => setUnwrapState (writeDev s fn u.dst (fitBytes n p)) fn 2
      | none => setUnwrapState (writeDev s fn u.dst (List.replicate n 0)) fn 3

def execUnwrapDone (fn : Nat) (s : State) : Result := onFn fn s (unwrapDoneOn fn)

/-! ### Debug unlock (R405) -/

def dbgStatus : Nat := reg 3074 0x6C
def dbgState (s : State) : Nat := fld s dbgStatus 0 2

/-- Length of an ML-DSA-65 signature (FIPS 204), which follows the 64-byte body. -/
def tokenBytes : Nat := 64 + 3309

-- DESIGN CHOICE, unsafe: notes/assumptions/129.md.
/-- A token is taken: it is checked, or held while a self-test runs. -/
def takeToken (s : State) (b : List Byte) : State :=
  if enclaveServes s = false ∨ dbgState s = 1 ∨ dbgState s = 2 then s
  else setFld { s with enclave := { s.enclave with token := b, heldToken := selftestBusy s } } dbgStatus 0 2 1

def presentOn (fn : Nat) (s : State) : State :=
  if fn ≠ 0 then s
  else
    let (b, _, s) := readDev s 0 (get64 s (reg 3074 0x60)) tokenBytes
    takeToken s b

/-- By the physical function, or by the management controller over MCTP. -/
def execPresent (fn : Nat) (mctp : Option (List Byte)) (s : State) : Result :=
  match mctp with
  | some b => onFn fn s (fun s => if awake s then takeToken s b else s)
  | none => onBar0 fn s (presentOn fn)

/-- SE_DBG_NONCE. -/
def dbgNonce (s : State) : BitVec 256 :=
  BitVec.ofNat 256 (((List.range 8).map (fun i => getReg s 0 (reg 3074 (0x40 + 4 * i)) * 2 ^ (32 * i))).sum)

-- DESIGN CHOICE, safe: notes/assumptions/16.md.
/-- The level that a token grants, when it verifies. -/
def tokenLevel (s : State) : Option Nat :=
  let b := s.enclave.token
  let t := Config.tokenRead (b.take 64)
  if t.serial = Config.serial ∧ t.nonce = dbgNonce s ∧ (t.level = 1 ∨ t.level = 2) ∧ t.zeros = true
      ∧ s.flash.debugKeys.any (fun k => Config.mldsaVerify k (b.take 64) (b.drop 64)) = true then some t.level
  else none

def unlockTokenCheckedOn (s : State) : State :=
  if dbgState s ≠ 1 ∨ selftestBusy s = true then s
  else match tokenLevel s with
    | some n =>
      let s := zeroiseAll (leaveApproved s 2 1)
      let s := setFld (setFld (setFld s seStatus 3 1 1) dbgStatus 0 2 2) dbgStatus 2 2 n
      { s with enclave := { s.enclave with debugLevel := n } }
    | none => setFld s dbgStatus 0 2 3

def execUnlockTokenChecked (s : State) : Result := always s unlockTokenCheckedOn

/-! ### SPDM (R406) -/

def reply (s : State) (t : Transport) (b : List Byte) : State :=
  { s with enclave := { s.enclave with replies := s.enclave.replies ++ [{ transport := t, body := b }] } }
def replyError (s : State) (t : Transport) (e : SpdmError) : State :=
  { s with enclave := { s.enclave with replies := s.enclave.replies ++ [{ transport := t, error := some e }] } }

/-- The transport is there: a mailbox of a present function, or the endpoint on the management bus, from the end of phase 2, in D0
and D3hot (R364, R467, R401). -/
def transportUp (s : State) (t : Transport) : Bool :=
  s.board.mainOk && !s.board.perst && configUp s && (match t with | .doe fn => fnPresent s fn | .mctp => true)

/-- The function on whose behalf a transport asks. -/
def Transport.fn : Transport → Nat
  | .doe fn => fn
  | .mctp => 0

-- DESIGN CHOICE, unsafe: notes/assumptions/131.md.
/-- A measurement block (Table 17-4). -/
def measurement (s : State) (t : Transport) (i : Nat) : List Byte :=
  let fn := Transport.fn t
  if i = 1 then toLE 32 (Config.measured 1).toNat
  else if i = 2 then toLE 32 (Config.measured 2).toNat ++ toLE 1 s.flash.manifestSvn
  else if i = 3 then toLE 32 (bootedSlot s).digest.toNat ++ toLE 1 (fld s 0x40 12 1) ++ toLE 1 (bootedSlot s).svn
  else if i = 4 then toLE 32 (Config.measured 4).toNat
  else if i = 5 then fitBytes 8 (Config.spdmBody 5 (toLE 4 (getReg s 0 seStatus) ++ toLE 4 (getReg s 0 seReason) ++ toLE 1 s.enclave.debugLevel))
  else if i = 6 then toLE 1 s.flash.fwMin ++ toLE 1 s.flash.cfgMin ++ toLE 1 s.flash.manifestMin
  else if i = 7 then toLE 4 (seFn s fn 0x44)
  else if (uploadOf s fn).encapsKey = [] then List.replicate 32 0
  else toLE 32 (Config.shake256 (uploadOf s fn).encapsKey).toNat

/-- The identity signature over a transcript, while the private key is held and no debug unlock has been made. -/
def signature (s : State) (b : List Byte) : Option (List Byte) :=
  if debugOpen s then none else s.enclave.identity.map (fun k => Config.mldsaSign k b)

/-- The open session of a number on a transport. -/
def sessionOf (s : State) (t : Transport) (n : Nat) : Option Session := s.enclave.sessions.find? (fun x => x.id == n && x.transport == t)

-- DESIGN CHOICE, unsafe: notes/assumptions/130.md.
def spdmGetVersion (s : State) (t : Transport) : State := reply s t (Config.spdmBody 0x84 [])

/-- A request that ERROR and a debug unlock leave unanswered (R400, R405). -/
def spdmOpen (s : State) (t : Transport) (f : State → State) : State :=
  if enclaveState s = 3 ∨ debugOpen s = true then replyError s t .refused else f s

def spdmGetDigests (s : State) (t : Transport) : State := spdmOpen s t (fun s => reply s t (Config.spdmBody 0x81 []))

/-- Slot 0 holds the chain; no other slot is there. -/
def spdmGetCertificate (s : State) (t : Transport) (slot off len : Nat) : State :=
  spdmOpen s t (fun s => if slot = 0 then reply s t (Config.spdmBody 0x82 (toLE 2 off ++ toLE 2 len)) else replyError s t .refused)

def spdmChallenge (s : State) (t : Transport) (nonce : BitVec 256) : State :=
  spdmOpen s t (fun s =>
    let b := Config.spdmBody 0x83 (toLE 32 nonce.toNat)
    match signature s b with
    | some g => reply s t (b ++ g)
    | none => replyError s t .refused)

/-- Measurements are answered after a debug unlock too, unsigned. -/
def spdmGetMeasurements (s : State) (t : Transport) (i : Nat) (nonce : BitVec 256) : State :=
  if enclaveState s = 3 ∨ i = 0 ∨ 8 < i then replyError s t .refused
  else
    let b := measurement s t i
    reply s t (b ++ (signature s (Config.spdmBody 0xE0 (toLE 32 nonce.toNat ++ toLE 1 i ++ b))).getD [])

/-- A session needs new randomness (R399); at most 8 are open. -/
def spdmKeyExchange (s : State) (t : Transport) : State :=
  spdmOpen s t (fun s =>
    if approved s = false then replyError s t .refused
    else if 8 ≤ s.enclave.sessions.length then replyError s t .sessionLimit
    else
      let (v, s) := drawDrbg s
      let n := s.enclave.nextSession
      let s := setSessions s (s.enclave.sessions ++ [{ id := n, transport := t }])
      reply { s with enclave := { s.enclave with nextSession := n + 1 } } t (Config.spdmBody 0xE4 (toLE 2 n ++ toLE 32 v.toNat)))

def spdmFinish (s : State) (t : Transport) (n : Nat) : State :=
  spdmOpen s t (fun s =>
    match sessionOf s t n with
    | some x =>
      if x.finished then replyError s t .refused
      else reply (setSessions s (s.enclave.sessions.map (fun y => if y.id = n then { y with finished := true } else y))) t (Config.spdmBody 0xE5 (toLE 2 n))
    | none => replyError s t .refused)

def spdmHeartbeat (s : State) (t : Transport) (n : Nat) : State :=
  spdmOpen s t (fun s =>
    match sessionOf s t n with
    | some x => if x.finished then reply s t (Config.spdmBody 0xE8 (toLE 2 n)) else replyError s t .refused
    | none => replyError s t .refused)

def spdmEndSession (s : State) (t : Transport) (n : Nat) : State :=
  spdmOpen s t (fun s =>
    match sessionOf s t n with
    | some _ => reply (setSessions s (s.enclave.sessions.filter (fun y => y.id != n))) t (Config.spdmBody 0xEC (toLE 2 n))
    | none => replyError s t .refused)

/-- IDE keys come only inside a secured session on the physical function's mailbox (R407), and not without randomness (R399): one
link stream and 8 selective streams (Table 14-6). -/
def spdmIdeKm (s : State) (t : Transport) (n stream : Nat) (key : BitVec 256) : State :=
  spdmOpen s t (fun s =>
    if t ≠ .doe 0 ∨ approved s = false ∨ 9 ≤ stream ∨ ((sessionOf s t n).map (·.finished)).getD false = false then replyError s t .refused
    else reply { s with enclave := { s.enclave with ideKeys := tput s.enclave.ideKeys stream key } } t (Config.spdmBody 0xFE (toLE 2 n)))

/-- What a held or present request does. -/
def spdmServe (s : State) (i : Instr) : State :=
  match i with
  | .getVersion t => spdmGetVersion s t
  | .getDigests t => spdmGetDigests s t
  | .getCertificate t slot off len => spdmGetCertificate s t slot off len
  | .challenge t nonce => spdmChallenge s t nonce
  | .getMeasurements t i nonce => spdmGetMeasurements s t i nonce
  | .keyExchange t => spdmKeyExchange s t
  | .finish t n => spdmFinish s t n
  | .heartbeat t n => spdmHeartbeat s t n
  | .endSession t n => spdmEndSession s t n
  | .ideKm t n stream key => spdmIdeKm s t n stream key
  | _ => s

/-- A request arrives: held while an on-demand self-test runs (R403). -/
def spdmRequest (t : Transport) (i : Instr) (s : State) : State :=
  if transportUp s t = false then s
  else if selftestBusy s then { s with enclave := { s.enclave with heldRequests := s.enclave.heldRequests ++ [i] } }
  else spdmServe s i

/-- A mailbox of a function, or the management endpoint. -/
def onTransport (t : Transport) (s : State) (f : State → State) : Result := onFn (Transport.fn t) s f

def execGetVersion (t : Transport) (s : State) : Result := onTransport t s (spdmRequest t (.getVersion t))
def execGetDigests (t : Transport) (s : State) : Result := onTransport t s (spdmRequest t (.getDigests t))
def execGetCertificate (t : Transport) (slot offset len : Nat) (s : State) : Result :=
  onTransport t s (spdmRequest t (.getCertificate t slot offset len))
def execChallenge (t : Transport) (nonce : BitVec 256) (s : State) : Result := onTransport t s (spdmRequest t (.challenge t nonce))
def execGetMeasurements (t : Transport) (index : Nat) (nonce : BitVec 256) (s : State) : Result :=
  onTransport t s (spdmRequest t (.getMeasurements t index nonce))
def execKeyExchange (t : Transport) (s : State) : Result := onTransport t s (spdmRequest t (.keyExchange t))
def execFinish (t : Transport) (session : Nat) (s : State) : Result := onTransport t s (spdmRequest t (.finish t session))
def execHeartbeat (t : Transport) (session : Nat) (s : State) : Result := onTransport t s (spdmRequest t (.heartbeat t session))
def execEndSession (t : Transport) (session : Nat) (s : State) : Result := onTransport t s (spdmRequest t (.endSession t session))
def execIdeKm (t : Transport) (session stream : Nat) (key : BitVec 256) (s : State) : Result :=
  onTransport t s (spdmRequest t (.ideKm t session stream key))

/-! ### Self-test on demand (R403) -/

def seSelftestOn (fn : Nat) (s : State) : State := if fn ≠ 0 ∨ enclaveServes s = false then s else setFld s seStatus 7 1 1

def execSeSelftest (fn : Nat) (s : State) : Result := onBar0 fn s (seSelftestOn fn)

/-- What the tests held goes on: unwraps in function order, then SPDM requests in order of arrival; a token is checked from now on. -/
def releaseHeld (s : State) : State :=
  let s := (List.range 16).foldl (fun s fn =>
    if (uploadOf s fn).heldGo then startUnwrap (setUpload s fn { uploadOf s fn with heldGo := false }) fn else s) s
  let rs := s.enclave.heldRequests
  let s := { s with enclave := { s.enclave with heldRequests := [], heldToken := false } }
  rs.foldl spdmServe s

/-- The tests end: all passed, or the first that failed is named and the enclave enters ERROR. -/
def seSelftestDoneOn (failTest : Nat) (s : State) : State :=
  if selftestBusy s = false then s
  else
    let s := setFld s seStatus 7 1 0
    releaseHeld (if failTest % 256 = 0 then s else enterError (setFld s seStatus 8 8 failTest) 3)

def execSeSelftestDone (failTest : Nat) (s : State) : Result := always s (seSelftestDoneOn failTest)

end Sys2Proof.Machine
end

