-- ==== Sys2Proof/Machine/PeatRows.lean ====
section
/-! DEFINITION. The peat log's commands and the lifetime store's (R428 to R434). -/

namespace Sys2Proof.Machine

def peatBlock : Nat := blockId 0x50 0 0

/-! ### Clearing (R431) -/

/-- Who cleared, as the record names it: a function, or 0x20 for the management controller. -/
def clearerMgmt : Nat := 0x20

-- DESIGN CHOICE, unsafe: notes/assumptions/134.md.
/-- Empties a layer, then writes LOG_CLEARED. -/
def clearLayer (s : State) (deep : Bool) (who : Nat) : State :=
  let p := s.peat
  let p := if deep then { p with deep := [], flashDeep := [] }
    else { p with surface := [], flashSurface := if p.direct then [] else p.flashSurface }
  let s := addLife { s with peat := p } 168 1
  let s := logEvent s peatBlock 0xB01 (if who < 16 then who else noFn)
    (toLE 1 (if deep then 1 else 0) ++ toLE 1 who ++ toLE 4 (lifeOf s 168) ++ toLE 4 s.peat.lastClear.toNat)
  { s with peat := { s.peat with lastClear := s.peat.seq } }

def execPlClearSurface (fn : Nat) (s : State) : Result := onBar0 fn s (fun s => clearLayer s false fn)
def execPlClearDeep (fn : Nat) (s : State) : Result := onBar0 fn s (fun s => clearLayer s true fn)

/-! ### Failure of the record SRAM (R433) -/

/-- The surface records not yet in flash are lost, and the log goes on in flash. -/
def sramFailed (s : State) : State :=
  if s.peat.direct then s
  else
    let lost := s.peat.surface.filter (fun r => !s.peat.flashSurface.any (fun x => x.seq == r.seq))
    let seqOf := fun (r : Option LogRec) => ((r.map (fun r => r.seq.toNat)).getD 0)
    let s := lastWord s 0x0101
    let s := { s with peat := { s.peat with direct := true, surface := s.peat.flashSurface, deep := s.peat.flashDeep } }
    logEvent s peatBlock 0xB02 noFn (toLE 4 (seqOf lost.head?) ++ toLE 4 (seqOf lost.getLast?))

/-! ### Reading (R429) -/

/-- The 64 bytes of a record (Table 18-4). -/
def recordImage (r : LogRec) : List Byte :=
  toLE 4 r.seq.toNat ++ toLE 4 r.block.toNat ++ toLE 8 r.time.toNat ++ toLE 2 r.code ++ toLE 1 r.severity ++ toLE 1 r.flags
    ++ toLE 4 r.storm.toNat ++ toLE 1 r.fn ++ List.replicate 7 0 ++ r.payload

/-- The key of a reader's view. -/
def viewKey : LogReader → Nat
  | .function fn => fn
  | .management _ => 16

/-- The layer that a reader names: 0 surface, 1 deep. -/
def viewLayer (s : State) : LogReader → Nat
  | .function fn => bits (getReg s fn (reg 3201 0x40)) 0 1
  | .management layer => layer

/-- PL_RSTATUS.STATE and the latched bytes. -/
def setView (s : State) (k st : Nat) (b : List Byte) : State :=
  { s with peat := { s.peat with viewState := tset (fun _ => 0) s.peat.viewState k st, viewData := tset (fun _ => []) s.peat.viewData k b } }

/-- VALID with the record, or GONE with zeros. -/
def latch (s : State) (k layer seq : Nat) : State :=
  let l := if layer = 0 then s.peat.surface else s.peat.deep
  match l.find? (fun r => r.seq.toNat == seq) with
  | some r => setView s k 0 (recordImage r)
  | none => setView s k 1 []

def plRselSeqOn (reader : LogReader) (seq : U32) (sramBad : Bool) (s : State) : State :=
  let s := match reader with
    | .function fn => setReg s fn (reg 3201 0x44) seq.toNat
    | .management _ => s
  let s := if sramBad then sramFailed s else s
  let k := viewKey reader
  if s.peat.direct then
    setView { s with peat := { s.peat with viewWant := tput s.peat.viewWant k (viewLayer s reader, seq.toNat) } } k 2 []
  else latch s k (viewLayer s reader) seq.toNat

def execPlRselSeqWrite (reader : LogReader) (seq : U32) (sramBad : Bool) (s : State) : Result :=
  match reader with
  | .function fn => onBar0 fn s (plRselSeqOn (.function fn) seq sramBad)
  | .management layer => onIndex layer 2 s (fun s => if awake s && configUp s then plRselSeqOn (.management layer) seq sramBad s else s)

def plLatchDoneOn (reader : LogReader) (s : State) : State :=
  let k := viewKey reader
  match tget (fun _ => 0) s.peat.viewState k, s.peat.viewWant.find? (fun e => e.1 == k) with
  | 2, some e => latch { s with peat := { s.peat with viewWant := tdel s.peat.viewWant k } } k e.2.1 e.2.2
  | _, _ => s

def execPlLatchDone (reader : LogReader) (s : State) : Result :=
  match reader with
  | .function fn => onFn fn s (plLatchDoneOn (.function fn))
  | .management layer => onIndex layer 2 s (plLatchDoneOn (.management layer))

/-! ### Flushing and storms (R428, R432) -/

def surfaceFlushOn (sramBad : Bool) (s : State) : State :=
  if awake s = false ∨ s.peat.direct = true then s else if sramBad then sramFailed s else flushPeat s

def execSurfaceFlush (sramBad : Bool) (s : State) : Result := always s (surfaceFlushOn sramBad)

/-- The last suppressed event of a code is written with SUMMARY set, 1 ms after its counter became nonzero; in FLASH_DIRECT not
within 1 ms of another record (R433). -/
def stormSummaryOn (code : Nat) (s : State) : State :=
  match s.peat.storms.find? (fun e => e.1 == code) with
  | some e =>
    if awake s = false ∨ (s.us - e.2.since) * 100 < 98000 ∨ (s.peat.direct = true ∧ s.us < s.peat.lastDirect + 1000) then s
    else
      let t := writeRecord s { e.2.last with flags := 1 }
      if s.peat.direct then { t with peat := { t.peat with lastDirect := s.us } } else t
  | none => s

def execStormSummary (code : Nat) (s : State) : Result := always s (stormSummaryOn code)

/-! ### Lifetime (R434) -/

def lifetimeFlushOn (s : State) : State := if awake s then flushLife s else s

def execLifetimeFlush (s : State) : Result := always s lifetimeFlushOn

/-- Bin of the highest junction: 5 °C each from −10 °C. -/
def junctionBin (t : Int) : Nat := if t < -10 then 0 else min ((t + 10) / 5).toNat 31

def lifetimeMinuteOn (s : State) : State :=
  if awake s = false then s
  else
    let s := addLife s (min (fld s (reg 4 0x48) 0 3) 5) 1
    let east := eastDown s
    let s := if east then s else addLife s (6 + min (fld s (reg 4 0x48) 4 3) 5) 1
    let t := if east then junction s .west else max (junction s .west) (junction s .east)
    addCount (addLife s (14 + junctionBin t) 1) (reg 3300 0x4C) 1

def execLifetimeMinute (s : State) : Result := always s lifetimeMinuteOn

end Sys2Proof.Machine
end

