-- ==== Sys2Proof/Machine/Management.lean ====
section
/-! DEFINITION. The PLDM effecters and sensors of the firmware endpoint (R467, R469). -/

namespace Sys2Proof.Machine

/-- The endpoint answers from the end of phase 2, in D0 and D3hot (R467). -/
def endpointUp (s : State) : Bool := s.board.mainOk && s.board.auxOk && !s.board.perst && configUp s

/-- Completion codes of a PLDM answer: success, or an error. -/
def pldmError : Nat := 1

-- DESIGN CHOICE, unsafe: notes/assumptions/133.md.
/-- Effecters of Table 20-5.  Effecter 17 takes the half in `field` (0 West, 1 East), and 19 the action: 0 orderly shutdown, 1 clear
the surface layer, 2 clear the deep layer. -/
def pldmEffecter (s : State) (id field value : Nat) : Option State :=
  if id = 16 then (if 200 ≤ value ∧ value ≤ 750 then some (setReg s 0 (reg 4 0x58) value) else none)
  else if id = 17 then
    if 5 < value then none
    else if field = 0 then some (retarget (setFld s (reg 4 0x44) 0 3 value) .west)
    else if field = 1 then some (retarget (setFld s (reg 4 0x44) 4 3 value) .east)
    else none
  else if id = 18 then (if 70 ≤ value ∧ value ≤ 105 then some (setReg s 0 (reg 4 0x60) value) else none)
  else if id = 19 then
    if field = 0 then some (flushLife s)
    else if field = 1 then some (clearLayer s false clearerMgmt)
    else if field = 2 then some (clearLayer s true clearerMgmt)
    else none
  else none

def pldmEffecterSetOn (id field value : Nat) (s : State) : State :=
  if endpointUp s = false then s
  else match pldmEffecter s id field value with
    | some s => answer s []
    | none => answerStatus s pldmError

def execPldmEffecterSet (id field : Nat) (value : Nat) (s : State) : Result := always s (pldmEffecterSetOn id field value)

/-- The value of a sensor (Table 20-5). -/
def pldmSensor (s : State) (id : Nat) : Option Nat :=
  if id = 1 then some (bits (getReg s 0 (beatReg .west)) 16 8)
  else if id = 2 then some (bits (getReg s 0 (beatReg .east)) 16 8)
  else if id = 3 then some (fld s powerStatus 0 10)
  else if id = 4 then some s.limiter.mainMv
  else if id = 5 then some (getReg s 0 (reg 1 0x40))
  else if id = 6 then some (bits (getReg s 0 0x40) 0 12)
  else none

def pldmSensorReadOn (id : Nat) (s : State) : State :=
  if endpointUp s = false then s
  else match pldmSensor s id with
    | some v => answer s (toLE 4 v)
    | none => answerStatus s pldmError

def execPldmSensorRead (id : Nat) (s : State) : Result := always s (pldmSensorReadOn id)

end Sys2Proof.Machine
end

