-- ==== Sys2Proof/Machine/Tensor.lean ====
section
/-! DEFINITION. The tensor tiles (chapter 7): BUILD and RESCORE start a chain (R197, R198), one row runs the descriptor the chain stands at
(R171 to R182), and the chain's end ends the stage (R199).  TT_CLEAR and the counters of the TT_ page (R184). -/

namespace Sys2Proof.Machine

/-! ### Chains -/

/-- Who runs a descriptor: queue, function and the plan's spans. -/
structure TEnv where
  q : Nat
  fn : Nat
  spans : List Span
  deriving DecidableEq, Repr

/-- Events that the counters of Table 7-10 count for one descriptor. -/
structure Tally where
  sat : Nat := 0
  nonfinite : Nat := 0
  range : Nat := 0
  drop : Nat := 0
  exits : Nat := 0
  skip : Nat := 0
  deriving DecidableEq, Repr

def Tally.add (a b : Tally) : Tally :=
  { sat := a.sat + b.sat, nonfinite := a.nonfinite + b.nonfinite, range := a.range + b.range, drop := a.drop + b.drop
    exits := a.exits + b.exits, skip := a.skip + b.skip }

/-- The run of a queue whose BUILD or RESCORE chain is in progress. -/
def chainAt (s : State) (q : Nat) : Option (Run × Chain) :=
  match (atStage s q 0).orElse (fun _ => atStage s q 3) with
  | some r => r.chain.map (fun c => (r, c))
  | none => none

-- DESIGN CHOICE, safe: notes/assumptions/61.md.
/-- A number of events shared among tiles; each tile's share is open, by R166 and Table 9-2. -/
def shareOut (s : State) (f : State → Nat → Nat → State) : List Nat → Nat → State
  | [], _ => s
  | [t], n => f s t n
  | t :: ts, n =>
    let (v, s) := drawFree s
    let k := v.toNat % (n + 1)
    shareOut (f s t k) f ts (n - k)

def addTT (off : Nat) (s : State) (t n : Nat) : State := addSat s (reg (512 + t) off) n

/-- Counters after a descriptor; the MACs that fall to a tile depend on timing (Table 9-2). -/
def countDesc (s : State) (tiles : List Nat) (c : Tally) : State :=
  let s := tiles.foldl (fun s t => add64 s (reg (512 + t) 0x50) 1) s
  let s := tiles.foldl (fun s t => let (v, s) := drawFree s; add64 s (reg (512 + t) 0x48) v.toNat) s
  let s := shareOut s (addTT 0x58) tiles c.sat
  let s := shareOut s (addTT 0x5C) tiles c.nonfinite
  let s := shareOut s (addTT 0x60) tiles c.range
  let s := shareOut s (addTT 0x64) tiles c.drop
  let s := tiles.foldl (fun s t => addTT 0x68 s t c.exits) s
  shareOut s (addTT 0x6C) tiles c.skip

/-! ### Operands (R170) -/

/-- Free bytes in an action. -/
def drawAct (n : Nat) : Act (List Byte) := ExceptT.lift (modifyGet (fun s => drawBytes s n))

/-- len bytes at offset off of an operand; what lies beyond its buffer or local memory is open. -/
def refRead (e : TEnv) (ref off len : Nat) : Act (List Byte) := do
  let (at', base, room) := operandAt e.spans ref
  let n := min len (room - off)
  let b ← if at' = 2 then do
      let s ← ExceptT.lift get
      pure (localRead s e.q (base + off) n)
    else readAct 0 e.fn (spanOf e.spans ref) off n
  if n = len then pure b else do
    let x ← drawAct (len - n)
    pure (b ++ x)

/-- Writes bytes of an output, within its buffer. -/
def refWrite (e : TEnv) (ref off : Nat) (b : List Byte) : Act Unit :=
  ExceptT.lift (modify (fun s =>
    let (at', base, room) := operandAt e.spans ref
    let b := b.take (room - off)
    if at' = 2 then localWrite s e.q (base + off) b else writeSpan s e.fn (spanOf e.spans ref) off b))

/-- Element code i of a packed row (R160). -/
def codeAt (f : Nat) (b : List Byte) (i : Nat) : Nat :=
  let w := fmtBits f
  if w = 6 then bits (leAt b (3 * (i / 4)) 3) (6 * (i % 4)) 6
  else if w = 4 then bits (leAt b (i / 2) 1) (4 * (i % 2)) 4
  else leAt b (w / 8 * i) (w / 8)

/-- The codes of one row, and the scale bytes of its blocks. -/
structure Codes where
  codes : List Nat
  scales : List Nat
  deriving DecidableEq, Repr

/-- One row of an operand of `rows` rows of n elements. -/
def readCodes (e : TEnv) (ref f rows n stride r : Nat) : Act Codes := do
  let b ← refRead e ref (r * stride) (rowBytes f n)
  let k := ceilDiv n 32
  let sc ← if isMx f then refRead e ref (alignUp (rows * stride) 32 + r * k) k else pure []
  pure { codes := (List.range n).map (codeAt f b), scales := sc.map (·.toNat) }

def codeValue (f : Nat) (c : Codes) (i : Nat) : FV :=
  let v := elemValue f (c.codes.getD i 0)
  if isMx f then scaled v (c.scales.getD (i / 32) 0) else v

def Codes.values (f : Nat) (c : Codes) : List FV := (List.range c.codes.length).map (codeValue f c)

/-- Rows of FP32 patterns of an FP32 or BF16 operand. -/
def readF32 (e : TEnv) (ref f n off : Nat) : Act (List Nat) := do
  let w := fmtBits f / 8
  let b ← refRead e ref off (w * n)
  pure ((chunks w b n).map (fun v => toF32 (elemValue f v)))

/-- Elements packed into bytes (R160). -/
def packCodes (f : Nat) (cs : List Nat) : List Byte :=
  let w := fmtBits f
  if w = 6 then (List.range (cs.length / 4)).flatMap (fun g => toLE 3 (((cs.drop (4 * g)).take 4).zipIdx.map (fun e => e.1 * 2 ^ (6 * e.2))).sum)
  else if w = 4 then (List.range (cs.length / 2)).flatMap (fun g => toLE 1 (cs.getD (2 * g) 0 + 16 * cs.getD (2 * g + 1) 0))
  else cs.flatMap (toLE (w / 8))

/-- One row of FP32 patterns in a format: bytes, scales and counts (R162, R163). -/
def encodeRow (f : Nat) (vs : List Nat) : List Byte × List Byte × Tally :=
  if f = 0 then (vs.flatMap (toLE 4), [], {})
  else if f = 1 then (vs.flatMap (fun v => toLE 2 (toBf16 v)), [], {})
  else
    let blocks := (List.range (ceilDiv vs.length 32)).map (fun k => let b := (vs.drop (32 * k)).take 32; encodeBlock f (b ++ List.replicate (32 - b.length) 0))
    (blocks.flatMap (fun b => packCodes f b.2.1), blocks.flatMap (fun b => toLE 1 b.1)
    , { sat := (blocks.map (fun b => b.2.2.1)).sum, nonfinite := (blocks.filter (fun b => b.2.2.2)).length })

/-- Writes row r of an output of `rows` rows. -/
def writeRow (e : TEnv) (ref f rows stride r : Nat) (vs : List Nat) : Act Tally := do
  let (b, sc, c) := encodeRow f vs
  refWrite e ref (r * stride) b
  if isMx f then refWrite e ref (alignUp (rows * stride) 32 + r * ceilDiv vs.length 32) sc
  pure c

/-! ### Sums and the epilogue (R164, R165, R172) -/

def pairUp : List Nat → List Nat
  | a :: b :: r => addF a b :: pairUp r
  | r => r

/-- The fixed tree over 128 products. -/
def treeSum (t : List Nat) : Nat := ((List.range 7).foldl (fun t _ => pairUp t) t).headD 0

/-- R165 over FP32 products, n chunks. -/
def dotFrom (s : Nat) (p : List Nat) : Nat → Nat
  | 0 => s
  | n + 1 => let t := p.take 128; dotFrom (addF s (treeSum (t ++ List.replicate (128 - t.length) 0))) (p.drop 128) n

def dotSum (p : List Nat) : Nat := dotFrom 0 p (ceilDiv p.length 128)

/-- The product of two elements (R164). -/
def dotProduct (a b : List FV) : Nat := dotSum (List.zipWith (fun x y => toF32 (FV.product x y)) a b)

-- DEDUCED, safe: notes/assumptions/62.md.
/-- The epilogue on a sum; a CLAMP whose bound is no nonnegative number has no stated result. -/
def epilogue (d : TDesc) (v : Nat) : Act Nat :=
  let p := flushF (TDesc.epiParam d).toNat
  let k := TDesc.epilogue d
  if k = 1 then pure (maxF 0 v)
  else if k = 3 then pure (mulF v p)
  else if k = 2 then
    if isNaNF v then pure canonicalNaN
    else if isNaNF p || decide (numF p < 0) then do
      let s ← ExceptT.lift get
      let (x, s) := drawFree s
      ExceptT.lift (set s)
      pure (x.toNat % 2 ^ 32)
    else pure (if numF p < numF v then p else if numF v < -numF p then p + 2 ^ 31 else v)
  else pure v

/-- What a descriptor answers: where the chain goes on and what it counted; none when it failed (R176). -/
abbrev Step' := Option (Nat × Tally)

/-- Runs a step for each index, adding up. -/
def eachRow (f : Nat → Act Tally) (i : Nat) : Nat → Act Tally
  | 0 => pure {}
  | n + 1 => do
    let a ← f i
    let b ← eachRow f (i + 1) n
    pure (Tally.add a b)

/-! ### GEMM (R167, R168, R172, R181) -/

-- DESIGN CHOICE, unsafe: notes/assumptions/59.md.
/-- B as columns of values, each of length K, with the bad groups of TWO_OF_FOUR counted. -/
def gemmB (e : TEnv) (d : TDesc) : Act (List (List FV) × Nat) := do
  let n := TDesc.w d 0x24
  let k := TDesc.w d 0x28
  let f := TDesc.bFmt d
  let ldb := TDesc.w d 0x34
  let mode := TDesc.b d 0x2C
  if mode = 0 then do
    let cs ← (List.range n).mapM (fun r => readCodes e (TDesc.bRef d) f n k ldb r)
    pure (cs.map (Codes.values f), 0)
  else if mode = 1 then do
    let cs ← (List.range n).mapM (fun r => readCodes e (TDesc.bRef d) f n (k / 2) ldb r)
    let meta' ← refRead e (TDesc.w d 0x3C) 0 (n * ceilDiv k 8)
    let nib := fun r g => bits (leAt meta' (r * ceilDiv k 8 + g / 2) 1) (4 * (g % 2)) 4
    let bad := fun r g => decide (nib r g / 4 ≤ nib r g % 4)
    let row := fun (r : Nat) (c : Codes) => (List.range k).map (fun i =>
      let g := i / 4
      if bad r g then FV.fin false 0 0
      else if i % 4 = nib r g % 4 then codeValue f c (2 * g)
      else if i % 4 = nib r g / 4 then codeValue f c (2 * g + 1)
      else FV.fin false 0 0)
    pure (cs.zipIdx.map (fun e => row e.2 e.1), ((List.range n).map (fun r => (List.range (k / 4)).countP (bad r))).sum)
  else do
    let kb := ceilDiv k 64
    let nb := ceilDiv n 64
    let map ← refRead e (TDesc.w d 0x3C) 0 (ceilDiv (kb * nb) 8)
    let present := fun j => bits (leAt map (j / 8) 1) (j % 8) 1 == 1
    let list := (List.range (kb * nb)).filter present
    let cs ← (List.range (64 * list.length)).mapM (fun r => readCodes e (TDesc.bRef d) f (64 * list.length) 64 ldb r)
    let col := fun c => (List.range k).map (fun i =>
      let j := c / 64 * kb + i / 64
      match (list.findIdx? (· == j)) with
      | some p => codeValue f (cs.getD (64 * p + c % 64) { codes := [], scales := [] }) (i % 64)
      | none => FV.fin false 0 0)
    pure ((List.range n).map col, 0)

/-- Aligned groups of 32 A elements whose codes are all zero (R168). -/
def zeroGroups (c : Codes) : Nat := (List.range (ceilDiv c.codes.length 32)).countP (fun g => ((c.codes.drop (32 * g)).take 32).all (· == 0))

/-- The values of an A row as the array takes them: under ACT_SKIP a group of 32 zero codes is skipped, whatever its scale (R168). -/
def rowValues (d : TDesc) (a : Codes) : List FV :=
  (Codes.values (TDesc.aFmt d) a).mapIdx (fun i v =>
    if TDesc.b d 0x2D = 1 ∧ ((a.codes.drop (i / 32 * 32)).take 32).all (· == 0) = true then .fin false 0 0 else v)

/-- One output row: the sums of an A row, C's row, the epilogue and the gate. -/
def gemmRow (e : TEnv) (d : TDesc) (b : List (List FV)) (a : Codes) (r out rows : Nat) (gate : Option Nat) : Act Tally := do
  let n := TDesc.w d 0x24
  let c ← if TDesc.cRef d = 0 then pure [] else do
    let cb ← refRead e (TDesc.cRef d) (r * TDesc.w d 0x38) (4 * n)
    pure (chunks 4 cb n)
  let av := rowValues d a
  let vs ← b.zipIdx.mapM (fun col => do
    let s := dotProduct av col.1
    let s := match (c)[col.2]? with
      | some x => addF s x
      | none => s
    let v ← epilogue d s
    pure (match gate with
      | some g => mulF v g
      | none => v))
  let t ← writeRow e (TDesc.dRef d) (TDesc.dFmt d) rows (TDesc.w d 0x38) out vs
  pure { t with skip := t.skip + (if TDesc.b d 0x2D = 1 then zeroGroups a else 0) }

def gemmOp (e : TEnv) (ch : List TDesc) (i : Nat) (d : TDesc) : Act Step' := do
  let m := TDesc.w d 0x20
  let k := TDesc.w d 0x28
  let (b, bad) ← gemmB e d
  let rowA := fun r => readCodes e (TDesc.aRef d) (TDesc.aFmt d) m k (TDesc.w d 0x30) r
  let t ← if TDesc.b d 0x2E = 0xFF then
      eachRow (fun r => do
        let a ← rowA r
        gemmRow e d b a r r m none) 0 m
    else do
      let topK := (routeOf ch i (TDesc.w d 0x40)).1
      let tab ← refRead e (TDesc.w d 0x40) 0 (8 * m * topK)
      eachRow (fun j => if leAt tab (8 * j) 1 = TDesc.b d 0x2E then do
          let a ← rowA (j / topK)
          gemmRow e d b a (j / topK) j (m * topK) (some (leAt tab (8 * j + 4) 4))
        else pure {}) 0 (m * topK)
  pure (some (i + 1, { t with range := t.range + bad }))

/-! ### GEMV_SPX (R176) -/

/-- An s64 result that does not fit has no stated value. -/
def wrapS64 (v : Int) : Act Nat :=
  if -(2 ^ 63) ≤ v ∧ v < 2 ^ 63 then pure (unsigned 64 v) else do
    let s ← ExceptT.lift get
    let (x, s) := drawFree s
    ExceptT.lift (set s)
    pure x.toNat

/-- Blocks of 64 variables of [lo, lo + n) that lie in another range than j's: those that the fold of j reads (R157). -/
def foldBlocks (rs : List Range) (lo n j : Nat) : List Nat :=
  ((List.range (ceilDiv (lo + n) 64 - lo / 64)).map (· + lo / 64)).filter (fun q =>
    (rangeIndex rs j).isNone || rangeIndex rs j != rangeIndex rs (64 * q))

/-- Adds the fold of a change list to the sums of variables [lo, lo + n). -/
def spxRows (at' : ImageAt) (hd : ImageHdr) (rs : List Range) (lo n : Nat) : List (Nat × Int) → List Int → Act (List Int)
  | [], f => pure f
  | (j, dj) :: rest, f => do
    let row ← liftRead 0 (fun s => imagePart s at' hd j (foldBlocks rs lo n j))
    let units := fun k => match row.find? (fun b => b.1 == k / 64) with
      | some b => unitsOf (b.2.getD (k % 64) (0, 0))
      | none => 0
    spxRows at' hd rs lo n rest (f.mapIdx (fun x v => v + units (lo + x) * dj))

/-- Where the image of a GEMV_SPX lies. -/
def imageOf (e : TEnv) (d : TDesc) : ImageAt :=
  if inBuffer (TDesc.bRef d) then { fn := e.fn, main := spanOf e.spans (TDesc.bRef d) }
  else { fn := e.fn, main := {}, tile := some (e.q, (operandAt e.spans (TDesc.bRef d)).2.1) }

/-- Entries of one set of its range table, in local memory as in a buffer. -/
def setSize (e : TEnv) (b : List Byte) (d : TDesc) : Nat :=
  if inBuffer (TDesc.w d 0x24) then setEntries b (parsePlanHdr b) (TDesc.w d 0x24) (spanOf e.spans (TDesc.w d 0x24)).len
  else (operandAt e.spans (TDesc.w d 0x24)).2.2 / 16

def gemvOp (e : TEnv) (b : List Byte) (i : Nat) (d : TDesc) : Act Step' := do
  let count := TDesc.w d 0x20
  let lb ← refRead e (TDesc.aRef d) 0 (8 * count)
  let list := (List.range count).map (fun t => (leAt lb (8 * t) 4, signed 8 (leAt lb (8 * t + 4) 1)))
  let hb ← liftRead 0 (fun s => readImage s (imageOf e d) 0 64)
  let hd := parseImageHdr hb
  if list.any (fun x => decide (hd.np ≤ x.1)) || !(list.map (·.1)).Nodup then pure none
  else do
    let per := setSize e b d
    let tb ← refRead e (TDesc.w d 0x24) (16 * per * TDesc.w d 0x28) (16 * per)
    let rs := (rangeEntries tb per).map (·.1)
    let lo := TDesc.w d 0x2C
    let rows := TDesc.w d 0x30
    let n := min rows (hd.np - lo)
    let old ← refRead e (TDesc.dRef d) 0 (8 * rows)
    let f ← spxRows (imageOf e d) hd rs lo n list ((List.range n).map (fun k => signed 64 (leAt old (8 * k) 8)))
    let vs ← f.mapM wrapS64
    -- variables at and above N_P have no stated couplings
    let rest ← (List.range (rows - n)).mapM (fun _ => wrapS64 (2 ^ 63))
    refWrite e (TDesc.dRef d) 0 ((vs ++ rest).flatMap (toLE 8))
    pure (some (i + 1, {}))

/-! ### GATHER, SCATTER, SEGMENT_SUM (R173, R178) -/

/-- A row of FP32 patterns in FP32 or BF16. -/
def plainRow (f : Nat) (vs : List Nat) : List Byte := (encodeRow f vs).1

def gatherOp (e : TEnv) (i : Nat) (d : TDesc) : Act Step' := do
  let w := TDesc.w d 0x24
  let ib ← refRead e (TDesc.bRef d) 0 (4 * TDesc.w d 0x20)
  let t ← eachRow (fun r => do
    let x := leAt ib (4 * r) 4
    let out := fmtBits (TDesc.dFmt d) / 8 * w * r
    if TDesc.w d 0x28 ≤ x then do
      refWrite e (TDesc.dRef d) out (plainRow (TDesc.dFmt d) (List.replicate w 0))
      pure { range := 1 }
    else do
      let vs ← readF32 e (TDesc.aRef d) (TDesc.aFmt d) w (fmtBits (TDesc.aFmt d) / 8 * w * x)
      refWrite e (TDesc.dRef d) out (plainRow (TDesc.dFmt d) vs)
      pure {}) 0 (TDesc.w d 0x20)
  pure (some (i + 1, t))

-- DESIGN CHOICE, unsafe: notes/assumptions/58.md.
/-- Adds A's rows r on to the sums of D's rows, in list order. -/
def scatterAdd (e : TEnv) (d : TDesc) (ib : List Byte) (acc : Table (List Nat)) (r : Nat) : Nat → Act (Table (List Nat))
  | 0 => pure acc
  | n + 1 => do
    let w := TDesc.w d 0x24
    let x := leAt ib (4 * r) 4
    if TDesc.w d 0x28 ≤ x then scatterAdd e d ib acc (r + 1) n
    else do
      let vs ← readF32 e (TDesc.aRef d) (TDesc.aFmt d) w (fmtBits (TDesc.aFmt d) / 8 * w * r)
      let old ← match acc.find? (fun p => p.1 == x) with
        | some p => pure p.2
        | none => readF32 e (TDesc.dRef d) (TDesc.dFmt d) w (fmtBits (TDesc.dFmt d) / 8 * w * x)
      scatterAdd e d ib (tput acc x (List.zipWith addF old vs)) (r + 1) n

def scatterOp (e : TEnv) (i : Nat) (d : TDesc) : Act Step' := do
  let w := TDesc.w d 0x24
  let rows := TDesc.w d 0x20
  let wd := fmtBits (TDesc.dFmt d) / 8 * w
  let ib ← refRead e (TDesc.bRef d) 0 (4 * rows)
  let dropped := (List.range rows).countP (fun r => decide (TDesc.w d 0x28 ≤ leAt ib (4 * r) 4))
  if TDesc.b d 0x2C = 1 then do
    let acc ← scatterAdd e d ib [] 0 rows
    for p in acc do
      refWrite e (TDesc.dRef d) (wd * p.1) (plainRow (TDesc.dFmt d) p.2)
  else do
    let _ ← eachRow (fun r => do
      let x := leAt ib (4 * r) 4
      if TDesc.w d 0x28 ≤ x then pure {}
      else do
        let vs ← readF32 e (TDesc.aRef d) (TDesc.aFmt d) w (fmtBits (TDesc.aFmt d) / 8 * w * r)
        refWrite e (TDesc.dRef d) (wd * x) (plainRow (TDesc.dFmt d) vs)
        pure {}) 0 rows
  pure (some (i + 1, { range := dropped }))

/-- Sums of the edges in list order, by destination. -/
def edgeSums (e : TEnv) (d : TDesc) (eb wb : List Byte) (acc : Table (List Nat)) (t : Nat) : Nat → Act (Table (List Nat))
  | 0 => pure acc
  | n + 1 => do
    let w := TDesc.w d 0x2C
    let src := leAt eb (8 * t) 4
    let dst := leAt eb (8 * t + 4) 4
    if TDesc.w d 0x28 ≤ src ∨ TDesc.w d 0x24 ≤ dst then edgeSums e d eb wb acc (t + 1) n
    else do
      let vs ← readF32 e (TDesc.aRef d) (TDesc.aFmt d) w (fmtBits (TDesc.aFmt d) / 8 * w * src)
      let vs := if TDesc.w d 0x30 = 0 then vs else vs.map (mulF (leAt wb (4 * t) 4))
      let old := ((acc.find? (fun p => p.1 == dst)).map (·.2)).getD (List.replicate w 0)
      edgeSums e d eb wb (tput acc dst (List.zipWith addF old vs)) (t + 1) n

def segmentSumOp (e : TEnv) (i : Nat) (d : TDesc) : Act Step' := do
  let edges := TDesc.w d 0x20
  let w := TDesc.w d 0x2C
  let eb ← refRead e (TDesc.bRef d) 0 (8 * edges)
  let wb ← if TDesc.w d 0x30 = 0 then pure [] else refRead e (TDesc.w d 0x30) 0 (4 * edges)
  let acc ← edgeSums e d eb wb [] 0 edges
  let _ ← eachRow (fun r => do
    let vs := ((acc.find? (fun p => p.1 == r)).map (·.2)).getD (List.replicate w 0)
    let vs ← if TDesc.cRef d = 0 then pure vs else do
      let c ← readF32 e (TDesc.cRef d) 0 w (4 * w * r)
      pure (List.zipWith addF vs c)
    refWrite e (TDesc.dRef d) (4 * w * r) (vs.flatMap (toLE 4))
    pure {}) 0 (TDesc.w d 0x24)
  let bad := (List.range edges).countP (fun t => decide (TDesc.w d 0x28 ≤ leAt eb (8 * t) 4) || decide (TDesc.w d 0x24 ≤ leAt eb (8 * t + 4) 4))
  pure (some (i + 1, { range := bad }))

/-! ### ELEMENTWISE, REDUCE, SOFTMAX (R174, R175, R179, R181) -/

-- DESIGN CHOICE, safe: notes/assumptions/57.md.
/-- One function of ELEMENTWISE. -/
def elementFn (func x y : Nat) : Nat :=
  if func = 0 then addF x y
  else if func = 1 then subF x y
  else if func = 2 then mulF x y
  else if func = 3 then maxF x y
  else if func = 4 then minF x y
  else if func = 5 then x
  else if func = 6 then expOf (mulF (subF x 0) log2eF)
  else divF oneF x

def elementwiseOp (e : TEnv) (i : Nat) (d : TDesc) : Act Step' := do
  let n := TDesc.w d 0x20
  let xs ← readF32 e (TDesc.aRef d) (TDesc.aFmt d) n 0
  let ys ← if twoInputs d then readF32 e (TDesc.bRef d) (TDesc.bFmt d) n 0 else pure (List.replicate n 0)
  let t ← writeRow e (TDesc.dRef d) (TDesc.dFmt d) 1 (rowBytes (TDesc.dFmt d) n) 0 (List.zipWith (elementFn (TDesc.b d 0x24)) xs ys)
  pure (some (i + 1, t))

def maxRow (vs : List Nat) : Nat := match vs with
  | [] => 0
  | v :: r => r.foldl maxF v

def minRow (vs : List Nat) : Nat := match vs with
  | [] => 0
  | v :: r => r.foldl minF v

/-- An integer row reduced: the s64 result and whether it overflowed. -/
def reduceInt (func : Nat) (vs : List Int) : Int × Bool :=
  if func = 0 then
    let v := vs.sum
    if -(2 ^ 63) ≤ v ∧ v < 2 ^ 63 then (v, false) else (-(2 ^ 63), true)
  else match vs with
    | [] => (0, false)
    | v :: r => (r.foldl (if func = 1 then max else min) v, false)

/-- Bytes of an s64 result in S64 or FP32. -/
def intBytes (d : TDesc) (v : Int) : List Byte := if TDesc.dFmt d = 9 then toLE 8 (unsigned 64 v) else toLE 4 (toF32 (FV.ofInt v 0))

-- DEDUCED, unsafe: notes/assumptions/173.md.
/-- COMBINE of S64 rows: each element is the exact sum over the ranks, as REDUCE SUM forms it. -/
def combineInt (e : TEnv) (d : TDesc) (w r : Nat) (ranks : List Nat) : Act Tally := do
  let vs ← ranks.mapM (fun k => do
    let b ← refRead e (TDesc.aRef d) (8 * w * k) (8 * w)
    pure ((chunks 8 b w).map (signed 64)))
  let sums := (List.range w).map (fun c => reduceInt 0 (vs.map (fun v => v.getD c 0)))
  refWrite e (TDesc.dRef d) ((if TDesc.dFmt d = 9 then 8 else 4) * w * r) (sums.flatMap (fun x => intBytes d x.1))
  pure { range := sums.countP (·.2) }

def reduceOp (e : TEnv) (ch : List TDesc) (i : Nat) (d : TDesc) : Act Step' := do
  let rows := TDesc.w d 0x20
  let w := TDesc.w d 0x24
  let func := TDesc.b d 0x28
  let f := TDesc.aFmt d
  if func = 3 then do
    let topK := (routeOf ch i (TDesc.w d 0x2C)).1
    let tab ← refRead e (TDesc.w d 0x2C) 0 (8 * rows * topK)
    let ranks := fun r => ((List.range topK).map (· + r * topK)).filter (fun k => leAt tab (8 * k) 1 != 0xFF)
    let t ← eachRow (fun r => do
      if f = 9 then combineInt e d w r (ranks r)
      else do
        let vs ← (ranks r).mapM (fun k => readF32 e (TDesc.aRef d) f w (fmtBits f / 8 * w * k))
        let sum := vs.foldl (List.zipWith addF) (List.replicate w 0)
        refWrite e (TDesc.dRef d) (4 * w * r) (sum.flatMap (toLE 4))
        pure {}) 0 rows
    pure (some (i + 1, t))
  else if f = 9 then do
    let t ← eachRow (fun r => do
      let b ← refRead e (TDesc.aRef d) (8 * w * r) (8 * w)
      let (v, wide) := reduceInt func ((chunks 8 b w).map (signed 64))
      refWrite e (TDesc.dRef d) ((if TDesc.dFmt d = 9 then 8 else 4) * r) (intBytes d v)
      pure ({ range := if wide then 1 else 0 } : Tally)) 0 rows
    pure (some (i + 1, t))
  else do
    let _ ← eachRow (fun r => do
      let vs ← readF32 e (TDesc.aRef d) f w (fmtBits f / 8 * w * r)
      refWrite e (TDesc.dRef d) (4 * r) (toLE 4 (if func = 0 then dotSum vs else if func = 1 then maxRow vs else minRow vs))
      pure {}) 0 rows
    pure (some (i + 1, {}))

/-- −126.0 in FP32. -/
def minus126 : Nat := 0xC2FC0000

/-- R179 on one row. -/
def softmaxRow (xs : List Nat) : List Nat :=
  if xs.any isNaNF then xs.map (fun _ => canonicalNaN)
  else
    let m := maxRow xs
    let es := xs.map (fun x => expOf (maxF (mulF (subF x m) log2eF) minus126))
    let s := dotSum es
    es.map (fun v => divF v s)

def softmaxOp (e : TEnv) (i : Nat) (d : TDesc) : Act Step' := do
  let w := TDesc.w d 0x24
  let _ ← eachRow (fun r => do
    let xs ← readF32 e (TDesc.aRef d) (TDesc.aFmt d) w (fmtBits (TDesc.aFmt d) / 8 * w * r)
    refWrite e (TDesc.dRef d) (fmtBits (TDesc.dFmt d) / 8 * w * r) (plainRow (TDesc.dFmt d) (softmaxRow xs))
    pure {}) 0 (TDesc.w d 0x20)
  pure (some (i + 1, {}))

/-! ### ROUTE and EXIT (R180, R182) -/

/-- Experts by descending logit, NaN last, ties to the lower number. -/
def logitBefore (a b : Nat × Nat) : Bool :=
  let na := isNaNF a.1
  let nb := isNaNF b.1
  if na || nb then (!na && nb) || (na == nb && decide (a.2 < b.2))
  else decide (numF b.1 < numF a.1) || (numF a.1 == numF b.1 && decide (a.2 < b.2))

def insertLogit (x : Nat × Nat) : List (Nat × Nat) → List (Nat × Nat)
  | [] => [x]
  | y :: r => if logitBefore x y then x :: y :: r else y :: insertLogit x r

/-- The selections of one token: expert and gate, in rank order. -/
def routeToken (logits : List Nat) (topK : Nat) : List (Nat × Nat) :=
  let sel := (logits.zipIdx.foldr insertLogit []).take topK
  (sel.map (·.2)).zip (softmaxRow (sel.map (·.1)))

/-- Admission in token order, then rank order: counts by expert, entries, and the drops. -/
def admitRoutes (cap : Nat) (used : Table Nat) : List (Nat × Nat) → List (Nat × Nat) × Nat
  | [] => ([], 0)
  | (x, g) :: r =>
    let n := tget (fun _ => 0) used x
    if cap ≠ 0 ∧ cap ≤ n then
      let (l, k) := admitRoutes cap used r
      ((0xFF, 0) :: l, k + 1)
    else
      let (l, k) := admitRoutes cap (tset (fun _ => 0) used x (n + 1)) r
      ((x, g) :: l, k)

def routeOp (e : TEnv) (i : Nat) (d : TDesc) : Act Step' := do
  let n := TDesc.b d 0x24
  let rows ← (List.range (TDesc.w d 0x20)).mapM (fun t => readF32 e (TDesc.aRef d) 0 n (4 * n * t))
  let (l, drops) := admitRoutes (TDesc.w d 0x28) [] (rows.flatMap (fun r => routeToken r (TDesc.b d 0x25)))
  refWrite e (TDesc.dRef d) 0 (l.flatMap (fun x => toLE 4 x.1 ++ toLE 4 x.2))
  pure (some (i + 1, { drop := drops }))

/-- The comparison of an EXIT holds; never with a NaN. -/
def exitHolds (d : TDesc) (v : Nat) : Bool :=
  let t := flushF (TDesc.w d 0x20)
  let c := TDesc.b d 0x24
  !isNaNF v && !isNaNF t &&
  (if c = 0 then decide (numF t ≤ numF v) else if c = 1 then decide (numF v ≤ numF t) else if c = 2 then decide (numF t < numF v) else decide (numF v < numF t))

def exitOp (e : TEnv) (len i : Nat) (d : TDesc) : Act Step' := do
  let v ← readF32 e (TDesc.aRef d) 0 1 0
  if exitHolds d (v.headD 0) then
    let t := leAt d 0x26 2
    pure (some (if t = 0xFFFF then len else t, { exits := 1 }))
  else pure (some (i + 1, {}))

/-! ### Running a chain -/

/-- Scores of the states of a problem after its chain (R199). -/
def readScores (fn : Nat) (r : Run) : List Prob → Act Run
  | [] => pure r
  | p :: ps => do
    let b ← readAct 0 fn p.rsScore 0 (4 * p.stars.length)
    let sc := chunks 4 b p.stars.length
    let stars := p.stars.zipIdx.map (fun e => { e.1 with score := BitVec.ofNat 32 (let v := sc.getD e.2 canonicalNaN; if isNaNF v then canonicalNaN else v) })
    readScores fn (Run.setProb r { p with stars, selected := stars }) ps

/-- The chain has ended, and the stage with it. -/
def endChain (s : State) (q fn : Nat) (r : Run) : State :=
  if ((r.stages[r.done]?).map (·.kind)) = some 3 then runAct s q (readScores fn r (Run.inStage r 3)) else endStage s q r

/-- Folded tensor tiles of a chain mark the run and the problems of its stage (R206). -/
def noteFolded (s : State) (r : Run) (tiles : List Nat) : Run :=
  if tiles.any (inFold s .tensor) then
    { r with folded := true, problems := r.problems.map (fun p => if bits (((r.stages[r.done]?).map (·.mask)).getD 0) p.index 1 = 1 then { p with folded := true } else p) }
  else r

-- DESIGN CHOICE, safe: notes/assumptions/166.md.
/-- After a descriptor each of its tiles has an open accumulator of R319, unless nothing is paced: it took an open number of slots. -/
def paceTiles (s : State) (tiles : List Nat) : State :=
  if rho s < 256 then tiles.foldl (fun s t => let (v, s) := drawFree s; setPace s (engineKey .tensor t) (v.toNat % 256)) s else s

/-- The descriptor at which the chain stands has run. -/
def stepChain (s : State) (q fn : Nat) (d : TDesc) (next : Nat) (t : Tally) : State :=
  let tiles := maskTiles (TDesc.mask d)
  let s := paceTiles (countDesc s tiles t) tiles
  match runOf s q with
  | none => s
  | some r =>
    let r := noteFolded s r tiles
    match r.chain with
    | none => s
    | some c => if c.len ≤ next then endChain s q fn r else setRun s q { r with chain := some { c with next } }

/-- A bad change list strikes the tile that ran the descriptor, which then runs again (R176, R413, R418). -/
def listFault (s : State) (d : TDesc) (i : Nat) : State :=
  let tiles := maskTiles (TDesc.mask d)
  let (v, s) := drawFree s
  let t := tiles.getD (v.toNat % tiles.length) 0
  strike (logFault (recordFault s .tensor t 3 i 0 true) .tensor t 3 i 0 0) .tensor t 3

/-- The bytes of a chain up to the descriptor at which it stands. -/
def chainBytes (fn : Nat) (c : Chain) : Act (List Byte) :=
  readAct 0 fn { addr := c.addr, len := 128 * c.len, read := true } 0 (128 * (c.next + 1))

/-- Those descriptors, and the one at which it stands. -/
def chainSoFar (c : Chain) (b : List Byte) : List TDesc := chainDescs b 0 (c.next + 1)
def chainDesc (c : Chain) (b : List Byte) : TDesc := (chainSoFar c b).getD c.next []

/-- Corrected words of local memory, one for each tile named that the descriptor ran on (R158, R412). -/
def countLocal (s : State) (d : TDesc) (corrected : List Nat) : State :=
  (corrected.filter (fun t => (maskTiles (TDesc.mask d)).contains t)).foldl (fun s t => countCEs s (512 + t) 1) s

/-- A tensor row: runs the descriptor if the chain stands at one of its opcode; `corrected` tiles read a corrected word of their local
memory on the way. -/
def tensorOn (q op : Nat) (corrected : List Nat) (f : TEnv → List TDesc → Nat → Nat → TDesc → Act Step') : State → State :=
  onStarted q (isOp opRun) (fun fn _ s =>
    match chainAt s q with
    | none => s
    | some (r, c) =>
      match (chainBytes fn c).run s with
      | (.error (n, o), s) => failRun s q n o
      | (.ok b, s) =>
        let d := chainDesc c b
        if TDesc.op d ≠ op then s
        else match (f { q, fn, spans := r.spans } (chainSoFar c b) c.len c.next d).run (countLocal s d corrected) with
          | (.error (n, o), s) => failRun s q n o
          | (.ok none, s) => listFault s d c.next
          | (.ok (some (next, t)), s) => stepChain s q fn d next t)

/-- GEMV_SPX with the bound copy of its plan. -/
def gemvRow (e : TEnv) (i : Nat) (d : TDesc) : Act Step' := do
  let s ← ExceptT.lift get
  let b ← match runOf s e.q with
    | some r => boundCopy e.fn r
    | none => pure []
  gemvOp e b i d

def execGemm (turn : ChainTurn) (s : State) : Result := onQueue turn.q s (tensorOn turn.q tGemm turn.corrected (fun e ch _ i d => gemmOp e ch i d))
def execGemvSpx (turn : ChainTurn) (s : State) : Result := onQueue turn.q s (tensorOn turn.q tGemvSpx turn.corrected (fun e _ _ i d => gemvRow e i d))
def execGather (turn : ChainTurn) (s : State) : Result := onQueue turn.q s (tensorOn turn.q tGather turn.corrected (fun e _ _ i d => gatherOp e i d))
def execScatter (turn : ChainTurn) (s : State) : Result := onQueue turn.q s (tensorOn turn.q tScatter turn.corrected (fun e _ _ i d => scatterOp e i d))
def execSegmentSum (turn : ChainTurn) (s : State) : Result := onQueue turn.q s (tensorOn turn.q tSegmentSum turn.corrected (fun e _ _ i d => segmentSumOp e i d))
def execElementwise (turn : ChainTurn) (s : State) : Result := onQueue turn.q s (tensorOn turn.q tElementwise turn.corrected (fun e _ _ i d => elementwiseOp e i d))
def execReduce (turn : ChainTurn) (s : State) : Result := onQueue turn.q s (tensorOn turn.q tReduce turn.corrected (fun e ch _ i d => reduceOp e ch i d))
def execSoftmax (turn : ChainTurn) (s : State) : Result := onQueue turn.q s (tensorOn turn.q tSoftmax turn.corrected (fun e _ _ i d => softmaxOp e i d))
def execRoute (turn : ChainTurn) (s : State) : Result := onQueue turn.q s (tensorOn turn.q tRoute turn.corrected (fun e _ _ i d => routeOp e i d))
def execExitChain (turn : ChainTurn) (s : State) : Result := onQueue turn.q s (tensorOn turn.q tExit turn.corrected (fun e _ len i d => exitOp e len i d))

/-! ### BUILD and RESCORE begin their chain -/

def openChain (r : Run) : Run :=
  match r.stages[r.done]? with
  | some g => { r with chain := some { addr := g.chainOff, len := g.chainLen } }
  | none => r

def buildOn (q : Nat) : State → State :=
  stageOn q 0 (fun _ r s => if r.entered then s else setRun s q (openChain (Run.enter s r)))

def execBuild (q : Nat) (s : State) : Result := onQueue q s (buildOn q)

/-- RS_ENERGY of a state (R198): the s64 in FP32, times 2^(E_max − 15). -/
def hostEnergy (e eMax : Int) : Nat :=
  match ofF32 (toF32 (FV.ofInt e 0)) with
  | .fin n m x => toF32 (.fin n m (x + eMax - 15))
  | v => toF32 v

/-- The inputs of one problem's chain (R198). -/
def rescoreInputs (fn : Nat) (p : Prob) : Act Unit := do
  let fb ← readAct 0 fn p.feature 0 (4 * p.features)
  let fs := chunks 4 fb p.features
  let row := fun (x : Option Star) => fs.flatMap (fun f => toLE 2 (if x.any (fun x => x.bits.testBit f) then 0x3F80 else 0))
  let ins := (List.range p.cap).flatMap (fun r => row (p.stars[r]?))
  let en := (List.range p.cap).flatMap (fun r => toLE 4 (match p.stars[r]? with
    | some x => hostEnergy x.energy p.eMax
    | none => 0))
  let sc := (List.range p.cap).flatMap (fun _ => toLE 4 canonicalNaN)
  ExceptT.lift (modify (fun s => writeSpan (writeSpan (writeSpan s fn p.rsIn 0 ins) fn p.rsEnergy 0 en) fn p.rsScore 0 sc))

/-- The inputs of every problem of the stage. -/
def rescoreAll (fn : Nat) (r : Run) : Act Unit := (Run.inStage r 3).forM (rescoreInputs fn)

def rescoreOn (q : Nat) : State → State :=
  stageOn q 3 (fun fn r s =>
    if r.entered then s
    else
      let r := Run.enter s r
      match (rescoreAll fn r).run (setRun s q r) with
      | (.error (n, o), s) => failRun s q n o
      | (.ok _, s) => setRun s q (openChain r))

def execRescore (q : Nat) (s : State) : Result := onQueue q s (rescoreOn q)

/-! ### TT_CLEAR (R184) -/

def ttClearOn (fn tile : Nat) (v : U32) (s : State) : State :=
  if fn ≠ 0 ∨ 24 ≤ tile then s
  else if pageParked s (512 + tile) then discard s
  else if v.getLsbD 0 then (List.range 12).foldl (fun s i => setReg s 0 (reg (512 + tile) (0x48 + 4 * i)) 0) s else s

def execTtClear (fn tile : Nat) (v : U32) (s : State) : Result := onBar0 fn s (ttClearOn fn tile v)

end Sys2Proof.Machine
end

