-- ==== Sys2Proof/Machine/RegRead.lean ====
section
/-! DEFINITION. What a 4-byte read of BAR0 returns: the page header (Table 19-2), the registers of each page (Table 19-8),
the captures of 64-bit pairs (R86), constellations (R453) and the doorbell region (R246, R455). -/

namespace Sys2Proof.Machine

/-! ### Pages and their ranges (Table 19-1) -/

/-- Ranges of pages in the order of GL_IRQ_SUMMARY: first page, number of pages, TYPE of Table 19-3. -/
def pageRanges : List (Nat × Nat × Nat) :=
  [(0, 16, 0x01), (16, 16, 0x02), (256, 96, 0x10), (512, 24, 0x11), (768, 48, 0x12), (1024, 48, 0x20), (1280, 128, 0x21),
   (2048, 16, 0), (3072, 16, 0x40), (3100, 1, 0x41), (3200, 4, 0x50), (3300, 2, 0x51), (3400, 1, 0x60), (3500, 16, 0x70)]

/-- First page and TYPE of the range that holds a page. -/
def rangeOf (page : Nat) : Nat × Nat :=
  match pageRanges.find? (fun r => decide (r.1 ≤ page) && decide (page < r.1 + r.2.1)) with
  | some r => (r.1, r.2.2)
  | none => (0, 0)

/-- Pages that serve the physical function only (R281, R451): a virtual function reads zero there and its writes are ignored. -/
def hiddenPage (fn page : Nat) : Bool := fn != 0 && (page == 3 || page == 21 || (decide (2048 ≤ page) && decide (page < 2064)))

/-- The class and logical number of an engine's page. -/
def pageEngine (page : Nat) : Option (EngineClass × Nat) :=
  if 256 ≤ page ∧ page < 352 then some (.anneal, page - 256)
  else if 512 ≤ page ∧ page < 536 then some (.tensor, page - 512)
  else if 768 ≤ page ∧ page < 816 then some (.constraint, page - 768)
  else none

/-! ### Work in progress -/

/-- The chain in progress on a tensor tile: its queue, and the chain. -/
def tileChain (s : State) (tile : Nat) : Option (Nat × Chain) :=
  s.runs.findSome? (fun e =>
    match e.2.chain with
    | some c => if (chainTiles s c).contains tile then some (e.1, c) else none
    | none => none)

/-- A running problem lane of a tile holds linear records (Table 5-10). -/
def tileServed (s : State) (tile : Nat) : Bool :=
  (List.range 16).any (fun l => let x := laneOf s (laneKey tile l); x.running && !x.records.isEmpty)

-- DESIGN CHOICE, unsafe: notes/assumptions/24.md.
/-- BLOCK_STAT.BUSY. -/
def pageBusy (s : State) (page : Nat) : Bool :=
  match pageKind page with
  | some .fe => inProgress s (page - 17) != 0
  | some .at => tileRunning s (page - 256)
  | some .tt => (tileChain s (page - 512)).isSome
  | some .ce => tileServed s (2 * (page - 768)) || tileServed s (2 * (page - 768) + 1)
  | some .mc => s.repairs.any (fun e => e.1 == page - 1024)
  | some .sm => (marchOf s (page - 1280)).testing
  | some .se => selftestBusy s
  | _ => false

/-! ### The header (Table 19-2) -/

/-- MAP of a page: PHYS, PARTNER, FOLDED and GUEST (R444, R446). -/
def mapWord (s : State) (page : Nat) : Nat :=
  match pageEngine page with
  | some (c, l) =>
    let m := mapOf s c l
    m.phys % 4096 + (if m.folded then 2 ^ 12 * (m.partner % 4096) + 2 ^ 24 + (if m.guest then 2 ^ 25 else 0) else 0)
  | none =>
    let r := rangeOf page
    if r.2 = 0x41 ∨ r.2 = 0x60 ∨ r.2 = 0x70 then 0 else page - r.1

-- DEDUCED, safe: notes/assumptions/143.md.
/-- BLOCK_ID: the position in the range, or the logical instance, with the physical one. -/
def idWord (s : State) (page : Nat) : Nat :=
  let r := rangeOf page
  blockId r.2 (page - r.1) (bits (mapWord s page) 0 12)

def pageFolded (s : State) (page : Nat) : Bool := bits (mapWord s page) 24 1 == 1

/-- HEALTH: a channel that is marked is DEGRADED, whatever start it was marked in (R445). -/
def healthWord (s : State) (page : Nat) : Nat :=
  let h := getReg s 0 (reg page 0x28)
  if pageKind page = some .mc ∧ s.flash.retireMarks.contains (physChannel s (page - 1024)) = true then max h healthDegraded else h

def headWord (s : State) (fn page off : Nat) : Nat :=
  if off = 0x00 then idWord s page
  else if off = 0x04 then (Config.minorRevision (rangeOf page).2).toNat + 2 ^ 8 + (if page = 0 then 2 ^ 16 * Config.stepping.toNat else 0)
  else if off = 0x08 then
    1 + (if pageParked s page then 2 else 0) + (if pageFolded s page then 4 else 0) + (if pageBusy s page then 8 else 0)
  else if off = 0x10 then irqStat s fn page
  else if off = 0x28 then healthWord s page
  else if off = 0x2C then mapWord s page
  else getReg s fn (reg page off)

/-! ### Global pages -/

/-- Identity (Table 19-5). -/
def identityWord (s : State) (off : Nat) : Nat :=
  if off = 0x60 then partNo s.part
  else if off = 0x64 then 96 + 24 * 2 ^ 7 + 48 * 2 ^ 12
  else if off = 0x68 then Config.serial.toNat % 2 ^ 32
  else if off = 0x6C then Config.serial.toNat / 2 ^ 32
  else if off = 0x70 then Config.firmwareBuild.toNat
  else getReg s 0 (reg 0 off)

/-- GL_SPARES (Table 18-8). -/
def sparesWord (s : State) : Nat :=
  let n := fun c e => (freePhys s c e).length
  n .anneal false + 2 ^ 3 * n .anneal true + 2 ^ 6 * n .tensor false + 2 ^ 8 * n .tensor true + 2 ^ 10 * n .constraint false
    + 2 ^ 12 * n .constraint true + 2 ^ 14 * s.spareCores.length + 2 ^ 16 * (folds s % 256)

/-- GL_IRQ_SUMMARY (Table 19-6). -/
def summaryWord (s : State) (fn : Nat) : Nat :=
  (pageRanges.mapIdx (fun i r => if (List.range r.2.1).any (fun k => pagePending s fn (r.1 + k)) then 2 ^ i else 0)).sum

/-- GL_IRQ_PENDw. -/
def pendWord (s : State) (fn w : Nat) : Nat :=
  ((List.range 32).map (fun b => if pagePending s fn (32 * w + b) then 2 ^ b else 0)).sum

def irqWord (s : State) (fn off : Nat) : Nat :=
  if off = 0x44 then irqVector s fn
  else if off = 0x48 then summaryWord s fn
  else if 0x200 ≤ off ∧ off < 0x400 then pendWord s fn ((off - 0x200) / 4)
  else getReg s fn (reg 2 off)

/-! ### Front end pages (Table 11-11) -/

/-- Low or high word of a 64-bit value. -/
def half64 (v : Nat) (high : Bool) : Nat := if high then v / 2 ^ 32 % 2 ^ 32 else v % 2 ^ 32

def queueWord (s : State) (fn off : Nat) : Nat :=
  if off = 0x40 then getReg s fn (reg 16 0x40)
  else match selectedQueue s fn with
    | none => 0
    | some q =>
      let Q := queueOf s q
      if off = 0x48 then half64 Q.sqBase.toNat false + (if Q.sqDev then 1 else 0)
      else if off = 0x4C then half64 Q.sqBase.toNat true
      else if off = 0x50 then half64 Q.cqBase.toNat false + (if Q.cqDev then 1 else 0)
      else if off = 0x54 then half64 Q.cqBase.toNat true
      else if off = 0x58 then Q.log2Size + 2 ^ 5 * Q.weight + 2 ^ 9 * Q.cplVector + 2 ^ 20 * Q.errVector
      else if off = 0x5C then Q.timeout.toNat
      else if off = 0x60 then Q.waitTimeout.toNat
      else if off = 0x64 then (if Q.state = .disabled then 0 else 1)
      else if off = 0x68 then
        (match Q.state with | .disabled => 0 | .running => 1 | .stopped => 2) + (if Q.guilty then 8 else 0) + 2 ^ 4 * Q.cause.toNat
          + (if Q.undelivered.isEmpty then 0 else 2 ^ 12) + 2 ^ 16 * Q.badDoorbell
      else if off = 0x6C then Q.sqHead.toNat
      else if off = 0x70 then Q.sqTail.toNat
      else if off = 0x74 then Q.cqHead.toNat
      else if off = 0x78 then Q.cqTail.toNat
      else if 0x80 ≤ off ∧ off < 0xA0 then leAt Q.undelivered (off - 0x80) 4
      else 0

def fnWord (s : State) (off : Nat) : Nat :=
  let c := fnOf s (selectedFn s)
  if off = 0x40 then selectedFn s
  else if off = 0x44 then c.qBase % 2 ^ 12 + 2 ^ 12 * c.qCount
  else if off = 0x48 ∨ off = 0x4C then half64 c.memBase.toNat (off == 0x4C)
  else if off = 0x50 ∨ off = 0x54 then half64 c.memLimit.toNat (off == 0x54)
  else if off = 0x58 ∨ off = 0x5C then half64 c.htBase.toNat (off == 0x5C)
  else if off = 0x60 then c.htSize
  else if off = 0x64 then c.syncBase + 2 ^ 16 * c.syncCount
  else if off = 0x68 then c.ctxBase
  else if off = 0x6C then c.ctxCount
  else if off = 0x70 then c.planLimit
  else 0

def syncWord (s : State) (fn off : Nat) : Nat :=
  if off = 0x40 then getReg s fn (reg 22 0x40)
  else match selectedSync s fn with
    | none => 0
    | some g =>
      let o := syncOf s g
      if off = 0x48 ∨ off = 0x4C then half64 o.value.toNat (off == 0x4C)
      else if off = 0x50 then (if o.error then 1 else 0) + bits (getReg s fn (reg 22 0x50)) 1 1 * 2
      else 0

/-! ### Engine pages (Tables 3-8, 5-10 and 7-10) -/

def pageFaulted (s : State) (page : Nat) : Bool := getReg s 0 (reg page 0x28) == healthFaulted

-- DESIGN CHOICE, unsafe: notes/assumptions/23.md.
/-- AT_STATUS.STATE: a load takes no time of its own here, and a tile is waiting or stopped when no running lane decides. -/
def tileState (s : State) (tile : Nat) : Nat :=
  let ls := ((List.range 16).map (fun l => laneOf s (laneKey tile l))).filter (·.running)
  if pageFaulted s (256 + tile) then 5
  else if ls.isEmpty then 0
  else if ls.any (fun l => !l.waiting && !l.stopped) then 2
  else if ls.any (·.waiting) then 3
  else 4

/-- A context as its function's driver numbers it (R243). -/
def shownCtx (s : State) (l : Lane) (c : Nat) : Nat := c - (fnOf s (queueFn s l.queue)).ctxBase

/-- The lane that a selection shows; nothing beyond the lanes of the mode (R85, R133). -/
def shownLane (s : State) (tile lane : Nat) : Lane := if lane < modeLanes (laneMode s tile) then laneOf s (laneKey tile lane) else {}

-- DEDUCED, unsafe: notes/assumptions/158.md.
/-- The AT_ page of a tile (Table 3-8); AT_FAULT is the tile's, whatever lane is selected, since it names its own LANE. -/
def annealWord (s : State) (tile off : Nat) : Nat :=
  let p := reg (256 + tile)
  let l := shownLane s tile (fld s (p 0x48) 0 4)
  if off = 0x40 then laneMode s tile + ((List.range 16).map (fun k => if laneRunning s tile k then 2 ^ (16 + k) else 0)).sum
  else if off = 0x44 then
    tileState s tile + 2 ^ 3 * (tileFrames s tile).length + 2 ^ 12 * (List.range 16).countP (fun k => laneRunning s tile k)
  else if off = 0x4C then (if l.bsi16 then 1 else 0) + l.frame * 2 + 2 ^ 16 * l.np
  else if off = 0x50 then unsigned 8 l.eMax + 2 ^ 8 * unsigned 8 l.eH + 2 ^ 16 * l.t
  else if off = 0x54 then (match l.context with | some c => shownCtx s l c % 2 ^ 22 + 2 ^ 31 | none => 0)
  else if off = 0x58 ∨ off = 0x5C then half64 l.te (off == 0x5C)
  else if off = 0x60 then l.wisp % 2 ^ 32
  else if off = 0x64 then l.groups.countP (·.k == 1) + 2 ^ 12 * l.groups.countP (·.k != 1)
  else if off = 0x68 then l.repaired
  else if off = 0x70 ∨ off = 0x74 then half64 l.decisions (off == 0x74)
  else if off = 0x78 ∨ off = 0x7C then half64 l.moves (off == 0x7C)
  else if off = 0x80 ∨ off = 0x84 then half64 l.idle (off == 0x84)
  else if off = 0x88 ∨ off = 0x8C then half64 l.waits (off == 0x8C)
  else if off = 0x90 ∨ off = 0x94 then half64 l.waitBeats (off == 0x94)
  else if off = 0x98 ∨ off = 0x9C then half64 (unsigned 64 l.energy) (off == 0x9C)
  else getReg s 0 (p off)

def tensorWord (s : State) (tile off : Nat) : Nat :=
  let p := reg (512 + tile)
  if off = 0x40 then
    if pageFaulted s (512 + tile) then 3
    else match tileChain s tile with | some (_, c) => 1 + 2 ^ 8 * (c.next % 2 ^ 16) | none => 0
  else if off = 0x44 then (match tileChain s tile with | some (q, _) => q | none => 0)
  else getReg s 0 (p off)

-- DEDUCED, unsafe: notes/assumptions/158.md.
/-- The CE_ page of an engine (Table 5-10); CE_FAULT is the engine's, whatever lane is selected. -/
def constraintWord (s : State) (k off : Nat) : Nat :=
  let p := reg (768 + k)
  let sel := getReg s 0 (p 0x4C)
  let l := shownLane s (2 * k + bits sel 0 1) (bits sel 1 4)
  if off = 0x40 then
    let a := tileServed s (2 * k)
    let b := tileServed s (2 * k + 1)
    (if pageFaulted s (768 + k) then 4 else if a || b then 2 else 0) + (if a then 8 else 0) + (if b then 16 else 0)
  else if off = 0x44 then (engineLoad s k).1
  else if off = 0x48 then (engineLoad s k).2
  else if off = 0x50 then l.records.countP (fun r => !r.soft) + 2 ^ 15 * l.records.countP (·.soft)
  else if off = 0x54 then unsigned 8 l.penExp + 2 ^ 8 * min l.rounded 65535
  else if off = 0x58 then l.hardAtStart + 2 ^ 15 * l.records.countP (fun r => r.soft && broken r)
  else if off = 0x5C then l.firstTag.toNat
  else if off = 0x60 ∨ off = 0x64 then half64 (unsigned 64 l.penalty) (off == 0x64)
  else if off = 0x68 ∨ off = 0x6C then half64 l.updates (off == 0x6C)
  else if off = 0x70 ∨ off = 0x74 then half64 l.masked (off == 0x74)
  else if off = 0x78 then l.waitMax
  else getReg s 0 (p off)

/-! ### Memory pages (Tables 12-4 and 12-5) -/

/-- Bitmap of the retired physical channels. -/
def retiredMap (s : State) : Nat := (s.flash.retired.eraseDups.map (fun c => 2 ^ c)).sum

/-- TEMP of MC_STATUS and MC_RFM_CNT are the memory's own (`memoryRead`); RETIRE_PENDING is the mark in flash (R297). -/
def channelWord (s : State) (ch off : Nat) : Nat :=
  let p := reg (channelPage ch)
  if off = 0x40 then putBits (getReg s 0 (p 0x40)) 2 1 (if s.flash.retireMarks.contains (physChannel s ch) then 1 else 0)
  else if off = 0x44 then physChannel s ch + 2 ^ 6 * (physChannel s ch / 4) + 18 * 2 ^ 16
  else if off = 0x100 then channels s + (if isBig s.part then 0 else 2 ^ 6) + 2 ^ 16 * (capacity s / GiB)
  else if off = 0x104 ∨ off = 0x108 then half64 (retiredMap s) (off == 0x108)
  else if off = 0x114 then (if (sealOf s (sealSel s)).enabled then 1 else 0)
  else if off = 0x118 then
    let v := sealOf s (sealSel s)
    v.version + (if v.rekeyBusy then 4 else 0) + (if v.zeroing then 8 else 0)
  else if 0x100 ≤ off ∧ off < 0x11C then getReg s 0 (mcWide off)
  else getReg s 0 (p off)

/-! ### Enclave, random source, log, lifetime and link pages -/

def enclaveFnWord (s : State) (fn off : Nat) : Nat :=
  if off = 0x40 then (if fn = 0 then bits (seFn s 0 0x40) 0 4 else fn) else seFn s (seView s fn) off

def randomWord (s : State) (fn off : Nat) : Nat :=
  if off = 0x48 then holdOf s fn
  else if 0x80 ≤ off ∧ off < 0xC0 then holdWord s fn ((off - 0x80) / 4)
  else getReg s fn (reg 3100 off)

def logWord (s : State) (off : Nat) : Nat :=
  let seq := fun (r : Option LogRec) => (r.map (fun r => r.seq.toNat)).getD 0
  if off = 0x40 then s.peat.seq.toNat
  else if off = 0x44 then seq s.peat.surface.head?
  else if off = 0x48 then s.peat.deep.length
  else if off = 0x4C then seq s.peat.deep.head?
  else if off = 0x50 then lifeOf s 168 % 2 ^ 32
  else if off = 0x58 then (if s.peat.direct then 1 else 0)
  else 0

def logViewWord (s : State) (fn off : Nat) : Nat :=
  if off = 0x48 then tget (fun _ => 0) s.peat.viewState fn
  else if 0x80 ≤ off ∧ off < 0xC0 then leAt (tget (fun _ => []) s.peat.viewData fn) (off - 0x80) 4
  else getReg s fn (reg 3201 off)

def lifeWord (s : State) (off : Nat) : Nat :=
  let i := fld s (reg 3300 0x40) 0 8
  if off = 0x44 ∨ off = 0x48 then (if i < 170 then half64 (lifeOf s i) (off == 0x48) else 0) else getReg s 0 (reg 3300 off)

def thresholdWord (off : Nat) : Nat :=
  if 0x40 ≤ off ∧ off < 0x68 then half64 (lifeThreshold ((off - 0x40) / 8)) (off % 8 == 4) else 0

/-- PX_BAR2_WIN of a virtual function reads its partition's start (R345). -/
def linkWord (s : State) (fn off : Nat) : Nat :=
  if off = 0x58 ∨ off = 0x5C then half64 (windowBase s fn) (off == 0x5C) else getReg s 0 (reg 3500 off)

/-! ### One word of a page -/

/-- The word at an offset of a served page from 0x40 up, as a function sees it. -/
def bodyWord (s : State) (fn page off : Nat) : Nat :=
  match pageKind page with
  | some .start => identityWord s off
  | some .health => if off = 0x44 then sparesWord s else getReg s 0 (reg 1 off)
  | some .irq => irqWord s fn off
  | some .fq => queueWord s fn off
  | some .fe => if off = 0x40 then min (inProgress s (page - 17)) 64 else getReg s 0 (reg page off)
  | some .ffn => fnWord s off
  | some .fsync => syncWord s fn off
  | some .at => annealWord s (page - 256) off
  | some .tt => tensorWord s (page - 512) off
  | some .ce => constraintWord s (page - 768) off
  | some .mc => channelWord s (page - 1024) off
  | some .sefn => enclaveFnWord s fn off
  | some .rn => randomWord s fn off
  | some .pl => logWord s off
  | some .plr => logViewWord s fn off
  | some .lt => lifeWord s off
  | some .ltth => thresholdWord off
  | some .tw => twWord s off
  | some .px => linkWord s fn off
  | _ => getReg s fn (reg page off)

-- DESIGN CHOICE, safe: notes/assumptions/25.md.
/-- A read of MC_STATUS or MC_RFM_CNT: once the channel is trained the memory reports a temperature, and it may have been given more
refresh management commands since the last read. -/
def memoryRead (s : State) (page off : Nat) : Nat × State :=
  let v := channelWord s (page - 1024) off
  if channelState s (page - 1024) = 1 then (v, s)
  else
    let (f, s) := drawFree s
    if off = 0x40 then (putBits v 8 8 f.toNat, s)
    else
      let s := addSat s (reg page 0x5C) (f.toNat % 2 ^ 32)
      (getReg s 0 (reg page 0x5C), s)

def memoryOwn (page off : Nat) : Bool := pageKind page == some .mc && (off == 0x40 || off == 0x5C)

/-- Low words of the 64-bit pairs of a page. -/
def pairLow (page off : Nat) : Bool :=
  match pageKind page with
  | some .fq => off == 0x48 || off == 0x50
  | some .fe | some .fsync | some .sm => off == 0x48
  | some .ffn => off == 0x48 || off == 0x50 || off == 0x58
  | some .start => off == 0x68
  | some .power => off == 0x64
  | some .at => off == 0x58 || off == 0x70 || off == 0x78 || off == 0x80 || off == 0x88 || off == 0x90 || off == 0x98
  | some .tt => off == 0x48 || off == 0x50 || off == 0x70
  | some .ce => off == 0x60 || off == 0x68 || off == 0x70
  | some .mc => off == 0x48 || off == 0x60 || off == 0x68 || off == 0x104
  | some .sefn => off == 0x48 || off == 0x58 || off == 0x60
  | some .sedbg => off == 0x60
  | some .rn => off == 0x58
  | some .lt => off == 0x44
  | some .ltth => decide (0x40 ≤ off) && decide (off < 0x68) && off % 8 == 0
  | some .tw => twPair off
  | some .px => off == 0x58 || off == 0x64
  | _ => false

/-- A word with its open bits, and the effect of reading it: a capture of the high word, the end of one, or the emptying of the
holding buffer by its last word (R86, R387). -/
def bodyRead (s : State) (fn page off : Nat) : Nat × State :=
  let v := bodyWord s fn page off
  if memoryOwn page off then memoryRead s page off
  else if pairLow page off then (v, captureHigh s fn (reg page off) (bodyWord s fn page (off + 4)))
  else if 4 ≤ off ∧ pairLow page (off - 4) = true then takeHigh s fn (reg page off) v (pageBusy s page || reg page off == reg 3400 0x44)
  else if page = 3100 ∧ off = 0xBC ∧ holdOf s fn = 2 then (v, setHold s fn 0 0)
  else (v, s)

/-- A read of a page that is no constellation and no doorbell (R440 to R442). -/
def pageRead (s : State) (fn page off : Nat) : Nat × State :=
  if pageServed s page = false ∨ hiddenPage fn page = true then (0, s)
  else if off < 0x40 then (headWord s fn page off, s)
  else if pageParked s page then (0, s)
  else bodyRead s fn page off

/-! ### Constellations (R451, R453) -/

/-- The types of member: first page, count, and offset of their first membership word. -/
def memberTypes : List (Nat × Nat × Nat) := [(256, 96, 0x00), (512, 24, 0x0C), (768, 48, 0x10), (1024, 48, 0x18), (1280, 128, 0x20)]

-- DESIGN CHOICE, unsafe: notes/assumptions/26.md.
/-- Pages of the present members of constellation n, in member order. -/
def members (s : State) (n : Nat) : List Nat :=
  (memberTypes.map (fun t =>
    ((List.range t.2.1).filter (fun i => fld s (reg 3 (0x100 + 0x40 * n + t.2.2 + 4 * (i / 32))) (i % 32) 1 == 1)).map (· + t.1))).flatten.filter
      (fun p => pageServed s p && !pageParked s p)

/-- Reads the members in order. -/
def readMembers (s : State) (fn off : Nat) : List Nat → List Nat × State
  | [] => ([], s)
  | p :: r =>
    let (v, s) := pageRead s fn p off
    let (vs, s) := readMembers s fn off r
    (v :: vs, s)

/-- The value of the lowest member, and DIFF bit n. -/
def constRead (s : State) (fn n off : Nat) : Nat × State :=
  if fn ≠ 0 then (0, s)
  else
    let (vs, s) := readMembers s fn off (members s n)
    let v := vs.headD 0
    (v, setFld s (reg 3 0x40) n 1 (if vs.any (· != v) then 1 else 0))

def constellationReadOn (fn n off : Nat) (s : State) : State :=
  if awake s = false ∨ 0x1000 ≤ off then s
  else if off % 4 ≠ 0 then bar0BadAccessOn off 4 true s
  else
    let (v, s) := constRead s fn n off
    answer s (toLE 4 v)

def execConstellationRead (fn n offset : Nat) (s : State) : Result :=
  if n < 16 then onFn fn s (constellationReadOn fn n offset) else .fault .noSuchOperand

/-! ### The doorbell region and BAR0 as a whole -/

/-- SQ_HEAD in the low half, CQ_TAIL in the high half (R246, R455). -/
def doorbellWord (s : State) (fn off : Nat) : Nat :=
  if isReady s = false then 0
  else match globalQueue s fn (off / 8) with
    | none => 0
    | some q => if off % 8 = 0 then (queueOf s q).sqHead.toNat else (queueOf s q).cqTail.toNat

-- DESIGN CHOICE, unsafe: notes/assumptions/18.md.
/-- A 4-byte read at a BAR0 offset. -/
def bar0Read (s : State) (fn off : Nat) : Nat × State :=
  let page := off / 4096
  if 3840 ≤ page ∧ page < 3848 then (doorbellWord s fn (off % 0x100000), s)
  else if 2048 ≤ page ∧ page < 2064 then constRead s fn (page - 2048) (off % 4096)
  else pageRead s fn page (off % 4096)

/-- The offsets of the map run to 16 MiB (R439).  A wide read is of 8 bytes: two reads of 4, the lower address first (R343). -/
def lowWordReadOn (fn off : Nat) (wide : Bool) (s : State) : State :=
  let size := if wide then 8 else 4
  if awake s = false ∨ 2 ^ 24 ≤ off then s
  else if off % size ≠ 0 then bar0BadAccessOn off size true s
  else
    let (v, s) := bar0Read s fn off
    if wide then
      let (h, s) := bar0Read s fn (off + 4)
      answer s (toLE 4 v ++ toLE 4 h)
    else answer s (toLE 4 v)

def execLowWordRead (fn : Nat) (access : BarRead) (s : State) : Result := onFn fn s (lowWordReadOn fn access.offset access.wide)

end Sys2Proof.Machine
end

