-- ==== Sys2Proof/Machine/Registers.lean ====
section
/-! DEFINITION. What a 4-byte write of BAR0 does: the header's access codes (Table 19-2), each page's fields by R13 and its
own chapter, and constellations (R452).  A write that has a row of its own acts here as that row does. -/

namespace Sys2Proof.Machine

/-! ### Access codes (R13) -/

/-- A register takes the RW bits of a write, and loses the W1C bits that it writes as 1. -/
def codedWord (old v rw w1c : Nat) : Nat :=
  let o : U32 := BitVec.ofNat 32 old
  let x : U32 := BitVec.ofNat 32 v
  let m : U32 := BitVec.ofNat 32 rw
  let c : U32 := BitVec.ofNat 32 w1c
  (((o &&& ~~~m) &&& ~~~(c &&& x)) ||| (m &&& x)).toNat

/-- Stores a write by the masks of the register's table row. -/
def codedWrite (s : State) (fn a : Nat) (v : U32) : State :=
  match regSpec a with
  | some r => setReg s fn a (codedWord (getReg s fn a) v.toNat r.rw r.w1c)
  | none => s

/-! ### The header -/

/-- Pages of which a virtual function has a view of its own with header flags (R449). -/
def ownHeader (page : Nat) : Bool := page == 3073 || page == 3100 || page == 3201

-- DEDUCED, safe: notes/assumptions/27.md.
-- DEDUCED, safe: notes/assumptions/144.md.
def headWrite (s : State) (fn page off : Nat) (v : U32) : State :=
  let a := reg page off
  if off = 0x10 ∨ off = 0x14 then
    (if fn = 0 ∨ ownHeader page = true then pageEdges s (codedWrite s fn a v) page else s)
  else if fn ≠ 0 then s
  else if off = 0x0C then setReg s 0 a (Nat.lor (getReg s 0 a) (v.toNat % 2))
  else if off = 0x18 ∨ off = 0x1C then pageEdges s (codedWrite s 0 a v) page
  else s

/-! ### Interrupt registers (R449) -/

-- DESIGN CHOICE, unsafe: notes/assumptions/21.md.
/-- GL_IRQ_CTRL: coming to be 1 while a page is pending sends one message. -/
def glIrqCtrlOn (fn : Nat) (v : U32) (s : State) : State :=
  let was := irqEnabled s fn
  let s := setReg s fn (reg 2 0x40) (v.toNat % 2)
  if !was && irqEnabled s fn && summaryWord s fn != 0 then raiseVector s fn (irqVector s fn) else s

def execGlIrqCtrlWrite (fn : Nat) (value : U32) (s : State) : Result := onBar0 fn s (glIrqCtrlOn fn value)

/-- GL_IRQ_VECTOR; the physical function's is PX_EVT_VECTOR. -/
def writeVector (s : State) (fn : Nat) (v : U32) : State :=
  if fn = 0 then codedWrite s 0 (reg 3500 0x60) v else codedWrite s fn (reg 2 0x44) v

/-! ### Front end pages (R243, R281) -/

/-- Replaces one half of a 64-bit value. -/
def putHalf (old : U64) (high : Bool) (v : Nat) : U64 :=
  BitVec.ofNat 64 (if high then old.toNat % 2 ^ 32 + 2 ^ 32 * v else 2 ^ 32 * (old.toNat / 2 ^ 32) + v)

-- DESIGN CHOICE, unsafe: notes/assumptions/20.md.
/-- FE_Q_CFG; a reserved LOG2_SIZE leaves that field. -/
def writeQcfg (Q : Queue) (v : Nat) : Queue :=
  let z := bits v 0 5
  { Q with
    log2Size := if 6 ≤ z ∧ z ≤ 16 then z else Q.log2Size
    weight := bits v 5 4
    cplVector := bits v 9 11
    errVector := bits v 20 11 }

/-- The configuration fields of a disabled queue. -/
def configQueue (Q : Queue) (off v : Nat) : Queue :=
  if off = 0x48 then { Q with sqDev := v % 2 == 1, sqBase := putHalf Q.sqBase false (4096 * (v / 4096)) }
  else if off = 0x4C then { Q with sqBase := putHalf Q.sqBase true v }
  else if off = 0x50 then { Q with cqDev := v % 2 == 1, cqBase := putHalf Q.cqBase false (4096 * (v / 4096)) }
  else if off = 0x54 then { Q with cqBase := putHalf Q.cqBase true v }
  else if off = 0x58 then writeQcfg Q v
  else if off = 0x5C then { Q with timeout := BitVec.ofNat 32 v }
  else if off = 0x60 then { Q with waitTimeout := BitVec.ofNat 32 v }
  else Q

def writeQueuePage (s : State) (fn off : Nat) (v : U32) : State :=
  if off = 0x40 then codedWrite s fn (reg 16 0x40) v
  else match selectedQueue s fn with
    | none => s
    | some q =>
      if off = 0x64 then writeQctrl s fn q v
      else if (queueOf s q).state = .disabled then setQueue s q (configQueue (queueOf s q) off v.toNat)
      else s

/-- A resource field of a function; a value beyond its range leaves it. -/
def configFn (c : FnCfg) (off v : Nat) : FnCfg :=
  if off = 0x48 ∨ off = 0x4C then { c with memBase := putHalf c.memBase (off == 0x4C) v }
  else if off = 0x50 ∨ off = 0x54 then { c with memLimit := putHalf c.memLimit (off == 0x54) v }
  else if off = 0x58 ∨ off = 0x5C then { c with htBase := putHalf c.htBase (off == 0x5C) v }
  else if off = 0x60 then (if v % 2 ^ 25 ≤ 2 ^ 24 then { c with htSize := v % 2 ^ 25 } else c)
  else if off = 0x64 then { c with syncBase := v % 2 ^ 16, syncCount := v / 2 ^ 16 }
  else if off = 0x68 then { c with ctxBase := v % 2 ^ 22 }
  else if off = 0x6C then (if v % 2 ^ 23 ≤ 2 ^ 22 then { c with ctxCount := v % 2 ^ 23 } else c)
  else if off = 0x70 then (if v % 2 ^ 17 ≤ 2 ^ 16 then { c with planLimit := v % 2 ^ 17 } else c)
  else c

def writeFnPage (s : State) (fn off : Nat) (v : U32) : State :=
  if fn ≠ 0 then s
  else if off = 0x40 then codedWrite s 0 (reg 21 0x40) v
  else if off = 0x44 then writeFnQueues s v
  else
    let f := selectedFn s
    if fnQuiet s f then setFn s f (configFn (fnOf s f) off v.toNat) else s

def writeSyncPage (s : State) (fn off : Nat) (v : U32) : State :=
  if off = 0x40 then codedWrite s fn (reg 22 0x40) v
  else if (selectedSync s fn).isNone then s
  else if off = 0x48 then codedWrite s fn (reg 22 0x48) v
  else if off = 0x4C then writeSyncHi s fn v
  else if off = 0x50 then
    let s := codedWrite s fn (reg 22 0x50) v
    if v.getLsbD 2 then clearSyncError s fn else s
  else s

/-! ### Memory pages (R299, R305, R310, R442) -/

/-- MC_SEAL_CTRL: a change of ENABLE, then REKEY. -/
def writeSealCtrl (s : State) (v : U32) : State :=
  let s := if v.getLsbD 0 then sealEnable s else sealDisable s
  if v.getLsbD 1 then sealRekey s else s

def writeChannelPage (s : State) (fn ch off : Nat) (v : U32) : State :=
  if fn ≠ 0 then s
  else if off = 0x10C then
    let p := bits v.toNat 0 8
    let a := mcWide 0x10C
    let s := setFld s a 8 1 (bits v.toNat 8 1)
    if 1 ≤ p ∧ p ≤ 168 then setFld s a 0 8 p else s
  else if off = 0x110 then codedWrite s 0 (mcWide 0x110) v
  else if off = 0x114 then writeSealCtrl s v
  else if off = 0x11C then mcInjectWriteOn fn ch v s
  else s

/-- SM_MARCH_CTRL: an INTERVAL of 0 is reserved and leaves that field. -/
def writeSlicePage (s : State) (fn page off : Nat) (v : U32) : State :=
  if fn ≠ 0 ∨ off ≠ 0x44 then s
  else
    let s := setFld s (reg page 0x44) 0 1 (v.toNat % 2)
    if bits v.toNat 8 8 = 0 then s else setFld s (reg page 0x44) 8 8 (bits v.toNat 8 8)

/-! ### Power, enclave, random source and log pages -/

-- DESIGN CHOICE, safe: notes/assumptions/5.md.
/-- GL_PARK_CTRL: HALF, then PARK, then UNPARK; whether an East access is in progress is open. -/
def writeParkCtrl (s : State) (fn : Nat) (v : U32) : State :=
  let s := codedWrite s 0 (reg 4 0x6C) v
  let s := if v.getLsbD 1 then
      let (busy, s) := drawFree s
      parkRequestOn fn (if v.getLsbD 0 then .east else .west) (busy.getLsbD 0) s
    else s
  if v.getLsbD 2 then unparkEast s else s

def writePowerPage (s : State) (fn off : Nat) (v : U32) : State :=
  if fn ≠ 0 then s
  else if off = 0x40 then ppRequestOn fn v s
  else if off = 0x54 then glPowerLimitWriteOn fn v s
  else if off = 0x6C then writeParkCtrl s fn v
  else s

-- DESIGN CHOICE, unsafe: notes/assumptions/28.md.
/-- SE_CTRL (R396, R403). -/
def writeSeCtrl (s : State) (fn : Nat) (v : U32) : State :=
  let s := if v.getLsbD 0 then seSelftestOn fn s else s
  if v.getLsbD 1 then commitOn fn s else s

/-- SE_FN_POLICY of the selected function, by the physical function, until its own LOCK is set (R411). -/
def writePolicy (s : State) (fn : Nat) (v : U32) : State :=
  let f := seView s fn
  if fn ≠ 0 ∨ bits (seFn s f 0x44) 1 1 = 1 then s else setSeFn s f 0x44 (v.toNat % 4)

def writeEnclaveFnPage (s : State) (fn off : Nat) (v : U32) : State :=
  if off = 0x40 then (if fn = 0 then codedWrite s 0 (reg 3073 0x40) v else s)
  else if off = 0x44 then writePolicy s fn v
  else if off = 0x50 then
    let s := if v.getLsbD 0 then generateOn fn s else s
    if v.getLsbD 1 then discardOn fn s else s
  else if off = 0x68 then (if v.getLsbD 0 then goOn fn s else s)
  else codedWrite s (seView s fn) (reg 3073 off) v

/-- PL_CLEAR (R431). -/
def writeLogPage (s : State) (fn off : Nat) (v : U32) : State :=
  if off ≠ 0x54 then s
  else
    let s := if v.getLsbD 0 then clearLayer s false fn else s
    if v.getLsbD 1 then clearLayer s true fn else s

def writeLogViewPage (s : State) (fn off : Nat) (v : U32) : State :=
  if off = 0x44 then plRselSeqOn (.function fn) v false s else codedWrite s fn (reg 3201 off) v

/-! ### One write -/

/-- A write from 0x40 up of a served page. -/
def bodyWrite (s : State) (fn page off : Nat) (v : U32) : State :=
  match pageKind page with
  | some .irq => if off = 0x40 then glIrqCtrlOn fn v s else if off = 0x44 then writeVector s fn v else s
  | some .power => writePowerPage s fn off v
  | some .fq => writeQueuePage s fn off v
  | some .ffn => writeFnPage s fn off v
  | some .fsync => writeSyncPage s fn off v
  | some .tt => if off = 0x7C then ttClearOn fn (page - 512) v s else s
  | some .mc => writeChannelPage s fn (page - 1024) off v
  | some .sm => writeSlicePage s fn page off v
  | some .se => if off = 0x48 then writeSeCtrl s fn v else s
  | some .sefn => writeEnclaveFnPage s fn off v
  | some .sedbg => if fn ≠ 0 then s else if off = 0x68 then (if v.getLsbD 0 then presentOn fn s else s) else codedWrite s 0 (reg page off) v
  | some .rn => if off = 0x44 ∧ v.getLsbD 0 = true then fetchOn fn s else s
  | some .pl => writeLogPage s fn off v
  | some .plr => writeLogViewPage s fn off v
  | some .tw => if fn = 0 then twWrite s off v else s
  | _ => if fn = 0 then codedWrite s 0 (reg page off) v else s

-- DESIGN CHOICE, unsafe: notes/assumptions/29.md.
/-- A function may write something of this page (R441, Table 14-3): the physical function everything. -/
def mayWrite (fn page : Nat) : Bool :=
  fn == 0 || page == 2 || page == 16 || page == 22 || page == 3073 || page == 3100 || page == 3200 || page == 3201

-- DEDUCED, safe: notes/assumptions/22.md.
/-- A write of a page that is no constellation and no doorbell (R440 to R442). -/
def pageWrite (s : State) (fn page off : Nat) (v : U32) : State :=
  if pageServed s page = false ∨ hiddenPage fn page = true ∨ mayWrite fn page = false then s
  else if pageParked s page then discard s
  else if off < 0x40 then headWrite s fn page off v
  else bodyWrite s fn page off v

/-! ### Constellations (R452) -/

/-- Every present member in order; discarded when there is none, or when from 0x40 up they are of more than one type. -/
def constWrite (s : State) (fn n off : Nat) (v : U32) : State :=
  if fn ≠ 0 then s
  else
    let ms := members s n
    let ty := fun p => (rangeOf p).2
    if ms.isEmpty || (decide (0x40 ≤ off) && ms.any (fun p => ty p != ty (ms.headD 0))) then addSat s (reg 3 0x44) 1
    else ms.foldl (fun s p => pageWrite s fn p off v) s

def constellationWriteOn (fn n off : Nat) (v : U32) (s : State) : State :=
  if off % 4 ≠ 0 then bar0BadAccessOn off 4 false s else if 0x1000 ≤ off then s else constWrite s fn n off v

def execConstellationWrite (fn n offset : Nat) (value : U32) (s : State) : Result :=
  if n < 16 then onBar0 fn s (constellationWriteOn fn n offset value) else .fault .noSuchOperand

/-! ### BAR0 as a whole -/

/-- A 4-byte write at a BAR0 offset while the device is READY. -/
def bar0Write (s : State) (fn off : Nat) (v : U32) : State :=
  let page := off / 4096
  if 2048 ≤ page ∧ page < 2064 then constWrite s fn (page - 2048) (off % 4096) v
  else pageWrite s fn page (off % 4096) v

-- DEDUCED, safe: notes/assumptions/19.md.
/-- A write at a BAR0 offset; `high` is the upper half of an 8-byte write, which acts as two of 4 bytes, the lower address first
(R343).  The doorbell region has its own rule before READY (R247). -/
def registerWriteOn (fn off : Nat) (v : U32) (high : Option U32) (s : State) : State :=
  let page := off / 4096
  let size := if high.isSome then 8 else 4
  if awake s = false ∨ 2 ^ 24 ≤ off then s
  else if off % size ≠ 0 then bar0BadAccessOn off size false s
  else if 3840 ≤ page ∧ page < 3848 then
    let d := off % 0x100000
    if d % 8 = 0 then doorbell s fn (d / 8) (some v) high else doorbell s fn (d / 8) none (some v)
  else if isReady s then
    match high with
    | none => bar0Write s fn off v
    | some h => bar0Write (bar0Write s fn off v) fn (off + 4) h
  else discard s

def execRegisterWrite (fn offset : Nat) (value : BarData) (s : State) : Result :=
  onFn fn s (registerWriteOn fn offset value.low value.high)

end Sys2Proof.Machine
end

