-- ==== Sys2Proof/Machine/Dispatch.lean ====
section
/-! DEFINITION. One arm per command: the direct call of its meaning. -/

namespace Sys2Proof.Machine

/-- The command's effect on everything but the queue. -/
def exec (i : Instr) (s : State) : Host.Outcome State Fault Refusal :=
  match i with
  | .nop q => Sys2Proof.Machine.execNop q s
  | .bindPlan q => Sys2Proof.Machine.execBindPlan q s
  | .releasePlan q => Sys2Proof.Machine.execReleasePlan q s
  | .run q => Sys2Proof.Machine.execRun q s
  | .execBuffer q => Sys2Proof.Machine.execExecBuffer q s
  | .patch q => Sys2Proof.Machine.execPatch q s
  | .copy q => Sys2Proof.Machine.execCopy q s
  | .fill q => Sys2Proof.Machine.execFill q s
  | .create q => Sys2Proof.Machine.execCreate q s
  | .makeResident q => Sys2Proof.Machine.execMakeResident q s
  | .park q => Sys2Proof.Machine.execPark q s
  | .free q => Sys2Proof.Machine.execFree q s
  | .readState q => Sys2Proof.Machine.execReadState q s
  | .writeState q => Sys2Proof.Machine.execWriteState q s
  | .query q => Sys2Proof.Machine.execQuery q s
  | .randomFill q => Sys2Proof.Machine.execRandomFill q s
  | .timestamp q => Sys2Proof.Machine.execTimestamp q s
  | .syncClear q => Sys2Proof.Machine.execSyncClear q s
  | .doorbellWrite fn r tail head host => Sys2Proof.Machine.execDoorbellWrite fn r tail head host s
  | .commandStart fe => Sys2Proof.Machine.execCommandStart fe s
  | .waitSatisfied q => Sys2Proof.Machine.execWaitSatisfied q s
  | .completionWrite q => Sys2Proof.Machine.execCompletionWrite q s
  | .cqRoom q => Sys2Proof.Machine.execCqRoom q s
  | .resourceGrant q => Sys2Proof.Machine.execResourceGrant q s
  | .prefetch q => Sys2Proof.Machine.execPrefetch q s
  | .waitTimeout q => Sys2Proof.Machine.execWaitTimeout q s
  | .queueTimeout q => Sys2Proof.Machine.execQueueTimeout q s
  | .enable fn => Sys2Proof.Machine.execEnable fn s
  | .disable fn => Sys2Proof.Machine.execDisable fn s
  | .reset fn => Sys2Proof.Machine.execReset fn s
  | .resume fn => Sys2Proof.Machine.execResume fn s
  | .feFnQueuesWrite fn value => Sys2Proof.Machine.execFeFnQueuesWrite fn value s
  | .feSyncValueHiWrite fn value => Sys2Proof.Machine.execFeSyncValueHiWrite fn value s
  | .clearError fn => Sys2Proof.Machine.execClearError fn s
  | .verifyReadFail q addr => Sys2Proof.Machine.execVerifyReadFail q addr s
  | .hostReadFail q addr => Sys2Proof.Machine.execHostReadFail q addr s
  | .sqFetchRetry q ok => Sys2Proof.Machine.execSqFetchRetry q ok s
  | .build q => Sys2Proof.Machine.execBuild q s
  | .load q => Sys2Proof.Machine.execLoad q s
  | .anneal q => Sys2Proof.Machine.execAnneal q s
  | .rescore q => Sys2Proof.Machine.execRescore q s
  | .select q => Sys2Proof.Machine.execSelect q s
  | .exportRecord q => Sys2Proof.Machine.execExportRecord q s
  | .decision tile turn => Sys2Proof.Machine.execDecision tile turn s
  | .starfieldOffer q problem remote => Sys2Proof.Machine.execStarfieldOffer q problem remote s
  | .maskDelivery tile lane second corrected => Sys2Proof.Machine.execMaskDelivery tile lane second corrected s
  | .constraintTimeout tile lane => Sys2Proof.Machine.execConstraintTimeout tile lane s
  | .epochClose q problem => Sys2Proof.Machine.execEpochClose q problem s
  | .gemm turn => Sys2Proof.Machine.execGemm turn s
  | .gemvSpx turn => Sys2Proof.Machine.execGemvSpx turn s
  | .gather turn => Sys2Proof.Machine.execGather turn s
  | .scatter turn => Sys2Proof.Machine.execScatter turn s
  | .segmentSum turn => Sys2Proof.Machine.execSegmentSum turn s
  | .elementwise turn => Sys2Proof.Machine.execElementwise turn s
  | .reduce turn => Sys2Proof.Machine.execReduce turn s
  | .softmax turn => Sys2Proof.Machine.execSoftmax turn s
  | .route turn => Sys2Proof.Machine.execRoute turn s
  | .exitChain turn => Sys2Proof.Machine.execExitChain turn s
  | .ttClear fn tile value => Sys2Proof.Machine.execTtClear fn tile value s
  | .lowWordRead fn access => Sys2Proof.Machine.execLowWordRead fn access s
  | .engineFault cls logical cause index lane => Sys2Proof.Machine.execEngineFault cls logical cause index lane s
  | .replay tile lane => Sys2Proof.Machine.execReplay tile lane s
  | .foldSwitch cls logical => Sys2Proof.Machine.execFoldSwitch cls logical s
  | .coreFailover core => Sys2Proof.Machine.execCoreFailover core s
  | .join q => Sys2Proof.Machine.execJoin q s
  | .frameWrite requester frame offset bytes => Sys2Proof.Machine.execFrameWrite requester frame offset bytes s
  | .countedBarrier frame sender phase bank => Sys2Proof.Machine.execCountedBarrier frame sender phase bank s
  | .resend frame sender phase epoch => Sys2Proof.Machine.execResend frame sender phase epoch s
  | .credit frame sender epoch => Sys2Proof.Machine.execCredit frame sender epoch s
  | .barrierDeadlineMiss frame late phase => Sys2Proof.Machine.execBarrierDeadlineMiss frame late phase s
  | .loose frame sender epoch => Sys2Proof.Machine.execLoose frame sender epoch s
  | .endRun frame status => Sys2Proof.Machine.execEndRun frame status s
  | .abort frame sender status => Sys2Proof.Machine.execAbort frame sender status s
  | .seedDraw q => Sys2Proof.Machine.execSeedDraw q s
  | .rngBlockComplete raw => Sys2Proof.Machine.execRngBlockComplete raw s
  | .rngTestFail apt samples => Sys2Proof.Machine.execRngTestFail apt samples s
  | .rngRestartDone => Sys2Proof.Machine.execRngRestartDone s
  | .fetch fn => Sys2Proof.Machine.execFetch fn s
  | .rnData15Read fn => Sys2Proof.Machine.execRnData15Read fn s
  | .memRead addr upset => Sys2Proof.Machine.execMemRead addr upset s
  | .memWrite addr bytes => Sys2Proof.Machine.execMemWrite addr bytes s
  | .scrub channel upset => Sys2Proof.Machine.execScrub channel upset s
  | .rowRepair addr way => Sys2Proof.Machine.execRowRepair addr way s
  | .mcInjectWrite fn channel value => Sys2Proof.Machine.execMcInjectWrite fn channel value s
  | .mcSealEnable fn => Sys2Proof.Machine.execMcSealEnable fn s
  | .mcSealDisable fn => Sys2Proof.Machine.execMcSealDisable fn s
  | .rekey fn => Sys2Proof.Machine.execRekey fn s
  | .sealRewriteDone target => Sys2Proof.Machine.execSealRewriteDone target s
  | .sliceAccess slice a b => Sys2Proof.Machine.execSliceAccess slice a b s
  | .marchWindow slice => Sys2Proof.Machine.execMarchWindow slice s
  | .marchPreempt slice access portB => Sys2Proof.Machine.execMarchPreempt slice access portB s
  | .ppRequest fn value => Sys2Proof.Machine.execPpRequest fn value s
  | .ppRampDone half => Sys2Proof.Machine.execPpRampDone half s
  | .beatWindow half mean temp => Sys2Proof.Machine.execBeatWindow half mean temp s
  | .powerSample watts mainMv auxMv westMv eastMv => Sys2Proof.Machine.execPowerSample watts mainMv auxMv westMv eastMv s
  | .rhoCorrection target estimator => Sys2Proof.Machine.execRhoCorrection target estimator s
  | .thermalPacingStep => Sys2Proof.Machine.execThermalPacingStep s
  | .glPowerLimitWrite fn value => Sys2Proof.Machine.execGlPowerLimitWrite fn value s
  | .parkRequest fn half bridgeBusy => Sys2Proof.Machine.execParkRequest fn half bridgeBusy s
  | .parkDone => Sys2Proof.Machine.execParkDone s
  | .unpark fn => Sys2Proof.Machine.execUnpark fn s
  | .d3hotEntry => Sys2Proof.Machine.execD3hotEntry s
  | .d3hotExit firmwareOk => Sys2Proof.Machine.execD3hotExit firmwareOk s
  | .timeComparatorMatch n => Sys2Proof.Machine.execTimeComparatorMatch n s
  | .analogComparator n => Sys2Proof.Machine.execAnalogComparator n s
  | .twLwClear fn => Sys2Proof.Machine.execTwLwClear fn s
  | .timerTrim => Sys2Proof.Machine.execTimerTrim s
  | .twilightTargetAccess code write => Sys2Proof.Machine.execTwilightTargetAccess code write s
  | .bar0BadAccess fn offset size isRead => Sys2Proof.Machine.execBar0BadAccess fn offset size isRead s
  | .bar2Read fn offset len requester => Sys2Proof.Machine.execBar2Read fn offset len requester s
  | .bar2Write fn offset bytes poisoned requester => Sys2Proof.Machine.execBar2Write fn offset bytes poisoned requester s
  | .configRequest fn access => Sys2Proof.Machine.execConfigRequest fn access s
  | .resizeBar fn log2 => Sys2Proof.Machine.execResizeBar fn log2 s
  | .msixUnmask fn access => Sys2Proof.Machine.execMsixUnmask fn access s
  | .atsInvalidate fn page => Sys2Proof.Machine.execAtsInvalidate fn page s
  | .linkUp speed width partner flit => Sys2Proof.Machine.execLinkUp speed width partner flit s
  | .linkReplay event => Sys2Proof.Machine.execLinkReplay event s
  | .l1Exit => Sys2Proof.Machine.execL1Exit s
  | .hotReset cause => Sys2Proof.Machine.execHotReset cause s
  | .flr fn => Sys2Proof.Machine.execFlr fn s
  | .perstAssert => Sys2Proof.Machine.execPerstAssert s
  | .perstDeassert => Sys2Proof.Machine.execPerstDeassert s
  | .boot => Sys2Proof.Machine.execBoot s
  | .identity helperOk testsOk certOk keyId => Sys2Proof.Machine.execIdentity helperOk testsOk certOk keyId s
  | .selftest badAnneal badTensor badConstraint badCores infraOk badWords => Sys2Proof.Machine.execSelftest badAnneal badTensor badConstraint badCores infraOk badWords s
  | .training failed => Sys2Proof.Machine.execTraining failed s
  | .calibration ok => Sys2Proof.Machine.execCalibration ok s
  | .meminit stuck => Sys2Proof.Machine.execMeminit stuck s
  | .rngTest katOk raw => Sys2Proof.Machine.execRngTest katOk raw s
  | .ready => Sys2Proof.Machine.execReady s
  | .mainLost => Sys2Proof.Machine.execMainLost s
  | .mainPowerReturn => Sys2Proof.Machine.execMainPowerReturn s
  | .auxPowerOn straps => Sys2Proof.Machine.execAuxPowerOn straps s
  | .auxLost => Sys2Proof.Machine.execAuxLost s
  | .thermtrip => Sys2Proof.Machine.execThermtrip s
  | .firmwareUpdate step => Sys2Proof.Machine.execFirmwareUpdate step s
  | .seSelftest fn => Sys2Proof.Machine.execSeSelftest fn s
  | .seSelftestDone failTest => Sys2Proof.Machine.execSeSelftestDone failTest s
  | .commit fn management => Sys2Proof.Machine.execCommit fn management s
  | .generate fn => Sys2Proof.Machine.execGenerate fn s
  | .uploadKeyReady fn pairOk => Sys2Proof.Machine.execUploadKeyReady fn pairOk s
  | .discard fn => Sys2Proof.Machine.execDiscard fn s
  | .go fn => Sys2Proof.Machine.execGo fn s
  | .unwrapDone fn => Sys2Proof.Machine.execUnwrapDone fn s
  | .present fn mctp => Sys2Proof.Machine.execPresent fn mctp s
  | .getVersion t => Sys2Proof.Machine.execGetVersion t s
  | .getDigests t => Sys2Proof.Machine.execGetDigests t s
  | .getCertificate t slot offset len => Sys2Proof.Machine.execGetCertificate t slot offset len s
  | .challenge t nonce => Sys2Proof.Machine.execChallenge t nonce s
  | .getMeasurements t index nonce => Sys2Proof.Machine.execGetMeasurements t index nonce s
  | .keyExchange t => Sys2Proof.Machine.execKeyExchange t s
  | .finish t session => Sys2Proof.Machine.execFinish t session s
  | .heartbeat t session => Sys2Proof.Machine.execHeartbeat t session s
  | .endSession t session => Sys2Proof.Machine.execEndSession t session s
  | .ideKm t session stream key => Sys2Proof.Machine.execIdeKm t session stream key s
  | .pldmEffecterSet id field value => Sys2Proof.Machine.execPldmEffecterSet id field value s
  | .pldmSensorRead id => Sys2Proof.Machine.execPldmSensorRead id s
  | .plClearSurface fn => Sys2Proof.Machine.execPlClearSurface fn s
  | .plClearDeep fn => Sys2Proof.Machine.execPlClearDeep fn s
  | .plRselSeqWrite reader seq sramBad => Sys2Proof.Machine.execPlRselSeqWrite reader seq sramBad s
  | .surfaceFlush sramBad => Sys2Proof.Machine.execSurfaceFlush sramBad s
  | .stormSummary code => Sys2Proof.Machine.execStormSummary code s
  | .lifetimeFlush => Sys2Proof.Machine.execLifetimeFlush s
  | .constellationWrite fn n offset value => Sys2Proof.Machine.execConstellationWrite fn n offset value s
  | .constellationRead fn n offset => Sys2Proof.Machine.execConstellationRead fn n offset s
  | .glIrqCtrlWrite fn value => Sys2Proof.Machine.execGlIrqCtrlWrite fn value s
  | .registerWrite fn offset value => Sys2Proof.Machine.execRegisterWrite fn offset value s
  | .unparkDone => Sys2Proof.Machine.execUnparkDone s
  | .marchWindowDone slice faulty => Sys2Proof.Machine.execMarchWindowDone slice faulty s
  | .rowRepairDone channel => Sys2Proof.Machine.execRowRepairDone channel s
  | .plLatchDone reader => Sys2Proof.Machine.execPlLatchDone reader s
  | .lifetimeMinute => Sys2Proof.Machine.execLifetimeMinute s
  | .analogLevelClear n => Sys2Proof.Machine.execAnalogLevelClear n s
  | .l1Entry sub => Sys2Proof.Machine.execL1Entry sub s
  | .l0pWidthChange width => Sys2Proof.Machine.execL0pWidthChange width s
  | .unlockTokenChecked => Sys2Proof.Machine.execUnlockTokenChecked s

end Sys2Proof.Machine
end

