-- ==== Sys2Proof/Machine/Time.lean ====
section
/-! DEFINITION. The passing of time: one microsecond of the front-end interval timer (R267), and with it the crystal ticks
of the twilight counter (R328, R329). -/

namespace Sys2Proof.Machine

-- DESIGN CHOICE, unsafe: notes/assumptions/2.md.
/-- One microsecond.  A crystal tick is 2^-15 s, so the counter advances when more than 30,517 ns have passed since the last
tick; what is left over counts toward the next. -/
def tickUs (s : State) : State :=
  let s := { s with us := s.us + 1 }
  if !s.board.auxOk then s
  else
    let ns := s.nsSinceTick + 1000
    if 30518 ≤ ns then { s with nsSinceTick := ns - 30518, tw := { s.tw with count := s.tw.count + 1 } }
    else { s with nsSinceTick := ns }

end Sys2Proof.Machine
end

