-- ==== Sys2Proof/WellFormed.lean ====
section
/-! DEFINITION. Well-formed commands: every operand names something the device has.  The bounds are those of R242 (queues),
R340 (functions), Table 1-1 and Table 3-2 (engines and problem lanes), R287 (channels), R300 (slices), R223 (frames),
R330 (comparators), R451 (constellations) and Table 19-1 (BAR0). -/

namespace Sys2Proof

/-- The logical instances of a class (Table 1-1). -/
def EngineClass.count : EngineClass → Nat
  | .anneal => 96
  | .tensor => 24
  | .constraint => 48

/-- The transport exists: a mailbox belongs to a function (R406). -/
def Transport.wf : Transport → Bool
  | .doe fn => decide (fn < 16)
  | .mctp => true

/-- The reader exists, and the layer it names (R429). -/
def LogReader.wf : LogReader → Bool
  | .function fn => decide (fn < 16)
  | .management layer => decide (layer < 2)

/-- What the sender of a command must respect. -/
def Instr.wf : Instr → Bool
  | .nop q => decide (q < 4096)
  | .bindPlan q => decide (q < 4096)
  | .releasePlan q => decide (q < 4096)
  | .run q => decide (q < 4096)
  | .execBuffer q => decide (q < 4096)
  | .patch q => decide (q < 4096)
  | .copy q => decide (q < 4096)
  | .fill q => decide (q < 4096)
  | .create q => decide (q < 4096)
  | .makeResident q => decide (q < 4096)
  | .park q => decide (q < 4096)
  | .free q => decide (q < 4096)
  | .readState q => decide (q < 4096)
  | .writeState q => decide (q < 4096)
  | .query q => decide (q < 4096)
  | .randomFill q => decide (q < 4096)
  | .timestamp q => decide (q < 4096)
  | .syncClear q => decide (q < 4096)
  | .doorbellWrite fn _ _ _ _ => decide (fn < 16)
  | .commandStart fe => decide (fe < 4)
  | .waitSatisfied q => decide (q < 4096)
  | .completionWrite q => decide (q < 4096)
  | .cqRoom q => decide (q < 4096)
  | .resourceGrant q => decide (q < 4096)
  | .prefetch q => decide (q < 4096)
  | .waitTimeout q => decide (q < 4096)
  | .queueTimeout q => decide (q < 4096)
  | .enable fn => decide (fn < 16)
  | .disable fn => decide (fn < 16)
  | .reset fn => decide (fn < 16)
  | .resume fn => decide (fn < 16)
  | .feFnQueuesWrite fn _ => decide (fn < 16)
  | .feSyncValueHiWrite fn _ => decide (fn < 16)
  | .clearError fn => decide (fn < 16)
  | .verifyReadFail q _ => decide (q < 4096)
  | .hostReadFail q _ => decide (q < 4096)
  | .sqFetchRetry q _ => decide (q < 4096)
  | .build q => decide (q < 4096)
  | .load q => decide (q < 4096)
  | .anneal q => decide (q < 4096)
  | .rescore q => decide (q < 4096)
  | .select q => decide (q < 4096)
  | .exportRecord q => decide (q < 4096)
  | .decision t turn => decide (t < 96 ∧ turn.lane < 16)
  | .starfieldOffer q _ _ => decide (q < 4096)
  | .maskDelivery t l _ _ => decide (t < 96 ∧ l < 16)
  | .constraintTimeout t l => decide (t < 96 ∧ l < 16)
  | .epochClose q _ => decide (q < 4096)
  | .gemm turn => decide (turn.q < 4096) && turn.corrected.all (fun t => decide (t < 24))
  | .gemvSpx turn => decide (turn.q < 4096) && turn.corrected.all (fun t => decide (t < 24))
  | .gather turn => decide (turn.q < 4096) && turn.corrected.all (fun t => decide (t < 24))
  | .scatter turn => decide (turn.q < 4096) && turn.corrected.all (fun t => decide (t < 24))
  | .segmentSum turn => decide (turn.q < 4096) && turn.corrected.all (fun t => decide (t < 24))
  | .elementwise turn => decide (turn.q < 4096) && turn.corrected.all (fun t => decide (t < 24))
  | .reduce turn => decide (turn.q < 4096) && turn.corrected.all (fun t => decide (t < 24))
  | .softmax turn => decide (turn.q < 4096) && turn.corrected.all (fun t => decide (t < 24))
  | .route turn => decide (turn.q < 4096) && turn.corrected.all (fun t => decide (t < 24))
  | .exitChain turn => decide (turn.q < 4096) && turn.corrected.all (fun t => decide (t < 24))
  | .ttClear fn _ _ => decide (fn < 16)
  | .lowWordRead fn _ => decide (fn < 16)
  | .engineFault c l _ _ _ => decide (l < c.count)
  | .replay t l => decide (t < 96 ∧ l < 16)
  | .foldSwitch c l => decide (l < c.count)
  | .coreFailover c => decide (c < 4)
  | .join q => decide (q < 4096)
  | .frameWrite _ f _ _ => decide (f < 4)
  | .countedBarrier f _ _ _ => decide (f < 4)
  | .resend f _ _ _ => decide (f < 4)
  | .credit f _ _ => decide (f < 4)
  | .barrierDeadlineMiss f _ _ => decide (f < 4)
  | .loose f _ _ => decide (f < 4)
  | .endRun f _ => decide (f < 4)
  | .abort f _ _ => decide (f < 4)
  | .seedDraw q => decide (q < 4096)
  | .rngBlockComplete _ => true
  | .rngTestFail _ _ => true
  | .rngRestartDone => true
  | .fetch fn => decide (fn < 16)
  | .rnData15Read fn => decide (fn < 16)
  | .memRead _ _ => true
  | .memWrite _ _ => true
  | .scrub c _ => decide (c < 48)
  | .rowRepair _ _ => true
  | .mcInjectWrite fn c _ => decide (fn < 16 ∧ c < 48)
  | .mcSealEnable fn => decide (fn < 16)
  | .mcSealDisable fn => decide (fn < 16)
  | .rekey fn => decide (fn < 16)
  | .sealRewriteDone t => decide (t < 17)
  | .sliceAccess s _ _ => decide (s < 128)
  | .marchWindow s => decide (s < 128)
  | .marchPreempt s _ _ => decide (s < 128)
  | .ppRequest fn _ => decide (fn < 16)
  | .ppRampDone _ => true
  | .beatWindow _ _ _ => true
  | .powerSample _ _ _ _ _ => true
  | .rhoCorrection _ _ => true
  | .thermalPacingStep => true
  | .glPowerLimitWrite fn _ => decide (fn < 16)
  | .parkRequest fn _ _ => decide (fn < 16)
  | .parkDone => true
  | .unpark fn => decide (fn < 16)
  | .d3hotEntry => true
  | .d3hotExit _ => true
  | .timeComparatorMatch n => decide (n < 4)
  | .analogComparator n => decide (n < 4)
  | .twLwClear fn => decide (fn < 16)
  | .timerTrim => true
  | .twilightTargetAccess _ _ => true
  | .bar0BadAccess fn _ _ _ => decide (fn < 16)
  | .bar2Read fn _ _ _ => decide (fn < 16)
  | .bar2Write fn _ _ _ _ => decide (fn < 16)
  | .configRequest fn _ => decide (fn < 16)
  | .resizeBar fn _ => decide (fn < 16)
  | .msixUnmask fn _ => decide (fn < 16)
  | .atsInvalidate fn _ => decide (fn < 16)
  | .linkUp _ _ _ _ => true
  | .linkReplay _ => true
  | .l1Exit => true
  | .hotReset _ => true
  | .flr fn => decide (fn < 16)
  | .perstAssert => true
  | .perstDeassert => true
  | .boot => true
  | .identity _ _ _ _ => true
  | .selftest _ _ _ _ _ _ => true
  | .training _ => true
  | .calibration _ => true
  | .meminit _ => true
  | .rngTest _ _ => true
  | .ready => true
  | .mainLost => true
  | .mainPowerReturn => true
  | .auxPowerOn _ => true
  | .auxLost => true
  | .thermtrip => true
  | .firmwareUpdate _ => true
  | .seSelftest fn => decide (fn < 16)
  | .seSelftestDone _ => true
  | .commit fn _ => decide (fn < 16)
  | .generate fn => decide (fn < 16)
  | .uploadKeyReady fn _ => decide (fn < 16)
  | .discard fn => decide (fn < 16)
  | .go fn => decide (fn < 16)
  | .unwrapDone fn => decide (fn < 16)
  | .present fn _ => decide (fn < 16)
  | .getVersion t => t.wf
  | .getDigests t => t.wf
  | .getCertificate t _ _ _ => t.wf
  | .challenge t _ => t.wf
  | .getMeasurements t _ _ => t.wf
  | .keyExchange t => t.wf
  | .finish t _ => t.wf
  | .heartbeat t _ => t.wf
  | .endSession t _ => t.wf
  | .ideKm t _ _ _ => t.wf
  | .pldmEffecterSet _ _ _ => true
  | .pldmSensorRead _ => true
  | .plClearSurface fn => decide (fn < 16)
  | .plClearDeep fn => decide (fn < 16)
  | .plRselSeqWrite r _ _ => r.wf
  | .surfaceFlush _ => true
  | .stormSummary _ => true
  | .lifetimeFlush => true
  | .constellationWrite fn n _ _ => decide (fn < 16 ∧ n < 16)
  | .constellationRead fn n _ => decide (fn < 16 ∧ n < 16)
  | .glIrqCtrlWrite fn _ => decide (fn < 16)
  | .registerWrite fn _ _ => decide (fn < 16)
  | .unparkDone => true
  | .marchWindowDone s _ => decide (s < 128)
  | .rowRepairDone c => decide (c < 48)
  | .plLatchDone r => r.wf
  | .lifetimeMinute => true
  | .analogLevelClear n => decide (n < 4)
  | .l1Entry _ => true
  | .l0pWidthChange _ => true
  | .unlockTokenChecked => true

end Sys2Proof
end

