-- ==== Sys2Proof/Safety.lean ====
section
/-! DEFINITION. The terms in which claims are stated: when a command of a queue is being served, when a register access takes
effect, what a command leaves alone, and the invariant of the channels in service. -/

namespace Sys2Proof.Machine

/-- The active command of queue q is c, it has started, and its opcode is op (Table 11-2). -/
abbrev Serving (s : State) (q op : Nat) (inner : Bool) (c : Cmd) : Prop :=
  q < 4096 ∧ activeCmd (queueOf s q) = some (inner, c) ∧ c.phase = .started ∧ Cmd.opcode c = op

/-- The same for operation o of CONTEXT on the function's context g, in a state from which Table 11-10 lists it. -/
abbrev ServingContext (s : State) (q o : Nat) (inner : Bool) (c : Cmd) (g : Nat) : Prop :=
  Serving s q opContext inner c ∧ Cmd.fld c 0x20 1 = o ∧ globalCtx s (queueFn s q) (Cmd.fld c 0x24 4) = some g
  ∧ ctxFrom o (ctxOf s g).state = true

/-- A BAR0 access of function fn takes effect (R323, R362, R370). -/
abbrev Answers (s : State) (fn : Nat) : Prop := fn < 16 ∧ awake s = true ∧ isReady s = true

/-- No word of device memory differs outside the words that n bytes at a touch. -/
def OnlyWords (s t : State) (a n : Nat) : Prop :=
  ∀ b, b / 32 < a / 32 ∨ (a + n - 1) / 32 < b / 32 → peekDev t b 1 = peekDev s b 1

/-- The same outside the words that either of two stores touches. -/
def OnlyWords2 (s t : State) (a n a' n' : Nat) : Prop :=
  ∀ b, (b / 32 < a / 32 ∨ (a + n - 1) / 32 < b / 32) → (b / 32 < a' / 32 ∨ (a' + n' - 1) / 32 < b / 32) → peekDev t b 1 = peekDev s b 1

/-- The manual leaves none of n bytes of device memory at a open (R6). -/
abbrev Fixed (s : State) (a n : Nat) : Prop := ∀ b, a ≤ b → b < a + n → covered s.unfixedDev b = false

/-- Every word of device memory is plain: no error, no poison, no seal. -/
def Plain (s : State) : Prop := ∀ w, errOf s w = 0 ∧ metaOf s w = 0

/-- Of both memories only n bytes from offset off of span p on may differ; in device memory whole words that they touch. -/
def StoresTo (s t : State) (p : Span) (off n : Nat) : Prop :=
  if p.host then t.mem = s.mem ∧ ∀ a, a < p.addr + off ∨ p.addr + off + n ≤ a → readHost t a 1 = readHost s a 1
  else t.hostMem = s.hostMem ∧ OnlyWords s t (p.addr + off) n

/-- t differs from s in the queues and registers alone. -/
abbrev OnlyQueues (s t : State) : Prop := t = { s with queues := t.queues, regs := t.regs }

/-- Channels retired for good (R297): none named twice, each of the fit, two of each half at most. -/
def RetiredOk (p : Part) (l : List Nat) : Prop :=
  l.Nodup ∧ (∀ c ∈ l, c < physChannels p) ∧ (l.filter (westPhys p)).length ≤ 2 ∧ (l.filter (fun c => !westPhys p c)).length ≤ 2

/-- The invariant that every step keeps. -/
def ChannelInv (s : State) : Prop := RetiredOk s.part s.flash.retired

end Sys2Proof.Machine
end

