-- ==== Sys2Proof/Certificates/Slice0/Obligations.lean ====
section
/-! DEFINITION. The statements about the block, each a Prop of its own.  A row is stated by what exec answers: the state after the row's
effect, under conditions on the state and the operands alone.  `keep s t` is t but for the queue, the part and the retired channels, which
no command of these changes. -/

open Sys2Proof Sys2Proof.Machine

/-! ### The queue of commands -/

/-- The step takes the command at the front and is its effect on the state with the rest of the queue. -/
def Obligations.StepRunsFront : Prop :=
  ∀ (c : Instr) (s : State), step { s with pending := c :: s.pending } = exec c s

/-- First in, first out: what waited behind the front is what waits afterwards. -/
def Obligations.RestWaits : Prop :=
  ∀ (s t : State) (c : Instr) (r : List Instr), s.pending = c :: r → step s = .next t → t.pending = r

/-- A well-formed command completes in every state; any other faults; none is refused. -/
def Obligations.WellFormedCompletes : Prop :=
  ∀ (i : Instr) (s : State), (i.wf = true → ∃ t, exec i s = .next t) ∧ (i.wf = false → ∃ f, exec i s = .fault f)

/-- On an empty queue the step is one microsecond of the interval timer (the model's choice). -/
def Obligations.IdleStep : Prop :=
  ∀ s : State, s.pending = [] → ∃ t, step s = .next t ∧ t.us = s.us + 1
    ∧ t = { s with us := t.us, nsSinceTick := t.nsSinceTick, tw := { s.tw with count := t.tw.count } }
    ∧ (t.tw.count = s.tw.count ∨ t.tw.count = s.tw.count + 1)

/-! ### Channels in service -/

/-- Reset retires no channel. -/
def Obligations.ResetInv : Prop :=
 ChannelInv State.reset

/-- Every step keeps the invariant of the retired channels. -/
def Obligations.StepKeepsInv : Prop :=
 ∀ s t : State, ChannelInv s → step s = .next t → ChannelInv t

/-- The channels in service under the invariant (R287). -/
def Obligations.ChannelsInService : Prop :=
  ∀ s : State, ChannelInv s → (channelMap s).length = channels s ∧ physChannels s.part ≤ channels s + 4
    ∧ capacity s = channels s * 18 * 2 ^ 30 ∧ firmwareArea s + 2 ^ 30 = capacity s

/-- The interleave: channel and channel offset as R286 computes them, and a one-to-one map of the C × 18 GiB of device memory onto the
channels' offsets from 0 to 18 GiB - 1, with `unplace` its inverse. -/
def Obligations.PlaceBijective : Prop :=
  (∀ c a : Nat, place a c =
      (let q := a >>> 8 / c
       ((a >>> 8 % c + (q + q >>> 6 + q >>> 12 + q >>> 18 + q >>> 24) % c) % c, q <<< 8 ||| (a &&& 0xFF))))
  ∧ (∀ c a : Nat, 0 < c → a < c * 18 * 2 ^ 30 → (place a c).1 < c ∧ (place a c).2 < 18 * 2 ^ 30)
  ∧ (∀ c a b : Nat, 0 < c → place a c = place b c → a = b)
  ∧ (∀ c ch o : Nat, ch < c → place (unplace ch o c) c = (ch, o) ∧ (o < 18 * 2 ^ 30 → unplace ch o c < c * 18 * 2 ^ 30))

/-! ### Commands of a queue -/

/-- The active command's record waits behind those made before it, and a ring command advances SQ_HEAD (R245, R254, R263, R266); the command has completed, and FE_CMD_CNT counts it, when its record is done with (R250). -/
def Obligations.CommandCompletes : Prop :=
  ∀ (s : State) (q : Nat) (inner : Bool) (c : Cmd) (o : Outcome3), q < 4096 → activeCmd (queueOf s q) = some (inner, c) →
    let t := finish s q o
    (queueOf t q).out = (queueOf s q).out ++
      [{ tag := Cmd.tag c, out := o, inner, irq := Cmd.irq c, quiet := Cmd.quiet c && o.status == 0
         signal := if Cmd.signalEn c then (globalSync s (queueFn s q) (Cmd.signalObj c)).map (fun g => (g, BitVec.ofNat 64 (Cmd.signalValue c))) else none
         time := deviceTime s, undo := [], hostDest := none, signalled := false }]
    ∧ (inner = false → (queueOf t q).sqHead = (queueOf s q).sqHead + 1 ∧ activeCmd (queueOf t q) = none)
    ∧ (inner = true → (queueOf t q).sqHead = (queueOf s q).sqHead ∧ (queueOf t q).innerCur = none ∧ (queueOf t q).cur = (queueOf s q).cur)
    ∧ (∀ p, p ≠ q → queueOf t p = queueOf s p) ∧ t = { s with queues := t.queues }
    ∧ (let u := popOut s q
       (queueOf u q).out = (queueOf s q).out.drop 1 ∧ (queueOf u q).recordHeld = false ∧ (queueOf u q).sqHead = (queueOf s q).sqHead
       ∧ get64 u (reg (17 + q / 1024) 0x48) = (get64 s (reg (17 + q / 1024) 0x48) + 1) % 2 ^ 64
       ∧ (∀ p, p ≠ q → queueOf u p = queueOf s p) ∧ OnlyQueues s u)

/-- The 32 bytes of a completion record (Table 11-7, R272); they lie aligned in a ring that starts on its 4 KiB boundary. -/
def Obligations.RecordLayout : Prop :=
  ∀ (Q : Queue) (r : OutRec), (recordBytes Q r).length = 32
    ∧ leAt (recordBytes Q r) 0x00 4 = Q.sqHead.toNat ∧ leAt (recordBytes Q r) 0x04 4 = r.tag.toNat
    ∧ leAt (recordBytes Q r) 0x08 4 = r.out.detail.toNat ∧ leAt (recordBytes Q r) 0x0C 1 = r.out.status.toNat
    ∧ bits (leAt (recordBytes Q r) 0x0D 1) 0 1 = (Q.cqTail.toNat / 2 ^ Q.log2Size + 1) % 2
    ∧ bits (leAt (recordBytes Q r) 0x0D 1) 1 1 = (if r.inner then 1 else 0) ∧ bits (leAt (recordBytes Q r) 0x0D 1) 2 6 = 0
    ∧ leAt (recordBytes Q r) 0x0E 2 = 0
    ∧ leAt (recordBytes Q r) 0x10 8 = r.time.toNat ∧ leAt (recordBytes Q r) 0x18 8 = r.out.result.toNat
    ∧ (Q.cqBase.toNat % 4096 = 0 → Queue.cqSlot Q % 32 = 0)

/-- NOP, TIMESTAMP, SYNC_CLEAR, EXEC_BUFFER, PATCH, FILL, and COPY of a source that reads well (Table 11-2). -/
def Obligations.DataCommands : Prop :=
  (∀ (s : State) (q : Nat) (inner : Bool) (c : Cmd),
      (Serving s q opNop inner c → exec (.nop q) s = .next (finish s q (okWith 0)))
      ∧ (Serving s q opTimestamp inner c → exec (.timestamp q) s = .next (keep s (finishTo
          (writeSpan s (queueFn s q) (Cmd.span c 0x20) (Cmd.fld c 0x28 8) (toLE 8 (deviceTime s).toNat)) q
          (okWith (deviceTime s).toNat) (destOf (Cmd.span c 0x20)))))
      ∧ (∀ g, Serving s q opSyncClear inner c → globalSync s (queueFn s q) (Cmd.fld c 0x20 2) = some g →
          exec (.syncClear q) s = .next (finish (setSync s g { syncOf s g with error := false }) q (okWith 0)))
      ∧ (Serving s q opExecBuffer inner c → c.progress = 0 → exec (.execBuffer q) s = .next (setQueue s q
          { queueOf s q with cur := some { c with progress := 1 }, nextSince := s.us
                             buffer := some { addr := (Cmd.span c 0x20).addr + Cmd.fld c 0x28 8, count := Cmd.fld c 0x24 4 } })))
  ∧ (∀ (s : State) (q : Nat) (inner : Bool) (c : Cmd),
      (Serving s q opPatch inner c → exec (.patch q) s = .next (keep s (finish
          (writeSpan s (queueFn s q) (Cmd.span c 0x20) (Cmd.fld c 0x28 8) ((c.bytes.drop 0x30).take (Cmd.fld c 0x24 1))) q (okWith 0))))
      ∧ (Serving s q opFill inner c → exec (.fill q) s = .next (keep s (finishTo
          (writeSpan s (queueFn s q) (Cmd.span c 0x20) (Cmd.fld c 0x30 8) (patternBytes ((c.bytes.drop 0x38).take 8) (Cmd.fld c 0x28 8))) q
          (okWith (Cmd.fld c 0x28 8)) (destOf (Cmd.span c 0x20)))))
      ∧ (∀ b u, Serving s q opCopy inner c →
          readSpan s (queueFn s q) (Cmd.span c 0x20) (Cmd.fld c 0x30 8) (Cmd.fld c 0x28 8) = (b, [], u) →
          exec (.copy q) s = .next (keep s (finishTo
            (writeSpan u (queueFn s q) (Cmd.span c 0x24) (Cmd.fld c 0x38 8) b) q (okWith (Cmd.fld c 0x28 8)) (destOf (Cmd.span c 0x24))))))

/-- Where the commands that move bytes store, and that no other byte of either memory changes; device memory free of errors and
seals.  A CONTEXT operation also writes the descriptors that it changes, at their places in the firmware area (R276). -/
def Obligations.StoreFrame : Prop :=
  ∀ (s t : State) (q : Nat) (inner : Bool) (c : Cmd) (g : Nat), Plain s →
    (Serving s q opPatch inner c → exec (.patch q) s = .next t → StoresTo s t (Cmd.span c 0x20) (Cmd.fld c 0x28 8) (Cmd.fld c 0x24 1))
    ∧ (Serving s q opFill inner c → exec (.fill q) s = .next t → StoresTo s t (Cmd.span c 0x20) (Cmd.fld c 0x30 8) (Cmd.fld c 0x28 8))
    ∧ (Serving s q opCopy inner c → exec (.copy q) s = .next t → StoresTo s t (Cmd.span c 0x24) (Cmd.fld c 0x38 8) (Cmd.fld c 0x28 8))
    ∧ (Serving s q opTimestamp inner c → exec (.timestamp q) s = .next t → StoresTo s t (Cmd.span c 0x20) (Cmd.fld c 0x28 8) 8)
    ∧ (ServingContext s q 0 inner c g → exec (.create q) s = .next t →
        OnlyWords2 s t (Cmd.span c 0x30).addr 512 (ctxAddr s g) 128 ∧ t.hostMem = s.hostMem)
    ∧ (∀ o i, (o, i) ∈ [(2, Instr.park q), (3, .free q)] → ServingContext s q o inner c g → exec i s = .next t →
        OnlyWords s t (ctxAddr s g) 128 ∧ t.hostMem = s.hostMem)
    ∧ (exec (.makeResident q) s = .next t → (∀ b, b < firmwareArea s → peekDev t b 1 = peekDev s b 1) ∧ t.hostMem = s.hostMem)
    ∧ (ServingContext s q 4 inner c g → exec (.readState q) s = .next t →
        StoresTo s t (Cmd.span c 0x28) 0 (stateBytes (ctxOf s g).n))
    ∧ (ServingContext s q 5 inner c g → exec (.writeState q) s = .next t →
        OnlyWords2 s t (ctxOf s g).stateAddr (stateBytes (ctxOf s g).n) (ctxAddr s g) 128 ∧ t.hostMem = s.hostMem)
    ∧ (ServingContext s q 6 inner c g → exec (.query q) s = .next t → StoresTo s t (Cmd.span c 0x28) 0 128)
    ∧ (∀ i ∈ [Instr.nop q, .execBuffer q, .releasePlan q, .syncClear q, .waitSatisfied q],
        exec i s = .next t → t.mem = s.mem ∧ t.hostMem = s.hostMem)

/-- A device write within the capacity stores its bytes where the words it touches hold plain data and leaves every word that it does not touch; a read of plain words returns what they hold; an access beyond the capacity reaches the shared slices, and in a hole reads zero, writes nothing, and is logged (R285); one that crosses the capacity does both. -/
def Obligations.DeviceBytes : Prop :=
  (∀ (s : State) (fn a : Nat) (b : List Byte), a + b.length ≤ capacity s →
      OnlyWords s (writeDev s fn a b) a b.length
      ∧ ((∀ w, a / 32 ≤ w → w ≤ (a + b.length - 1) / 32 → errOf s w = 0 ∧ metaOf s w = 0) →
          peekDev (writeDev s fn a b) a b.length = b))
  ∧ (∀ (s : State) (fn a n : Nat), a + n ≤ capacity s →
      (∀ w, a / 32 ≤ w → w ≤ (a + n - 1) / 32 → errOf s w = 0 ∧ metaOf s w = 0) → Fixed s a n →
      (readDev s fn a n).1 = peekDev s a n ∧ (readDev s fn a n).2.1 = [] ∧ (readDev s fn a n).2.2.mem = s.mem)
  ∧ (∀ (s : State) (fn a n : Nat) (b : List Byte), 0 < n → b.length = n → capacity s ≤ a → (a < sliceBase ∨ sliceBase + sliceSpace < a + n) →
      readDev s fn a n = (List.replicate n 0, [], holeAccess s a fn) ∧ writeDev s fn a b = holeAccess s a fn
      ∧ (holeAccess s a fn).mem = s.mem)
  ∧ (∀ (s : State) (fn m o : Nat) (b : List Byte), m < 128 → b ≠ [] → o % 32 + b.length ≤ 32 → o + b.length ≤ sliceBytes →
      (∀ d u, serve s m [.read o b.length 0] = (d, [], u) → readDev s fn (sliceBase + sliceBytes * m + o) b.length = (d, [], u))
      ∧ writeDev s fn (sliceBase + sliceBytes * m + o) b = (serve s m [.write o b]).2.2)
  ∧ (∀ (s : State) (fn a n : Nat) (b : List Byte), b.length = n → a < capacity s → capacity s < a + n →
      (let (d, bad, u) := readDev s fn a (capacity s - a)
       let (e, bad', v) := readDev u fn (capacity s) (a + n - capacity s)
       readDev s fn a n = (d ++ e, bad ++ bad', v))
      ∧ writeDev s fn a b = writeDev (writeDev s fn a (b.take (capacity s - a))) fn (capacity s) (b.drop (capacity s - a)))

/-- CREATE, MAKE_RESIDENT, PARK and FREE of a context (Table 11-10). -/
def Obligations.ContextStates : Prop :=
  ∀ (s : State) (q : Nat) (inner : Bool) (c : Cmd) (g : Nat),
    (∀ h set u, ServingContext s q 0 inner c g → createChecks s (queueFn s q) c = (.ok (h, set), u) →
      ∃ x, exec (.create q) s = .next (keep s (finish
          (setCtx (writeDev u (queueFn s q) (Cmd.span c 0x30).addr (List.replicate 512 0)) g x) q (okWith (Cmd.fld c 0x24 4))))
        ∧ x.state = .parked ∧ x.fn = queueFn s q ∧ x.n = h.n ∧ x.np = h.np ∧ x.eMax = h.eMax ∧ x.eH = h.eH
        ∧ x.imageAddr = (Cmd.span c 0x28).addr ∧ x.csetAddr = (Cmd.span c 0x2C).addr ∧ x.stateAddr = (Cmd.span c 0x30).addr
        ∧ x.runs = 0 ∧ x.tile = 0xFFFF)
    ∧ (∀ t l f u st v, ServingContext s q 1 inner c g →
        chooseFrame s (widthMode (ctxOf s g).width) (ctxOf s g).records (ctxOf s g).terms false = some ((t, l, f), u) →
        fillFrame u (ctxOf s g) = (.ok st, v) →
        exec (.makeResident q) s = .next (keep s (finish
          (setCtx (setFrame v (frameKey t l f) { ctx := g, store := st, lastRun := (ctxOf s g).lastRun }) g
            { ctxOf s g with state := .resident, tile := t, lane := l, frame := f }) q (okWith 0))))
    ∧ (ServingContext s q 2 inner c g → exec (.park q) s = .next (keep s (finish
        (setCtx (dropFrame s (ctxOf s g)) g { ctxOf s g with state := .parked, tile := 0xFFFF, lane := 0, frame := 0 }) q (okWith 0))))
    ∧ (ServingContext s q 3 inner c g → exec (.free q) s = .next (keep s (finish
        (setCtx (dropFrame s (ctxOf s g)) g {}) q (okWith 0))))

/-- READ_STATE, WRITE_STATE and QUERY; and operations of Table 11-10 in states that it does not list: held while RUNNING, BAD_COMMAND at 0x20 otherwise (R278). -/
def Obligations.ContextData : Prop :=
  (∀ (s : State) (q : Nat) (inner : Bool) (c : Cmd) (g : Nat),
      (∀ b u, ServingContext s q 4 inner c g →
          readDev s (queueFn s q) (ctxOf s g).stateAddr (stateBytes (ctxOf s g).n) = (b, [], u) →
          exec (.readState q) s = .next (keep s (finishTo (writeSpan u (queueFn s q) (Cmd.span c 0x28) 0 b) q (okWith 0) (destOf (Cmd.span c 0x28)))))
      ∧ (∀ b u, ServingContext s q 5 inner c g → fetchSpan s (queueFn s q) (Cmd.span c 0x28) 0 (stateBytes (ctxOf s g).n) = (.ok b, u) →
          exec (.writeState q) s = .next (keep s (finish (setCtx (writeDev u (queueFn s q) (ctxOf s g).stateAddr b) g
            (if (ctxOf s g).state = .faulted then { ctxOf s g with state := .parked, fault := 0 } else ctxOf s g)) q (okWith 0))))
      ∧ (ServingContext s q 6 inner c g →
          exec (.query q) s = .next (keep s (finishTo (writeSpan s (queueFn s q) (Cmd.span c 0x28) 0 (ctxBytes (ctxOf s g))) q (okWith 0)
            (destOf (Cmd.span c 0x28))))))
  ∧ (∀ (s : State) (q o : Nat) (inner : Bool) (c : Cmd) (g : Nat) (i : Instr),
      (o, i) ∈ [(0, Instr.create q), (1, .makeResident q), (2, .park q), (3, .free q), (4, .readState q), (5, .writeState q)] →
      Serving s q opContext inner c → Cmd.fld c 0x20 1 = o → globalCtx s (queueFn s q) (Cmd.fld c 0x24 4) = some g →
      ctxFrom o (ctxOf s g).state = false →
      exec i s = .next (keep s (if (ctxOf s g).state = .running then holdCmd s q .context
        else finish s q (badCommand (Cmd.src c 0x20) 0x20))))

/-- BIND_PLAN of a plan that passes, RELEASE_PLAN of one not in use, and a RUN whose checks pass. -/
def Obligations.PlanCommands : Prop :=
  ∀ (s : State) (q : Nat) (inner : Bool) (c : Cmd),
    (∀ d u, Serving s q opBindPlan inner c → boundPlans s (queueFn s q) < (fnOf s (queueFn s q)).planLimit → (freeSlot s).isSome = true →
        fld s (reg 3072 0x40) 7 1 = 0 → (bindSteps (queueFn s q) c).run s = (.ok d, u) →
        let v := writeSpan u (queueFn s q) (Cmd.span c 0x28) 0 (reportBytes u d.bytes d.hdr (Config.shake256 d.bytes) d.facts)
        let slot := (freeSlot v).getD 0
        let gen := (tget (fun _ => 0) v.planGens slot + 1) % 2 ^ 16
        exec (.bindPlan q) s = .next (keep s (finishTo
          (setPlan { v with planGens := tset (fun _ => 0) v.planGens slot gen } slot
            { fn := queueFn s q, gen, base := (Cmd.span c 0x24).addr, imageBytes := d.hdr.imageBytes, args := d.args
              sum := BitVec.ofNat 64 (copySum d.bytes d.hdr), digest := Config.shake256 d.bytes })
          q (okWith (slot + gen * 2 ^ 16)) (destOf (Cmd.span c 0x28)))))
    ∧ (∀ slot p, Serving s q opReleasePlan inner c → planById s (queueFn s q) (Cmd.fld c 0x20 4) = some (slot, p) → p.running = none →
        exec (.releasePlan q) s = .next (finish (delPlan s slot) q (okWith 0)))
    ∧ (∀ slot p args gs g r u d v, Serving s q opRun inner c → runOf s q = none →
        planById s (queueFn s q) (Cmd.fld c 0x20 4) = some (slot, p) → p.running = none →
        (runLists (queueFn s q) c).run s = (.ok (args, gs), r) → (readGroup (queueFn s q) c).run r = (.ok g, u) →
        gs.any (fun k => (ctxOf u k).state == .running) = false → (∀ h, g = some h → frameBusy u h.frame = false) →
        (runSteps c.stale (queueFn s q) p (if args.isEmpty then p.args else args) gs ((g.map (·.size)).getD 1)).run u = (.ok d, v) →
        sourceFailed v = false →
        exec (.run q) s = .next (keep s (startRun v q slot p gs g (BitVec.ofNat 64 (Cmd.fld c 0x28 8)) d)))

/-! ### Front ends -/

/-- A doorbell of a queue that is not DISABLED moves each counter within its range and nothing else; a value outside its range is ignored,
counted and logged (R246, R247).  One of no queue is counted in PX_DISCARD_CNT; one of a DISABLED queue, or before READY, is ignored. -/
def Obligations.DoorbellRow : Prop :=
  ∀ (s : State) (fn r : Nat) (tail head : Option U32) (host : List (Nat × Byte)), fn < 16 →
    let h := hostCells s host
    (isReady s = false → exec (.doorbellWrite fn r tail head host) s = .next h)
    ∧ (isReady s = true → globalQueue s fn r = none → exec (.doorbellWrite fn r tail head host) s = .next (addCount h (reg 3500 0x54) 1))
    ∧ (∀ q, isReady s = true → globalQueue s fn r = some q → (queueOf s q).state = .disabled →
        exec (.doorbellWrite fn r tail head host) s = .next h)
    ∧ (∀ q, isReady s = true → globalQueue s fn r = some q → (queueOf s q).state ≠ .disabled →
        let Q := queueOf s q
        let tailOk := fun v : U32 => (v - Q.sqTail).toNat ≤ Queue.size Q - Queue.waiting Q
        let headOk := fun v : U32 => (v - Q.cqHead).toNat ≤ Queue.records Q
        let wrong := tail.toList.filter (fun v => !decide (tailOk v)) ++ head.toList.filter (fun v => !decide (headOk v))
        ∃ t, exec (.doorbellWrite fn r tail head host) s = .next t
          ∧ (queueOf t q).sqTail = (match tail with
              | some v => if tailOk v then v else Q.sqTail
              | none => Q.sqTail)
          ∧ (queueOf t q).cqHead = (match head with
              | some v => if headOk v then v else Q.cqHead
              | none => Q.cqHead)
          ∧ (queueOf t q).badDoorbell = (if wrong = [] then Q.badDoorbell else min (Q.badDoorbell + wrong.length) 4095)
          ∧ t.peat = (wrong.foldl (fun u v =>
              logEvent u (blockId 0x02 (q / 1024 + 1) (q / 1024 + 1)) 0x402 (queueFn s q) (toLE 2 q ++ toLE 4 v.toNat)) h).peat
          ∧ queueOf t q = { Q with sqTail := (queueOf t q).sqTail, cqHead := (queueOf t q).cqHead, nextSince := (queueOf t q).nextSince
                                   badDoorbell := (queueOf t q).badDoorbell }
          ∧ (∀ p, p ≠ q → queueOf t p = queueOf s p) ∧ t = { h with queues := t.queues, peat := t.peat })

/-- The front end takes the next command of the queue whose turn it is (R248, R250, R251): one whose wait holds, or one that it reads, which
waits on its object, and then takes no turn, or begins; a command begins when its checks pass, else the first failure completes it
(R258, R263). -/
def Obligations.CommandStart : Prop :=
  (∀ (s : State) (fe q : Nat) (F : FrontEnd), fe < 4 → isReady s = true → arbitrate s fe = some (q, F) →
      let took := fun t : State => { t with fronts := tset (fun _ => {}) t.fronts fe F }
      let waits := fun (w : State) (c : Cmd) => Cmd.waitEn c && (globalSync w (queueFn w q) (Cmd.waitObj c)).isSome
      (∀ inner c, activeCmd (queueOf s q) = some (inner, c) →
          exec (.commandStart fe) s = .next (keep s (took
            (if waitErrored s q c then finish s q (outcome stFenceError (Cmd.waitObj c) 0) else beginCmd s q))))
      ∧ (∀ b u, activeCmd (queueOf s q) = none → (queueOf s q).buffer = none → readEntry s q (queueOf s q).sqHead = (b, none, u) →
          let c : Cmd := { bytes := b, since := (queueOf u q).nextSince }
          let w := setQueue u q { queueOf u q with cur := some c }
          exec (.commandStart fe) s = .next (keep s (if waits w c then w else took (beginCmd w q))))
      ∧ (∀ b u bf, activeCmd (queueOf s q) = none → (queueOf s q).buffer = some bf → readInner s q (bf.addr + 64 * bf.next) = (b, none, u) →
          let c : Cmd := { bytes := b, since := (queueOf u q).nextSince }
          let w := setQueue u q { queueOf u q with buffer := some { bf with next := bf.next + 1 }, innerCur := some c }
          exec (.commandStart fe) s = .next (keep s (if waits w c then w else took (beginCmd w q)))))
  ∧ (∀ (s : State) (q : Nat) (c : Cmd),
      let old := fun w : State => { c with stale := staleFor w q }
      (activeCmd (queueOf s q) = some (false, c) →
          (∀ d u, checkCommand s (queueFn s q) (old s) = (.ok d, u) →
              beginCmd s q = setQueue u q { queueOf u q with cur := some { d with phase := .started, since := u.us } })
          ∧ (∀ o u, checkCommand s (queueFn s q) (old s) = (.error o, u) → beginCmd s q = finish u q o))
      ∧ (∀ bf, activeCmd (queueOf s q) = some (true, c) → (queueOf s q).buffer = some bf →
          let w := setQueue s q { queueOf s q with buffer := some { bf with started := bf.started + 1 } }
          (Cmd.opcode c = opExecBuffer → beginCmd s q = finish w q (badCommand 0 0))
          ∧ (∀ d u, Cmd.opcode c ≠ opExecBuffer → checkCommand w (queueFn w q) (old w) = (.ok d, u) →
              beginCmd s q = setQueue u q { queueOf u q with innerCur := some { d with phase := .started, since := u.us } })
          ∧ (∀ o u, Cmd.opcode c ≠ opExecBuffer → checkCommand w (queueFn w q) (old w) = (.error o, u) → beginCmd s q = finish u q o)))

/-- Every buffer that the checks of a command let pass in device memory lies within the function's partition and the capacity
(Table 11-5). -/
def Obligations.RelocationSafe : Prop :=
  ∀ (s u : State) (fn : Nat) (c d : Cmd), c.spans = [] → checkCommand s fn c = (.ok d, u) →
    ∀ e ∈ d.spans, e.2.host = false →
      (fnOf s fn).memBase.toNat ≤ e.2.addr ∧ e.2.addr + e.2.len ≤ (fnOf s fn).memLimit.toNat + 1 ∧ e.2.addr + e.2.len ≤ capacity s ∧ 0 < e.2.len

/-- WAIT_SATISFIED in the queue's turn, RESOURCE_GRANT, WAIT_TIMEOUT and QUEUE_TIMEOUT; of timers that have expired at one tick, the one of
the lowest queue comes first (R268). -/
def Obligations.WaitRows : Prop :=
  ∀ (s : State) (q : Nat) (inner : Bool) (c : Cmd), q < 4096 → activeCmd (queueOf s q) = some (inner, c) →
    (∀ F, c.phase = .waiting → arbitrate s (q / 1024) = some (q, F) →
        let t := { s with fronts := tset (fun _ => {}) s.fronts (q / 1024) F }
        (waitErrored s q c = true → exec (.waitSatisfied q) s = .next (finish t q (outcome stFenceError (Cmd.waitObj c) 0)))
        ∧ (waitErrored s q c = false → exec (.waitSatisfied q) s = .next (keep s (beginCmd t q))))
    ∧ ((∀ F, arbitrate s (q / 1024) ≠ some (q, F)) → exec (.waitSatisfied q) s = .next s)
    ∧ (c.phase = .waiting → (queueOf s q).state = .running → waitHolds s q c = false → expired s (queueOf s q).waitTimeout.toNat c.since = true →
        let first := !earlierExpired s q (c.since, (queueOf s q).waitTimeout.toNat)
        exec (.waitTimeout q) s = .next (keep s
          (if first then makeGuilty s q stWaitTimeout (outcome stWaitTimeout (Cmd.waitObj c) 0) else s)))
    ∧ (∀ r, (queueOf s q).cur = some r → r.phase ≠ .waiting → (queueOf s q).state = .running → (queueOf s q).recordHeld = false →
        expired s (queueOf s q).timeout.toNat r.since = true →
        let first := !earlierExpired s q (r.since, (queueOf s q).timeout.toNat)
        exec (.queueTimeout q) s = .next (keep s
          (if first then makeGuilty s q stQueueTimeout (outcome stQueueTimeout (stageKind s q) 0) else s)))
    ∧ (∀ h, c.phase = .held h → (h = .plan → ∀ e, planById s (queueFn s q) (Cmd.fld c 0x20 4) = some e → e.2.running = none) →
        (h = .context → Cmd.opcode c = opContext → ∀ g, globalCtx s (queueFn s q) (Cmd.fld c 0x24 4) = some g → (ctxOf s g).state ≠ .running) →
        ∃ t, exec (.resourceGrant q) s = .next t ∧ activeCmd (queueOf t q) = some (inner, { c with phase := .started })
          ∧ (∀ p, p ≠ q → queueOf t p = queueOf s p) ∧ t = { s with queues := t.queues })

/-- A guilty queue is STOPPED with its cause, nothing of it is in progress, and SQ_HEAD has reached SQ_TAIL (Table 11-6); the records of
the guilt, signalled and none of them quiet, wait for the ring behind those made before it (R480). -/
def Obligations.GuiltyQueue : Prop :=
  ∀ (s : State) (q cause : Nat) (o : Outcome3), ((queueOf s q).cur.isSome = true → (queueOf s q).sqHead ≠ (queueOf s q).sqTail) →
    let t := makeGuilty s q cause o
    (queueOf t q).state = .stopped ∧ (queueOf t q).guilty = true ∧ (queueOf t q).cause = BitVec.ofNat 8 cause ∧ (queueOf t q).cur = none
    ∧ (queueOf t q).sqHead = (queueOf s q).sqTail ∧ (queueOf t q).sqTail = (queueOf s q).sqTail ∧ runOf t q = none
    ∧ (queueOf t q).cqTail = (queueOf s q).cqTail
    ∧ (∃ l, (queueOf t q).out = (queueOf s q).out ++ l ∧ (∀ r ∈ l, r.signalled = true ∧ r.quiet = false)
        ∧ ((queueOf s q).buffer = none → l.length = Queue.waiting (queueOf s q)))
    ∧ ∀ p, p ≠ q → queueOf t p = queueOf s p

/-- COMPLETION_WRITE and CQ_ROOM: a record is written into a free slot of the ring in order, after its signal; it is held while the
ring is full, dropped under QUIET, and the last one of a buffer completes its EXEC_BUFFER (R249, R254, R263, R266). -/
def Obligations.RecordRows : Prop :=
  ∀ (s : State) (q : Nat) (r : OutRec) (rest : List OutRec), q < 4096 → (queueOf s q).out = r :: rest → (queueOf s q).undelivered = [] →
    let Q := queueOf s q
    (∀ i, (i = .completionWrite q ∧ Q.recordHeld = false) ∨ (i = .cqRoom q ∧ Q.recordHeld = true) →
        r.quiet = false → Queue.records Q < Queue.size Q → Q.buffer = none →
        ∃ t, exec i s = .next t ∧ (queueOf t q).cqTail = Q.cqTail + 1 ∧ (queueOf t q).out = rest ∧ (queueOf t q).recordHeld = false
          ∧ (queueOf t q).sqHead = Q.sqHead
          ∧ (Q.cqDev = false → readHost t (Queue.cqSlot Q) 32 = recordBytes Q r ∧ t.mem = s.mem
              ∧ ∀ a, a < Queue.cqSlot Q ∨ Queue.cqSlot Q + 32 ≤ a → readHost t a 1 = readHost s a 1)
          ∧ (Q.cqDev = true → t.hostMem = s.hostMem ∧ OnlyWords s t (Queue.cqSlot Q) 32)
          ∧ (∀ g v, r.signal = some (g, v) → r.signalled = false →
              (syncOf t g).value.toNat = max (syncOf s g).value.toNat v.toNat ∧ (syncOf t g).error = ((syncOf s g).error || isError r.out))
          ∧ (∀ g, (r.signalled = true ∨ ∀ v, r.signal ≠ some (g, v)) → syncOf t g = syncOf s g)
          ∧ (∀ p, p ≠ q → queueOf t p = queueOf s p))
    ∧ (Q.recordHeld = false → r.quiet = false → Queue.size Q ≤ Queue.records Q → ∃ t, exec (.completionWrite q) s = .next t
        ∧ (queueOf t q).recordHeld = true ∧ (queueOf t q).cqTail = Q.cqTail ∧ (queueOf t q).out.length = Q.out.length
        ∧ t = { s with queues := t.queues, syncs := t.syncs })
    ∧ (Q.recordHeld = false → r.quiet = true → Q.buffer = none → ∃ t, exec (.completionWrite q) s = .next t
        ∧ (queueOf t q).out = rest ∧ (queueOf t q).cqTail = Q.cqTail ∧ t = { s with queues := t.queues, syncs := t.syncs, regs := t.regs }
        ∧ get64 t (reg (17 + q / 1024) 0x48) = (get64 s (reg (17 + q / 1024) 0x48) + 1) % 2 ^ 64)
    ∧ (∀ b c, Q.recordHeld = false → r.quiet = false → Queue.records Q < Queue.size Q → rest = [] → Q.buffer = some b → b.next = b.count →
        Q.innerCur = none → Q.cur = some c → ∃ t, exec (.completionWrite q) s = .next t
        ∧ (queueOf t q).out.map (fun o => (o.tag, o.out, o.inner)) = [(Cmd.tag c, okWith b.count, false)] ∧ (queueOf t q).buffer = none
        ∧ (queueOf t q).sqHead = Q.sqHead + 1 ∧ (queueOf t q).cqTail = Q.cqTail + 1)

/-- ENABLE, DISABLE, RESET and RESUME of the selected queue, as a write of FE_Q_CTRL gives them, and what its ENABLE reads (R479); and FE_FN_QUEUES_WRITE, after which blocks that were apart still are (R242, R243). -/
def Obligations.QueueControl : Prop :=
  (∀ (s : State) (fn : Nat), Answers s fn →
      (∀ q, selectedQueue s fn = some q →
        let Q := queueOf s q
        (Q.state = .disabled → ((sealOf s fn).zeroing && (sealOf s fn).byFlr) = false → enableChecks s fn Q = true →
            exec (.enable fn) s = .next (setQueue
              { s with stale := s.stale.filter (fun e => !e.tails.any (fun t => t.1 == q)) } q { Q with state := .running, sqHead := 0, sqTail := 0, cqHead := 0, cqTail := 0, nextSince := s.us }))
        ∧ (Q.state = .disabled → ((sealOf s fn).zeroing && (sealOf s fn).byFlr) = false → enableChecks s fn Q = false →
            exec (.enable fn) s = .next (setQueue s q { Q with cause := 0x11 }))
        ∧ (Q.state ≠ .disabled → exec (.enable fn) s = .next s)
        ∧ (Q.state ≠ .disabled → Queue.idle Q = true → exec (.disable fn) s = .next (setQueue s q { Q with state := .disabled }))
        ∧ (Queue.idle Q = false → exec (.disable fn) s = .next s)
        ∧ (Q.state ≠ .disabled → exec (.reset fn) s = .next (keep s (makeGuilty s q stAborted (outcome stAborted 1 0))))
        ∧ (Q.state = .disabled → exec (.reset fn) s = .next s)
        ∧ (Q.state = .stopped → exec (.resume fn) s = .next (setQueue s q
            { Q with state := .running, guilty := false, undelivered := [], nextSince := s.us }))
        ∧ (Q.state ≠ .stopped → exec (.resume fn) s = .next s)
        ∧ (Queue.idle Q = true ↔ Q.sqHead = Q.sqTail ∧ Q.cur = none ∧ Q.out = [] ∧ Q.undelivered = [])
        ∧ (∀ v : U32, exec (.registerWrite fn (reg 16 0x64) ⟨v, none⟩) s = exec
            (if v.getLsbD 1 then .reset fn else if v.getLsbD 2 then .resume fn else if v.getLsbD 0 then .enable fn else .disable fn) s)
        ∧ (∃ t, exec (.lowWordRead fn ⟨(reg 16 0x64), false⟩) s = .next t ∧ t.port = { data := toLE 4 (if Q.state = .disabled then 0 else 1) }))
      ∧ (∀ v : U32, fn = 0 → fnQuiet s (selectedFn s) = true → blockFits s (selectedFn s) (bits v.toNat 0 12) (bits v.toNat 12 13) = true →
          exec (.feFnQueuesWrite fn v) s = .next (setFn s (selectedFn s)
            { fnOf s (selectedFn s) with qBase := bits v.toNat 0 12, qCount := bits v.toNat 12 13 }))
      ∧ (∀ v : U32, fn ≠ 0 ∨ blockFits s (selectedFn s) (bits v.toNat 0 12) (bits v.toNat 12 13) = false →
          exec (.feFnQueuesWrite fn v) s = .next s))
  ∧ (∀ (s t : State) (v : U32), exec (.feFnQueuesWrite 0 v) s = .next t →
      (∀ f g, f < 16 → g < 16 → f ≠ g → (fnOf s f).qCount = 0 ∨ (fnOf s g).qCount = 0
        ∨ (fnOf s f).qBase + (fnOf s f).qCount ≤ (fnOf s g).qBase ∨ (fnOf s g).qBase + (fnOf s g).qCount ≤ (fnOf s f).qBase) →
      ∀ f g, f < 16 → g < 16 → f ≠ g → (fnOf t f).qCount = 0 ∨ (fnOf t g).qCount = 0
        ∨ (fnOf t f).qBase + (fnOf t f).qCount ≤ (fnOf t g).qBase ∨ (fnOf t g).qBase + (fnOf t g).qCount ≤ (fnOf t f).qBase)

/-- The host's signal raises the selected object to the larger value and never lowers it; ERROR stays until it is cleared (R264). -/
def Obligations.SyncRows : Prop :=
  ∀ (s : State) (fn g : Nat) (v : U32), Answers s fn → selectedSync s fn = some g →
    (∃ t, exec (.feSyncValueHiWrite fn v) s = .next t
        ∧ (syncOf t g).value.toNat = max (syncOf s g).value.toNat (getReg s fn (reg 22 0x48) + 2 ^ 32 * v.toNat)
        ∧ (syncOf t g).error = ((syncOf s g).error || bits (getReg s fn (reg 22 0x50)) 1 1 == 1)
        ∧ bits (getReg t fn (reg 22 0x50)) 1 1 = 0
        ∧ (∀ h, h ≠ g → syncOf t h = syncOf s h) ∧ t = { s with syncs := t.syncs, regs := t.regs, fnRegs := t.fnRegs })
    ∧ exec (.clearError fn) s = .next (setSync s g { syncOf s g with error := false })

/-- PREFETCH of a ring in host memory brings every entry up to SQ_TAIL, and what a later read of an entry gives is what it gave
before (R261). -/
def Obligations.PrefetchRow : Prop :=
  ∀ (s : State) (q : Nat) (c : Cmd), q < 4096 → (queueOf s q).state = .running → (queueOf s q).cur = some c → (queueOf s q).sqDev = false →
    ∃ t, exec (.prefetch q) s = .next t ∧ t.hostMem = s.hostMem
      ∧ (∀ i, i + 1 < Queue.waiting (queueOf s q) →
          (queueOf t q).fetched.any (fun e => e.1 == (queueOf s q).sqHead + 1 + BitVec.ofNat 32 i) = true)
      ∧ (∀ k, (readEntry t q k).1 = (readEntry s q k).1) ∧ ∀ p, p ≠ q → queueOf t p = queueOf s p

/-- VERIFY_READ_FAIL, HOST_READ_FAIL and SQ_FETCH_RETRY (R274, R275, R355). -/
def Obligations.HostFailures : Prop :=
  ∀ (s : State) (q : Nat), q < 4096 →
    let Q := queueOf s q
    (∀ (addr : U64), Q.out = [] → (runWrites s q).any (fun p => spanHolds p addr.toNat) = true →
        exec (.verifyReadFail q addr) s = .next (keep s (finish (endRun (lastFail s addr.toNat) q stHostWrite (fun _ => .ended) true) q
          (outcome stHostWrite 2 addr.toNat))))
    ∧ (∀ (addr : U64) r rest, Q.out = r :: rest → inRecordSlot Q addr.toNat = true → beingWritten Q r = true →
        (∀ d, r.hostDest = some d → (spanHolds d.2 addr.toNat && !r.signalled && !isError r.out) = false) →
        ∃ t, exec (.verifyReadFail q addr) s = .next t ∧ (queueOf t q).undelivered = recordBytes Q r ∧ (queueOf t q).state = .stopped
          ∧ (queueOf t q).guilty = true ∧ (queueOf t q).cause = 0x50 ∧ (queueOf t q).cqTail = Q.cqTail)
    ∧ (∀ (addr : U64) r rest d, Q.out = r :: rest → r.hostDest = some d → spanHolds d.2 addr.toNat = true → r.signalled = false →
        isError r.out = false → exec (.verifyReadFail q addr) s = .next (keep s (setQueue (destFailed (lastFail s addr.toNat) r d) q
          { Q with out := { r with out := outcome stHostWrite d.1 addr.toNat, hostDest := none, undo := [], quiet := false } :: rest })))
    ∧ (∀ (addr : U64) inner c o, activeCmd Q = some (inner, c) → c.phase = .started → failedField s q c addr.toNat = some o →
        let u := countReadFail s addr.toNat
        ((runOf s q).isSome = true →
          exec (.hostReadFail q addr) s = .next (keep s (finish (endRun u q stBadHandle (fun _ => .ended) true) q o)))
        ∧ (runOf s q = none → Cmd.opcode c ≠ opRun → exec (.hostReadFail q addr) s = .next (keep s (finish u q o)))
        ∧ (runOf s q = none → Cmd.opcode c = opRun → exec (.hostReadFail q addr) s =
            .next (keep s (finish (abortNamed u (queueFn s q) c o.status.toNat) q o))))
    ∧ (∀ (addr : U64), activeCmd Q = none → nextReady s q = true → Q.buffer = none → Q.sqDev = false →
        Queue.sqSlot Q Q.sqHead ≤ addr.toNat → addr.toNat < Queue.sqSlot Q Q.sqHead + 64 →
        exec (.hostReadFail q addr) s = .next (keep s (setQueue (countReadFail s addr.toNat) q { Q with fetchFailed := true })))
    ∧ (Q.fetchFailed = true → exec (.sqFetchRetry q true) s = .next (setQueue s q { Q with fetchFailed := false }))
    ∧ (Q.fetchFailed = true → exec (.sqFetchRetry q false) s = .next (keep s (countReadFail s (Queue.sqSlot Q Q.sqHead))))

/-! ### Stages of a run -/

/-- LOAD, ANNEAL, SELECT, EXPORT, BUILD and RESCORE at their stage, when what they read is good. -/
def Obligations.StageRows : Prop :=
  ∀ (s : State) (q : Nat) (inner : Bool) (c : Cmd) (r : Run), Serving s q opRun inner c →
    (∀ r' u, atStage s q 1 = some r → (loadSteps q (queueFn s q) (Run.enter s r)).run (setRun s q (Run.enter s r)) = (.ok r', u) →
        exec (.load q) s = .next (keep s (endStage u q r')))
    ∧ (∀ ps u places v r' w, atStage s q 2 = some r → r.entered = false →
        (annealSets (queueFn s q) (Run.inStage r 2)).run s = (.ok ps, u) →
        placeAll u q (Run.position r) (placeOrder ps) = some (places, v) →
        (beginAll (queueFn s q) (holdLanes (Run.enter v r) places) places ps).run (setRun v q (holdLanes (Run.enter v r) places)) = (.ok r', w) →
        exec (.anneal q) s = .next (keep s (checkAnneal (setRun w q r') q)))
    ∧ (atStage s q 4 = some r → exec (.select q) s = .next (keep s (endStage s q
        { Run.enter s r with problems := r.problems.map (fun p => if Run.covers r 4 p.index then selectProb p else p), endTime := deviceTime s })))
    ∧ (atStage s q 5 = some r → r.stages.any (·.kind == 4) = true → recordSize (Run.inStage r 5) 1024 ≤ r.result.len →
        let e := { Run.enter s r with truncated := false, kLimit := 0 }
        exec (.exportRecord q) s = .next (keep s (endStage (writeSpan s (queueFn s q) r.result 0
          (resultRecord e (Run.finalOutcome e) (((planOf s r.slot).map (·.digest)).getD 0) (Run.inStage r 5) 1024)) q e)))
    ∧ (atStage s q 0 = some r → r.entered = false → exec (.build q) s = .next (setRun s q (openChain (Run.enter s r))))
    ∧ (∀ u, atStage s q 3 = some r → r.entered = false →
        (rescoreAll (queueFn s q) (Run.enter s r)).run (setRun s q (Run.enter s r)) = (.ok (), u) →
        exec (.rescore q) s = .next (keep s (setRun u q (openChain (Run.enter s r)))))

/-- A lane whose tile is paced may find an idle beat in place of a decision (R319).  A decision without a move or with one that touches no
linear record commits; one that touches a record makes the lane wait for the delivery, which commits it (R74, R78, R79); of two tiles whose
moves met the odd one waits a beat longer (R131). -/
def Obligations.DecisionRows : Prop :=
  ∀ (s : State) (tile lane : Nat) (p : Prob), tile < 96 → lane < 16 →
    let key := laneKey tile lane
    let l := laneOf s key
    probOf s l.queue l.problem = some p →
    (mayDecide s tile lane = true → ∀ corrected,
      let u := (paceStep s (engineKey .anneal tile)).2
      let w := countCEs u (256 + tile) corrected
      ((paceStep s (engineKey .anneal tile)).1 = false → exec (.decision tile ⟨lane, corrected⟩) s = .next (keep s u))
      ∧ ((paceStep s (engineKey .anneal tile)).1 = true →
          ((decide' p l).2.2 = none → exec (.decision tile ⟨lane, corrected⟩) s = .next (keep s (afterDecision w key p (commit p l) false)))
          ∧ (∀ m, (decide' p l).2.2 = some m → touches l m = false →
              exec (.decision tile ⟨lane, corrected⟩) s = .next (keep s (afterDecision w key p (commit p l) true)))
          ∧ (∀ m, (decide' p l).2.2 = some m → touches l m = true →
              exec (.decision tile ⟨lane, corrected⟩) s = .next (keep s (passMove w tile lane m))
              ∧ (laneOf (passMove w tile lane m) key).waiting = true ∧ (laneOf (passMove w tile lane m) key).moved = Move.vars m
              ∧ (laneOf (passMove w tile lane m) key).x = l.x ∧ (laneOf (passMove w tile lane m) key).gens = l.gens))
      ∧ (256 ≤ rho s → (paceStep s (engineKey .anneal tile)).1 = true)
      ∧ (paceOf s (engineKey .anneal tile) < 256 → rho s ≤ 256 → (∀ k, k ≠ engineKey .anneal tile → paceOf u k = paceOf s k)
          ∧ paceOf u (engineKey .anneal tile) = (paceOf s (engineKey .anneal tile) + rho s) % 256))
    ∧ (∀ m second corrected, l.running = true → l.waiting = true → (decide' p l).2.2 = some m →
        let b := waitBeats l m (second && l.contended && tile % 2 == 1) corrected
        exec (.maskDelivery tile lane second corrected) s = .next (keep s (afterDecision
          (if corrected then countCE s (768 + tile / 2) else s) key p
          (commit p { l with waiting := false, moved := [], contended := false, waits := l.waits + 1, waitBeats := l.waitBeats + b
                             waitMax := max l.waitMax b }) true)))

/-- Every decision counts once, as a move or as idle, and only a move changes the state bits, at its own variables. -/
def Obligations.DecisionEffect : Prop :=
  ∀ (p : Prob) (l : Lane),
    (commit p l).decisions = l.decisions + 1
    ∧ ((decide' p l).2.2 = none → (commit p l).idle = l.idle + 1 ∧ (commit p l).moves = l.moves
        ∧ (commit p l).x = l.x ∧ (commit p l).field = l.field ∧ (commit p l).energy = l.energy)
    ∧ (∀ m, (decide' p l).2.2 = some m → (commit p l).moves = l.moves + 1 ∧ (commit p l).idle = l.idle
        ∧ (commit p l).energy = l.energy + m.delta
        ∧ ∀ v, v ∉ Move.vars m → bitAt (commit p l).x v = bitAt l.x v)

/-- The winner is the accepting lane with the smallest key, of equal keys the one of lowest index; exactly its move is applied; when no lane
accepts, no move is applied and the decision still counts (R75). -/
def Obligations.WinnerRule : Prop :=
  ∀ (p : Prob) (l : Lane),
    let a := (decide' p l).1
    let gens := (decide' p l).2.1
    let takes := fun j g => gens[j]? = some g ∧ accepts a j (candidate a.x a.groups j) g = true
    ((decide' p l).2.2 = none → (∀ j g, ¬ takes j g) ∧ (commit p l).x = l.x ∧ (commit p l).decisions = l.decisions + 1)
    ∧ (∀ m, (decide' p l).2.2 = some m →
        (∃ g, takes m.k g ∧ ∀ j g', takes j g' → keyOf g < keyOf g' ∨ (keyOf g = keyOf g' ∧ m.k ≤ j))
        ∧ m.cand = candidate l.x l.groups m.k ∧ (commit p l).x = moveBits l.x m ∧ (commit p l).decisions = l.decisions + 1)

/-- Group repair keeps the K lowest of too many members at 1, and sets the lowest members at 0 when there are too few; exactly K are at 1
afterwards, and no other variable changed (R70). -/
def Obligations.GroupRepair : Prop :=
  ∀ (x : List Bool) (g : Group), g.members.Pairwise (· < ·) → (∀ i ∈ g.members, i < x.length) → g.k ≤ g.members.length →
    let on := onMembers x g
    let off := g.members.filter (fun i => !bitAt x i)
    (onMembers (repairGroup x g).1 g).length = g.k ∧ (∀ v, v ∉ g.members → bitAt (repairGroup x g).1 v = bitAt x v)
    ∧ (∀ v ∈ g.members, bitAt (repairGroup x g).1 v =
        if g.k ≤ on.length then bitAt x v && decide ((on.filter (· < v)).length < g.k)
        else bitAt x v || decide ((off.filter (· < v)).length < g.k - on.length))
    ∧ ((repairGroup x g).2 = true ↔ on.length ≠ g.k)

/-- What the starfield admits (R108): it stays within its capacity, in key order, and holds no state twice; of a duplicate the earlier
decision count stands (R111); the kept set does not depend on the order of the offers.  STARFIELD_OFFER admits the oldest offer of the
keeper's own lanes, or the offers that another member sends (R113), and leaves every other byte than its buffer's alone (R112). -/
def Obligations.Starfield : Prop :=
  (∀ (cap : Nat) (stars : List Star) (x : Star), 0 < cap → stars.length ≤ cap → stars.Pairwise (fun a b => starBefore a b = true) →
      (stars.map (·.bits)).Nodup →
      let dup := stars.any (fun y => y.bits == x.bits)
      (dup = true → offerTo cap stars x = stars.map (fun y => if y.bits = x.bits then { y with firstSeen := min y.firstSeen x.firstSeen } else y))
      ∧ (dup = false → stars.length < cap → (offerTo cap stars x).Perm (x :: stars))
      ∧ (∀ y, dup = false → stars.length = cap → stars.getLast? = some y →
          (starBefore x y = true → (offerTo cap stars x).Perm (x :: stars.dropLast)) ∧ (starBefore x y = false → offerTo cap stars x = stars))
      ∧ (offerTo cap stars x).length ≤ cap ∧ (offerTo cap stars x).Pairwise (fun a b => starBefore a b = true) ∧ ((offerTo cap stars x).map (·.bits)).Nodup)
  ∧ (∀ (cap : Nat) (xs ys : List Star), 0 < cap → xs.Perm ys → (∀ a ∈ xs, ∀ b ∈ xs, a.bits = b.bits → a.energy = b.energy) →
      (xs.foldl (offerTo cap) []).map (fun a => (a.energy, a.bits, a.firstSeen)) = (ys.foldl (offerTo cap) []).map (fun a => (a.energy, a.bits, a.firstSeen))
      ∧ (xs.foldl (offerTo cap) []).length = min cap (xs.map (·.bits)).dedup.length
      ∧ ∀ a ∈ xs, a.bits ∉ (xs.foldl (offerTo cap) []).map (·.bits) → ∀ b ∈ xs.foldl (offerTo cap) [], starBefore b a = true)
  ∧ (∀ (s : State) (q i : Nat) (r : Run) (p : Prob), q < 4096 → atStage s q 2 = some r → probOf s q i = some p →
      let fn := queueFn s q
      (∀ x rest, Run.position r = 0 → p.offers = x :: rest → ∀ p' u, keepStar fn s { p with offers := rest } x = (p', u) →
          exec (.starfieldOffer q i none) s = .next (keep s (checkAnneal (updateProb u q i (fun _ => p')) q))
          ∧ p'.stars = offerTo p.cap p.stars x ∧ p'.offers = rest)
      ∧ (∀ x p' u, takesBatch r p x = true → takeBatch fn s p x = (p', u) →
          exec (.starfieldOffer q i (some x)) s = .next (keep s (checkAnneal (updateProb u q i (fun _ => p')) q))
          ∧ p'.stars = (x.states.map (fun e => ({ energy := e.1, bits := e.2.1, firstSeen := e.2.2, hash := hashFrom 0 (natBits p.np e.2.1) } : Star))).foldl
              (offerTo p.cap) p.stars)
      ∧ (∀ g p' u, r.group = some g → g.position ≠ 0 → p.epochs = false → p.finished = true → p.lanes ≠ [] → p.sentAll = false →
          sendBatch s g p = (p', u) →
          exec (.starfieldOffer q i none) s = .next (keep s (checkAnneal (updateProb u q i (fun _ => { p' with sentAll := true })) q))))

/-- The cap of a truncated record is the largest that fits (R204). -/
def Obligations.LargestCap : Prop :=
  ∀ (ps : List Prob) (len n k : Nat), fitCap ps len n = some k →
    k ≤ n ∧ 0 < k ∧ recordSize ps k ≤ len ∧ ∀ j, k < j → j ≤ n → len < recordSize ps j

/-! ### Tensor chains -/

/-- A descriptor of the chain in progress that reads well runs by its opcode, and the chain goes on from where it says (R169, R171). -/
def Obligations.TensorRows : Prop :=
  ∀ (s : State) (q : Nat) (inner : Bool) (cmd : Cmd) (r : Run) (ch : Chain) (b : List Byte) (u' v : State) (next : Nat) (t : Tally)
      (corrected : List Nat),
    Serving s q opRun inner cmd → chainAt s q = some (r, ch) →
    (chainBytes (queueFn s q) ch).run s = (.ok b, u') →
    let ds := chainSoFar ch b
    let d := chainDesc ch b
    let u := countLocal u' d corrected
    let e : TEnv := { q, fn := queueFn s q, spans := r.spans }
    (TDesc.op d = tGemm → (gemmOp e ds ch.next d).run u = (.ok (some (next, t)), v) →
        exec (.gemm ⟨q, corrected⟩) s = .next (keep s (stepChain v q (queueFn s q) d next t)))
    ∧ (TDesc.op d = tGemvSpx → (gemvRow e ch.next d).run u = (.ok (some (next, t)), v) →
        exec (.gemvSpx ⟨q, corrected⟩) s = .next (keep s (stepChain v q (queueFn s q) d next t)))
    ∧ (TDesc.op d = tGather → (gatherOp e ch.next d).run u = (.ok (some (next, t)), v) →
        exec (.gather ⟨q, corrected⟩) s = .next (keep s (stepChain v q (queueFn s q) d next t)))
    ∧ (TDesc.op d = tScatter → (scatterOp e ch.next d).run u = (.ok (some (next, t)), v) →
        exec (.scatter ⟨q, corrected⟩) s = .next (keep s (stepChain v q (queueFn s q) d next t)))
    ∧ (TDesc.op d = tSegmentSum → (segmentSumOp e ch.next d).run u = (.ok (some (next, t)), v) →
        exec (.segmentSum ⟨q, corrected⟩) s = .next (keep s (stepChain v q (queueFn s q) d next t)))
    ∧ (TDesc.op d = tElementwise → (elementwiseOp e ch.next d).run u = (.ok (some (next, t)), v) →
        exec (.elementwise ⟨q, corrected⟩) s = .next (keep s (stepChain v q (queueFn s q) d next t)))
    ∧ (TDesc.op d = tReduce → (reduceOp e ds ch.next d).run u = (.ok (some (next, t)), v) →
        exec (.reduce ⟨q, corrected⟩) s = .next (keep s (stepChain v q (queueFn s q) d next t)))
    ∧ (TDesc.op d = tSoftmax → (softmaxOp e ch.next d).run u = (.ok (some (next, t)), v) →
        exec (.softmax ⟨q, corrected⟩) s = .next (keep s (stepChain v q (queueFn s q) d next t)))
    ∧ (TDesc.op d = tRoute → (routeOp e ch.next d).run u = (.ok (some (next, t)), v) →
        exec (.route ⟨q, corrected⟩) s = .next (keep s (stepChain v q (queueFn s q) d next t)))
    ∧ (TDesc.op d = tExit → (exitOp e ch.len ch.next d).run u = (.ok (some (next, t)), v) →
        exec (.exitChain ⟨q, corrected⟩) s = .next (keep s (stepChain v q (queueFn s q) d next t)))

/-- ROUTE admits no expert beyond its capacity, and drops or admits every selection (R180). -/
def Obligations.RouteCapacity : Prop :=
  ∀ (cap : Nat) (sel : List (Nat × Nat)), 0 < cap → (∀ e ∈ sel, e.1 < 0xFF) →
    (admitRoutes cap [] sel).1.length = sel.length
    ∧ (admitRoutes cap [] sel).2 = ((admitRoutes cap [] sel).1.filter (fun e => e.1 == 0xFF)).length
    ∧ ∀ x, x < 0xFF → ((admitRoutes cap [] sel).1.filter (fun e => e.1 == x)).length = min cap ((sel.filter (fun e => e.1 == x)).length)

/-! ### Engine faults and epochs -/

/-- ENGINE_FAULT, CONSTRAINT_TIMEOUT, REPLAY, FOLD_SWITCH and the loss of a control core. -/
def Obligations.FaultRows : Prop :=
  ∀ (s : State),
    (∀ cls l cause index lane, l < EngineClass.logical cls → faultPossible s cls l cause index lane = true →
        let tile := match cls with
          | .anneal => l
          | .constraint => 2 * l + lane / 16 % 2
          | .tensor => 0
        let epoch := match cls with
          | .tensor => 0
          | _ => epochOf s (laneKey tile (lane % 16))
        exec (.engineFault cls l cause index lane) s = .next (keep s
          (strike (logFault (recordFault s cls l cause index lane true) cls l cause index lane epoch) cls l cause)))
    ∧ (∀ cls l cause index lane, l < EngineClass.logical cls → faultPossible s cls l cause index lane = false →
        exec (.engineFault cls l cause index lane) s = .next s)
    ∧ (∀ tile lane, tile < 96 → lane < 16 → (laneOf s (laneKey tile lane)).running = true → (laneOf s (laneKey tile lane)).waiting = true →
        let l := laneOf s (laneKey tile lane)
        let n := ((l.records.find? (fun r => l.moved.any (names r))).map (·.number)).getD 0
        let cl := lane + 16 * (tile % 2)
        exec (.constraintTimeout tile lane) s = .next (keep s (strike
          (logFault (recordFault (recordFault s .anneal tile 5 (tile / 2) lane true) .constraint (tile / 2) 3 n cl false)
            .constraint (tile / 2) 3 n cl (epochOf s (laneKey tile lane))) .constraint (tile / 2) 3)))
    ∧ (∀ tile lane p st v, tile < 96 → lane < 16 →
        let l := laneOf s (laneKey tile lane)
        l.running = true → l.replaying = true → probOf s l.queue l.problem = some p →
        (replayLoad (queueFn s l.queue) p l).run s = (.ok st, v) →
        exec (.replay tile lane) s = .next (keep s (replayDone
          (setLane v (laneKey tile lane) { restoreLane { l with store := st } l.save with replaying := false }) (laneKey tile lane))))
    ∧ (∀ l, l < 96 → (mapOf s .anneal l).folded = true → (mapOf s .anneal l).turn = true →
        let h := (mapOf s .anneal l).partner
        l ≠ h → tileRested s l = true → tileEager s h = true →
        ∃ t, exec (.foldSwitch .anneal l) s = .next t ∧ (mapOf t .anneal l).turn = false ∧ (mapOf t .anneal h).turn = true
          ∧ (∀ c k, (c, k) ≠ (EngineClass.anneal, l) → (c, k) ≠ (.anneal, h) → k < 256 → mapOf t c k = mapOf s c k) ∧ t.regs = s.regs ∧ t.mem = s.mem)
    ∧ (∀ core i c cs, core < 4 → s.cores.findIdx? (· == core) = some i → s.spareCores = c :: cs →
        ∃ t, exec (.coreFailover core) s = .next t ∧ t.cores = s.cores.set i c ∧ t.spareCores = cs)
    ∧ (∀ core c, core < 4 → c ≠ core → s.cores = [core, c] ∨ s.cores = [c, core] → s.spareCores = [] →
        ∃ t, exec (.coreFailover core) s = .next t ∧ t.cores = [c, c] ∧ t.spareCores = [])
    ∧ (∀ core, core < 4 → s.cores ≠ [] → (∀ c ∈ s.cores, c = core) → s.spareCores = [] →
        ∃ t, exec (.coreFailover core) s = .next t ∧ t.cores = [] ∧ phaseOf t = 15 ∧ isReady t = false)

/-- EPOCH_CLOSE on a single device, once every lane of the problem has ended its epoch: a sum or a register that fails its check is a
fault (R129, R145); otherwise the close is made. -/
def Obligations.EpochCloseRow : Prop :=
  ∀ (s : State) (q i : Nat) (inner : Bool) (c : Cmd) (r : Run) (p : Prob), Serving s q opRun inner c →
    atStage s q 2 = some r → (Run.inStage r 2).find? (fun p => p.index == i) = some p → r.entered = true → p.epochs = true →
    r.group = none → p.finished = false → lanesStopped s p = true →
    (∀ r' u, closeFault s p = none → (closeAlone (queueFn s q) r p).run s = (.ok r', u) →
        exec (.epochClose q i) s = .next (keep s (checkAnneal (setRun u q r') q)))
    ∧ (∀ k f, closeFault s p = some (k, f) → exec (.epochClose q i) s = .next (keep s (laneStrike s k f)))
    ∧ (closeFault s p = none ↔ ∀ k ∈ p.lanes, (∀ x ∈ (laneOf s k).records, recordSum (laneOf s k).x x.terms = x.sum)
        ∧ (laneOf s k).energy = dueEnergy p (laneOf s k))

/-! ### Run groups -/

/-- JOIN, the writes of peers into the window, and counted barriers (R226 to R232, R236). -/
def Obligations.GroupExchange : Prop :=
  ∀ (s : State),
    (∀ q inner c r g, Serving s q opRun inner c → runOf s q = some r → r.group = some g → g.joinDone = false →
        (g.joinSent = false → g.position ≠ 0 ∨ r.seed.isSome = true →
          let b := Config.joinBytes (joinInfo s r g)
          exec (.join q) s = .next (keep s (sendPhase s q { g with joinSent := true }
            { phase := 0, bank := 0, epoch := 0, parts := [(0x3FE000, padTo b (alignUp b.length 8))] })))
        ∧ (∀ x xs, g.joinSent = true → sortNats g.claimed = x :: xs →
            exec (.join q) s = .next (keep s (failRun s q 0 (outcome stBadCommand (4 * 256 + x) 0))))
        ∧ (g.joinSent = true → g.claimed = [] → (GroupRun.peers g).all (fun e => e.2.joined) = true → exec (.join q) s = .next (keep s (joinEnd s q r g))))
    ∧ (∀ f q r g, f < 4 → frameRun s f = some (q, r, g) →
        (∀ req off b a, off < 2 ^ 29 → (GroupRun.peers g).any (fun e => e.2.requester == req) = true → areaOf (off / 2 ^ 28) (off % 2 ^ 22) b.length = some a →
            ∃ t, exec (.frameWrite req f off b) s = .next t ∧ readCells t.winMem (winAddr f off) b.length = b
              ∧ (∀ x, x < winAddr f off ∨ winAddr f off + b.length ≤ x → tget memDefault t.winMem x = tget memDefault s.winMem x)
              ∧ (a ≠ 4 → let k := countKey f (off / 2 ^ 22 % 64) (off / 2 ^ 28) a
                  areaCount t k = areaCount s k + b.length ∧ ∀ j, j ≠ k → areaCount t j = areaCount s j)
              ∧ t.mem = s.mem)
        ∧ (∀ req off b, (GroupRun.peers g).any (fun e => e.2.requester == req) = false ∨ areaOf (off / 2 ^ 28) (off % 2 ^ 22) b.length = none →
            exec (.frameWrite req f off b) s = .next (keep s (discardWrite s req f off)))
        ∧ (∀ sender ph bank e, g.barriers.find? (isBarrier g sender ph bank) = some e → sender ≠ g.position → sender < g.size → ph ≤ 2 →
            let n := leAt e.2.2 4 4
            let k := countKey f sender bank ph
            let h := { g with barriers := g.barriers.erase e }
            (areaCount s k < n → exec (.countedBarrier f sender ph bank) s = .next s)
            ∧ (areaCount s k = n → sumWords (areaBytes s f sender bank ph n) = leAt e.2.2 0x10 8 →
                exec (.countedBarrier f sender ph bank) s =
                  .next (keep s (giveCredit (setGroup (setCount s k 0) q (honour h sender ph (leAt e.2.2 8 8) (areaBytes s f sender bank ph n))) q sender)))
            ∧ (n < areaCount s k ∨ (areaCount s k = n ∧ sumWords (areaBytes s f sender bank ph n) ≠ leAt e.2.2 0x10 8) →
                exec (.countedBarrier f sender ph bank) s =
                  .next (keep s (askAgain (setCount s k 0) q h sender ph (BitVec.ofNat 64 (leAt e.2.2 8 8))))
                ∧ areaCount (askAgain (setCount s k 0) q h sender ph (BitVec.ofNat 64 (leAt e.2.2 8 8))) k = 0))
        ∧ (∀ sender bank e, g.barriers.find? (isBarrier g sender 3 bank) = some e → sender ≠ g.position → sender < g.size →
            exec (.countedBarrier f sender 3 bank) s = .next (keep s (giveCredit (setGroup (setCount s (countKey f sender bank 3) 0) q
              (honour { g with barriers := g.barriers.erase e } sender 3 (leAt e.2.2 8 8) (areaBytes s f sender bank 3 (leAt e.2.2 4 4)))) q sender)))
        ∧ (∀ sender ph e x m, g.sent.find? (fun x => x.phase == ph && x.epoch == e) = some x → g.members[sender]? = some m → sender ≠ g.position →
            exec (.resend f sender ph e) s = .next (keep s (setGroup (sendTo s g x m) q
              { GroupRun.setMember g sender (fun m => { m with since := s.us }) with recovery := true })))
        ∧ (∀ sender e, sender ≠ g.position → exec (.credit f sender e) s = .next (keep s (setGroup s q
            (GroupRun.setMember g sender (fun m => { m with credit := if m.credit.contains e then m.credit else m.credit ++ [e] }))))))

/-- Missed deadlines, loose exchange, and how a run of a group ends (R237, R238, R240, R241). -/
def Obligations.GroupEnds : Prop :=
  ∀ (s : State) (f q : Nat) (r : Run) (g : GroupRun), f < 4 → frameRun s f = some (q, r, g) →
    (∀ late ph e k, awaits r g late ph = some e → missCase s g late ph = some k → GroupRun.isLoose g e = false →
        ∃ u, exec (.barrierDeadlineMiss f late ph) s = .next (keep s (fallLoose (tellPeers u g (.loose e)) q e)) ∧ u = { s with peat := u.peat })
    ∧ (∀ late ph, awaits r g late ph = none ∨ missCase s g late ph = none → exec (.barrierDeadlineMiss f late ph) s = .next s)
    ∧ (∀ sender e, sender < g.size → sender ≠ g.position → exec (.loose f sender e) s = .next (keep s (fallLoose s q e)))
    ∧ (runOf s q = some r → ∀ e, ∃ r' g', runOf (fallLoose s q e) q = some r' ∧ r'.group = some g' ∧ r'.loose = true ∧ GroupRun.isLoose g' e = true
        ∧ ∀ x, GroupRun.isLoose g x = true → GroupRun.isLoose g' x = true)
    ∧ (∀ st : Byte, g.position ≠ 0 → r.stages.length ≤ r.done → st.toNat < 0x10 → (g.members.head?.any (·.ended)) = true →
        ∃ u d, u = { s with draws := s.draws + 1 } ∧ (st.toNat = stLoose → d = (g.looseFrom.getD 0).toNat % 2 ^ 32)
        ∧ (st.toNat ≠ stLoose → st.toNat ≠ stTruncated → d = 0)
        ∧ exec (.endRun f st) s = .next (keep s (completeRun u q r (outcome st.toNat d (Run.decisions r)))))
    ∧ (∀ sender (st : Byte), sender < g.size → sender ≠ g.position → 0x10 ≤ st.toNat →
        exec (.abort f sender st) s = .next (keep s (finish (endRun s q st.toNat (errorEnd (outcome st.toNat (2 ^ 31 + sender) 0) 0) false) q
          (outcome st.toNat (2 ^ 31 + sender) 0))))

/-! ### Device memory and shared slices -/

/-- What a read of a word finds, by its three syndromes (R290): a word as stored is clean, an error in any one symbol is corrected there and
the read counted in CE_COUNT of its channel, and an error in any two is found uncorrectable and never miscorrected. -/
def Obligations.SymbolErrors : Prop :=
  (∀ c : List Byte, let S := fun k => syndrome k c
      ((S 0 = 0 ∧ S 1 = 0 ∧ S 2 = 0) ↔ decodeWord c = .clean)
      ∧ (∀ p v, decodeWord c = .corrected p v → p < c.length ∧ v = S 0 ∧ S 0 ≠ 0 ∧ S 1 = gfShift (S 0) p ∧ S 2 = gfShift (S 1) p)
      ∧ (∀ p, p < c.length → c.length ≤ 36 → S 0 ≠ 0 → S 1 = gfShift (S 0) p → S 2 = gfShift (S 1) p → decodeWord c = .corrected p (S 0)))
  ∧ (∀ (d : List Byte) (md v : Byte) (p : Nat), d.length = 32 → p < 36 → v ≠ 0 →
      decodeWord (encodeWord d md) = .clean
      ∧ decodeWord ((encodeWord d md).mapIdx (fun i x => if i = p then x ^^^ v else x)) = .corrected p v)
  ∧ (∀ (d : List Byte) (md v v' : Byte) (p p' : Nat), d.length = 32 → p < 36 → p' < 36 → p ≠ p' → v ≠ 0 → v' ≠ 0 →
      ∃ s0, decodeWord ((encodeWord d md).mapIdx (fun i x => if i = p then x ^^^ v else if i = p' then x ^^^ v' else x)) = .uncorrectable s0)
  ∧ (∀ (s : State) (w p : Nat) (v : Byte) (scrub : Bool), checkWord s w = .corrected p v →
      let c := reg (channelPage (wordPlace s w).1) 0x20
      getReg (visitWord s w scrub).2 0 c = min (getReg s 0 c + 1) (2 ^ 32 - 1))

/-- MEM_READ of a plain word: the data, whatever single symbol an upset has struck, and the word is whole again (R290, R293); at a shared
slice's address the slice's word, in a hole zero (R285).  What strikes one pin within eight beats of one symbol is such an upset (R283; the
numbering of symbols is log entry 151).  MEM_WRITE is a demand write. -/
def Obligations.MemoryRows : Prop :=
  (∀ (pin k : Nat) (beats : List Nat), pin < 12 → k < 3 → (∀ b ∈ beats, b / 8 = k) →
      ∃ p v, p < 36 ∧ ∀ i, i < 36 → upsetAt (pinUpset pin beats) i = if i = p then v else 0)
  ∧ ∀ (s : State) (a : Nat), memoryUp s = true →
    (a < capacity s → errOf s (a / 32) = 0 → metaOf s (a / 32) = 0 → Fixed s (a / 32 * 32) 32 → ∃ t, exec (.memRead a 0) s = .next t
        ∧ t.port = { data := wordData s (a / 32) } ∧ t.mem = s.mem ∧ (∀ w, errOf t w = errOf s w)
        ∧ t = { s with port := t.port, regs := t.regs, limiter := t.limiter, rewritten := t.rewritten, memErr := t.memErr })
    ∧ (∀ p v, a < capacity s → errOf s (a / 32) = 0 → metaOf s (a / 32) = 0 → Fixed s (a / 32 * 32) 32 → p < 36 → v ≠ 0 →
        ∃ t, exec (.memRead a (upsetSymbol p v)) s = .next t ∧ t.port = { data := wordData s (a / 32) } ∧ errOf t (a / 32) = 0
          ∧ ∀ b, peekDev t b 1 = peekDev s b 1)
    ∧ (∀ n o, sliceAt a = some (n, o) → sliceErrOf s n (o / 32) = 0 → ∃ t, exec (.memRead a 0) s = .next t
        ∧ t.port = { data := readCells s.sliceMem (sliceBytes * n + o / 32 * 32) 32 } ∧ t.sliceMem = s.sliceMem ∧ t.mem = s.mem)
    ∧ (∀ u, capacity s ≤ a → sliceAt a = none → ∃ t, exec (.memRead a u) s = .next t ∧ t.port = { data := List.replicate 32 0 } ∧ t.mem = s.mem
        ∧ t = { s with port := t.port, peat := t.peat })
    ∧ (∀ b, exec (.memWrite a b) s = .next (keep s (writeDev s noFn a b)))

/-- SCRUB reads and mends the next word of its channel and moves on (R294); MC_INJECT_WRITE and what reads find of its errors (R481); ROW_REPAIR of a persistent-faulty row and its end (R296, R297). -/
def Obligations.RepairRows : Prop :=
  (∀ (s : State) (ch : Nat) (u : Upset), ch < channels s → ch < 48 → memoryUp s = true → channelState s ch = 0 →
      fld s (mcWide 0x10C) 8 1 = 1 →
      let n := tget (fun _ => 0) s.scrubPos ch
      let w := unplace ch (n * 32) (channels s) / 32
      exec (.scrub ch u) s = .next (keep s (scrubNext (visitWord (upsetWord s w u) w true).2 ch))
      ∧ ∃ t, exec (.scrub ch u) s = .next t ∧ tget (fun _ => 0) t.scrubPos ch = (if n + 1 < 18 * 2 ^ 25 then n + 1 else 0)
        ∧ ∀ b, b / 32 ≠ w → peekDev t b 1 = peekDev s b 1)
  ∧ ((∀ (d : List Byte) (md : Byte) (p : Nat), d.length = 32 → p < 36 →
      decodeWord ((encodeWord d md).mapIdx (fun i c => c ^^^ upsetAt (injectPattern p) i)) = .corrected p 0x01
      ∧ decodeWord ((encodeWord d md).mapIdx (fun i c => c ^^^ upsetAt (injectPattern (64 + p)) i)) = .uncorrectable 0x03)
    ∧ (∀ (s : State) (ch : Nat) (v : U32), Answers s 0 → ch < 48 → ch < channels s → pageParked s (channelPage ch) = false →
        (v.toNat % 64 < 36 → exec (.mcInjectWrite 0 ch v) s = .next (setReg s 0 (reg (channelPage ch) 0x11C) (v.toNat % 256)))
        ∧ (36 ≤ v.toNat % 64 → exec (.mcInjectWrite 0 ch v) s = .next s)))
  ∧ (∀ (s : State),
      (∀ a, a < capacity s → memoryUp s = true →
        let ch := (wordPlace s (a / 32)).1
        let k := rowKey s (a / 32)
        s.faultyRows.contains k = true → s.repairs.any (fun e => e.1 == ch) = false →
        (∃ t, exec (.rowRepair a .soft) s = .next t ∧ t.repairs = tput s.repairs ch k ∧ (rowPhys k, rowNumber k) ∈ t.flash.hardRows
          ∧ t = { s with repairs := t.repairs, flash := { s.flash with hardRows := t.flash.hardRows }, regs := t.regs })
        ∧ (∃ t, exec (.rowRepair a .hardOnly) s = .next t ∧ k ∉ t.faultyRows ∧ (rowPhys k, rowNumber k) ∈ t.flash.hardRows ∧ t.repairs = s.repairs)
        ∧ (∃ t, exec (.rowRepair a .noSpare) s = .next t ∧ k ∉ t.faultyRows ∧ rowPhys k ∈ t.flash.retireMarks ∧ t.repairs = s.repairs))
      ∧ (∀ ch k, ch < 48 → s.repairs.find? (fun e => e.1 == ch) = some (ch, k) →
          ∃ t, exec (.rowRepairDone ch) s = .next t ∧ t.repairs = tdel s.repairs ch ∧ k ∉ t.faultyRows
            ∧ tget (fun _ => 0) t.rowRepairs (rowPhys k) = tget (fun _ => 0) s.rowRepairs (rowPhys k) + 1))

/-- MC_SEAL_ENABLE, MC_SEAL_DISABLE, REKEY and SEAL_REWRITE_DONE complete in every state that takes them, with the effect of R298 and R299:
a partition turns to zero under new keys, or as plaintext, or stands under the next generation; a rewrite ends; and the firmware area is
sealed before READY. -/
def Obligations.SealRows : Prop :=
  (∀ (s : State) (f : Nat), Answers s 0 → sealSel s = f →
    ((sealOf s f).enabled = false → fnQuiet s f = true → approved s = true →
        exec (.mcSealEnable 0) s = .next (keep s (sealAnew s f))
        ∧ (sealOf (sealAnew s f) f).enabled = true ∧ (sealOf (sealAnew s f) f).version = 1 ∧ (sealOf (sealAnew s f) f).previous = 0
        ∧ (sealOf (sealAnew s f) f).zeroing = true
        ∧ (∀ a, (partition s f).1 ≤ a → a < (partition s f).2 → peekDev (sealAnew s f) a 1 = [0])
        ∧ ∀ a, s.rng.pool = [] → a < (partition s f).1 ∨ (partition s f).2 ≤ a → peekDev (sealAnew s f) a 1 = peekDev s a 1)
    ∧ ((sealOf s f).enabled = true ∨ fnQuiet s f = false → exec (.mcSealEnable 0) s = .next s)
    ∧ ((sealOf s f).enabled = true → fnQuiet s f = true →
        let t := zeroRange (setSeal s f { zeroing := true }) (partition s f).1 (partition s f).2 {}
        exec (.mcSealDisable 0) s = .next (keep s t) ∧ sealOf t f = { zeroing := true }
        ∧ (∀ a, (partition s f).1 ≤ a → a < (partition s f).2 → peekDev t a 1 = [0])
        ∧ ∀ a, a < (partition s f).1 ∨ (partition s f).2 ≤ a → peekDev t a 1 = peekDev s a 1)
    ∧ ((sealOf s f).enabled = false ∨ fnQuiet s f = false → exec (.mcSealDisable 0) s = .next s)
    ∧ ((sealOf s f).enabled = true → (sealOf s f).version ≠ 0 → (sealOf s f).rekeyBusy = false → (sealOf s f).zeroing = false →
        fnQuiet s f = true → approved s = true → ∃ t, exec (.rekey 0) s = .next t
          ∧ sealOf t f = { sealOf s f with version := nextVersion (sealOf s f).version, previous := (sealOf s f).version, key := s.keys + 1
                                           prevKey := (sealOf s f).key, rekeyBusy := true }
          ∧ (∀ n, n ≠ f → sealOf t n = sealOf s n) ∧ (s.rng.pool = [] → t = { s with seals := t.seals, keys := s.keys + 1, enclave := t.enclave, rng := t.rng }))
    ∧ ((sealOf s f).enabled = false ∨ (sealOf s f).rekeyBusy = true ∨ fnQuiet s f = false → exec (.rekey 0) s = .next s))
  ∧ (∀ (s : State) (n : Nat), n < 16 →
    ((sealOf s n).zeroing = true → exec (.sealRewriteDone n) s = .next (setSeal s n { sealOf s n with zeroing := false, byFlr := false }))
    ∧ ((sealOf s n).zeroing = false → (sealOf s n).rekeyBusy = true →
        let v := sealOf s n
        let t := setSeal (rekeyRange s (partition s n).1 (partition s n).2 { md := mkMeta false v.version, key := v.key }) n
          { v with rekeyBusy := false, previous := 0, prevKey := 0 }
        exec (.sealRewriteDone n) s = .next (keep s t) ∧ sealOf t n = { v with rekeyBusy := false, previous := 0, prevKey := 0 })
    ∧ ((sealOf s n).zeroing = false → (sealOf s n).rekeyBusy = false → exec (.sealRewriteDone n) s = .next s))
  ∧ (∀ (s : State), phaseOf s = 8 → s.areaSealed = false → s.enclave.drbgSeed.isSome = true → approved s = true →
      ∃ t, exec (.sealRewriteDone 16) s = .next t ∧ t.areaSealed = true ∧ t.areaKey = true
        ∧ (∀ a, firmwareArea s ≤ a → a < capacity s → peekDev t a 1 = [0]) ∧ ∀ a, a < firmwareArea s → peekDev t a 1 = peekDev s a 1)

/-- SLICE_ACCESS: a read beside a write to its word returns the word as it stood (R303); of two writes to one word both take effect, A first, and the collision is counted (R302).  The march test of a slice: a window is borrowed, an access to it ends the test, and the next window follows in order (R305, R306). -/
def Obligations.SliceRows : Prop :=
  (∀ (s : State) (n : Nat), n < 128 → awake s = true → (marchOf s n).testing = false →
      let base := sliceBytes * n
      (∀ o len, o < sliceBytes → sliceErrOf s n (o / 32) = 0 → ∃ t, exec (.sliceAccess n (some (.read o len 0)) none) s = .next t
          ∧ t.port = { data := (readCells s.sliceMem (base + o) 32).take (min len (32 - o % 32)) } ∧ t.sliceMem = s.sliceMem)
      ∧ (∀ o len o' b, o < sliceBytes → o' < sliceBytes → o / 32 = o' / 32 → o' % 32 + b.length ≤ 32 → sliceErrOf s n (o / 32) = 0 →
          ∃ t, exec (.sliceAccess n (some (.read o len 0)) (some (.write o' b))) s = .next t
            ∧ t.port.data = (readCells s.sliceMem (base + o) 32).take (min len (32 - o % 32))
            ∧ t.sliceMem = writeCells s.sliceMem (base + o') b)
      ∧ (∀ o b o' b', o < sliceBytes → o' < sliceBytes → o % 32 + b.length ≤ 32 → o' % 32 + b'.length ≤ 32 →
          sliceErrOf s n (o / 32) = 0 → sliceErrOf s n (o' / 32) = 0 →
          ∃ t, exec (.sliceAccess n (some (.write o b)) (some (.write o' b'))) s = .next t
            ∧ t.sliceMem = writeCells (writeCells s.sliceMem (base + o) b) (base + o') b'
            ∧ get64 t (reg (slicePage n) 0x48) = (get64 s (reg (slicePage n) 0x48) + (if o / 32 = o' / 32 then 1 else 0)) % 2 ^ 64))
  ∧ (∀ (s : State) (n : Nat), n < 128 →
      let m := marchOf s n
      (awake s = true → fld s (reg (slicePage n) 0x44) 0 1 = 1 → m.testing = false → (n < 64 ∨ fld s (reg 4 0x70) 0 2 = 0) →
          ∃ t, exec (.marchWindow n) s = .next t ∧ marchOf t n = { m with testing := true, window := m.next }
            ∧ t = { s with marches := t.marches, regs := t.regs })
      ∧ (∀ a p, m.testing = true → inWindow m (PortAccess.word a) = true → ∃ t, exec (.marchPreempt n a p) s = .next t
          ∧ marchOf t n = { m with testing := false })
      ∧ (∀ faulty, m.testing = true → ∃ t, exec (.marchWindowDone n faulty) s = .next t
          ∧ marchOf t n = { m with testing := false, next := (m.window + 1) % 512 })
      ∧ (m.testing = true → s.sliceErr = [] → ∃ t, exec (.marchWindowDone n []) s = .next t ∧ t.sliceMem = s.sliceMem
          ∧ t = { s with marches := t.marches, regs := t.regs }))

/-! ### Random numbers -/

/-- RANDOM_FILL, SEED_DRAW, FETCH, RN_DATA15_READ and the source's events (R383 to R390); consumers are served by rank (R384, R385). -/
def Obligations.RandomRows : Prop :=
  (∀ (s : State),
      (∀ q inner c, Serving s q opRandomFill inner c → rnSource s ≠ 3 →
          exec (.randomFill q) s = .next (keep s (request s { rank := 3, queue := true, who := q })))
      ∧ (∀ q inner c, Serving s q opRandomFill inner c → rnSource s = 3 → ∃ u, u.queues = s.queues
          ∧ exec (.randomFill q) s = .next (keep s (finish u q (outcome 0x40 0 0))))
      ∧ (∀ q, q < 4096 → s.rng.waiters.any (fun w => w.rank == 2 && w.who == q) = true → exec (.seedDraw q) s = .next (keep s (servePool s 8)))
      ∧ (∀ fn, Answers s fn → holdOf s fn = 0 → rnSource s = 1 ∨ rnSource s = 2 →
          exec (.fetch fn) s = .next (keep s (request (setHold s fn 1 0) { rank := 3, queue := false, who := fn })))
      ∧ (∀ fn, Answers s fn → holdOf s fn ≠ 0 ∨ rnSource s = 0 → exec (.fetch fn) s = .next s)
      ∧ (∀ fn, fn < 16 → holdOf s fn = 2 → ∃ t, exec (.rnData15Read fn) s = .next t ∧ holdOf t fn = 0
          ∧ t.port = { data := toLE 4 ((tget (fun _ => 0) s.rng.holdBlock fn).toNat / 2 ^ 480) }
          ∧ (∀ w, holdWord t fn w = 0) ∧ (∀ g, g ≠ fn → holdOf t g = holdOf s g ∧ ∀ w, holdWord t g w = holdWord s g w)
          ∧ t = { s with rng := t.rng, port := t.port })
      ∧ (∀ fn, fn < 16 → holdOf s fn ≠ 2 → exec (.rnData15Read fn) s = .next (answer s (List.replicate 4 0)))
      ∧ (∀ raw b r, rnSource s = 1 → makeBlock raw s.rng = .ok (b, r) → exec (.rngBlockComplete raw) s = .next (keep s (placeBlock { s with rng := r } b)))
      ∧ (∀ raw apt r, rnSource s = 1 → makeBlock raw s.rng = .error (apt, r) → exec (.rngBlockComplete raw) s = .next (keep s (rngFail { s with rng := r } apt)))
      ∧ (∀ apt n, rnSource s = 1 ∨ (rnSource s = 0 ∧ phaseOf s = 7) →
          exec (.rngTestFail apt n) s = .next (keep s (rngFail { s with rng := { s.rng with samples := s.rng.samples + n } } apt)))
      ∧ (rnSource s = 2 → ∃ t, exec .rngRestartDone s = .next t ∧ rnSource t = (if phaseOf s = 7 then 0 else 1)
          ∧ t.rng = { s.rng with s := 0, rctRun := 0, aptSeen := 0, aptCount := 0 } ∧ t = { s with rng := t.rng, regs := t.regs }))
  ∧ (∀ (s : State) (w : Waiter), nextWaiter s = some w →
      w ∈ s.rng.waiters ∧ (∀ v ∈ s.rng.waiters, v.rank = 1 → w.rank = 1) ∧ (∀ v ∈ s.rng.waiters, v.rank = 2 → w.rank = 1 ∨ w.rank = 2)
      ∧ (w.rank = 3 → 2 < s.rng.pool.length))

/-- A failing sample restarts the source; the third failure within 2^20 samples of the first is the fatal alarm: the source has failed,
the pool is discarded and nobody waits any longer (R389, R390). -/
def Obligations.SourceFailures : Prop :=
  ∀ (s : State) (apt : Bool),
    let t := rngFail s apt
    let recent := s.rng.failures.filter (fun f => decide (s.rng.samples ≤ f + 2 ^ 20))
    (recent.length < 2 → rnSource t = 2 ∧ t.rng.failures = recent ++ [s.rng.samples] ∧ t.rng.waiters = s.rng.waiters ∧ t.rng.pool = s.rng.pool)
    ∧ (2 ≤ recent.length → rnSource t = 3 ∧ t.rng.pool = [] ∧ t.rng.waiters = [] ∧ fld t rnStatus 2 1 = 1)

/-- No block is made of samples that hold 61 equal ones in succession (R380). -/
def Obligations.RepetitionCaught : Prop :=
  ∀ (raw : BitVec 2048) (b : BitVec 512) (r t : Rng), makeBlock raw r = .ok (b, t) →
    ∀ j, j + 61 ≤ 2048 → ∃ k, k < 61 ∧ raw.getLsbD (j + k) ≠ raw.getLsbD j

/-! ### Power, parking and the twilight domain -/

/-- Performance points, the beat monitor and the power limiter (R314 to R322). -/
def Obligations.PowerRows : Prop :=
  ∀ (s : State),
    (∀ v : U32, Answers s 0 → ∃ t, exec (.ppRequest 0 v) s = .next t
        ∧ fld t (reg 4 0x40) 0 3 = (if bits v.toNat 0 3 ≤ 5 then bits v.toNat 0 3 else fld s (reg 4 0x40) 0 3)
        ∧ fld t (reg 4 0x40) 4 3 = (if bits v.toNat 4 3 ≤ 5 then bits v.toNat 4 3 else fld s (reg 4 0x40) 4 3)
        ∧ (∀ h, halfParked s h = false → (rampOf t h).getD (fld t (reg 4 0x48) (Half.lo h) 3) = wantedPoint t h)
        ∧ (∀ h, fld t (reg 4 0x48) (Half.lo h) 3 = fld s (reg 4 0x48) (Half.lo h) 3)
        ∧ t = { s with regs := t.regs, limiter := t.limiter })
    ∧ (∀ h p, rampOf s h = some p → p ≤ 5 → ∃ t, exec (.ppRampDone h) s = .next t ∧ rampOf t h = none
        ∧ fld t (reg 4 0x48) (Half.lo h) 3 = p ∧ t = { s with regs := t.regs, limiter := t.limiter })
    ∧ (∀ h mean temp, awake s = true → halfParked s h = false → ∃ t, exec (.beatWindow h mean temp) s = .next t
        ∧ getReg t 0 (beatReg h) = mean.toNat + 2 ^ 16 * temp.toNat
        ∧ (let i := (match h with | .west => 46 | .east => 78) + beatBin mean.toNat
           lifeOf t i = (lifeOf s i + 1) % 2 ^ 64 ∧ ∀ j, j ≠ i → lifeOf t j = lifeOf s j))
    ∧ (∀ w m a we ea, awake s = true → ∃ t, exec (.powerSample w m a we ea) s = .next t
        ∧ (let l := (w :: s.limiter.samples).take 100
           t.limiter.samples = l ∧ fld t powerStatus 0 10 = min (l.sum / l.length) 1023)
        ∧ get64 t (reg 4 0x64) = (get64 s (reg 4 0x64) + (if rho s < 256 then 10 else 0)) % 2 ^ 64 ∧ rho t = rho s)
    ∧ (∀ target est, awake s = true → ∃ t, exec (.rhoCorrection target est) s = .next t
        ∧ (let want := max 32 (min target 256)
           let near := if est then want
             else if powerLimit s < fld s powerStatus 0 10 then max 32 (max (rho s - 16) (min want (rho s - 1)))
             else max (rho s) (min want (rho s + 16))
           rho t = if fld s powerStatus 20 1 = 1 then min near (rho s) else near)
        ∧ (est = false → powerLimit s < fld s powerStatus 0 10 → 32 < rho s → rho t < rho s)
        ∧ (est = false → fld s powerStatus 0 10 ≤ powerLimit s → fld s powerStatus 20 1 = 0 → rho s ≤ rho t)
        ∧ t = { s with regs := t.regs, peat := t.peat })
    ∧ (awake s = true → throttleAt s ≤ junction s .west ∨ throttleAt s ≤ junction s .east → ∃ t, exec .thermalPacingStep s = .next t
        ∧ rho t = max 32 (rho s - 8) ∧ fld t powerStatus 20 1 = 1 ∧ t = { s with regs := t.regs, peat := t.peat })
    ∧ (awake s = true → fld s powerStatus 20 1 = 1 → junction s .west + 3 ≤ throttleAt s → junction s .east + 3 ≤ throttleAt s →
        ∃ t, exec .thermalPacingStep s = .next t ∧ rho t = min 256 (rho s + 8)
          ∧ fld t powerStatus 20 1 = (if rho s + 8 < 256 then 1 else 0) ∧ t = { s with regs := t.regs, peat := t.peat })
    ∧ (∀ v : U32, Answers s 0 → ∃ t, exec (.glPowerLimitWrite 0 v) s = .next t
        ∧ getReg t 0 (reg 4 0x54) = max 200 (min (v.toNat % 1024) 750) ∧ (∀ a, a ≠ reg 4 0x54 → getReg t 0 a = getReg s 0 a) ∧ t = { s with regs := t.regs })

/-- Parking the East half and D3hot (R324 to R326, R308). -/
def Obligations.ParkRows : Prop :=
  ∀ (s : State),
    (∀ b, Answers s 0 → ∃ t, exec (.parkRequest 0 .west b) s = .next t ∧ fld t parkStatus 2 3 = 2
        ∧ fld t parkStatus 0 2 = fld s parkStatus 0 2 ∧ t = { s with regs := t.regs })
    ∧ (∀ b, Answers s 0 → eastBusy s b = true → ∃ t, exec (.parkRequest 0 .east b) s = .next t ∧ fld t parkStatus 2 3 = 3
        ∧ fld t parkStatus 0 2 = fld s parkStatus 0 2 ∧ t = { s with regs := t.regs })
    ∧ (∀ b, Answers s 0 → eastBusy s b = false → fld s parkStatus 0 2 = 0 ∨ fld s parkStatus 0 2 = 3 → ∃ t, exec (.parkRequest 0 .east b) s = .next t
        ∧ fld t parkStatus 2 3 = 1 ∧ fld t parkStatus 0 2 = 1 ∧ (∀ k, 48 * 256 ≤ k → k < 96 * 256 → frameOf t k = none)
        ∧ (∀ a, 64 * sliceBytes ≤ a → tget memDefault t.sliceMem a = 0) ∧ (∀ a, a < 64 * sliceBytes → tget memDefault t.sliceMem a = tget memDefault s.sliceMem a)
        ∧ (∀ a, a < firmwareArea s → peekDev t a 1 = peekDev s a 1)
        ∧ t = { s with regs := t.regs, frames := t.frames, ctxs := t.ctxs, mem := t.mem, memMeta := t.memMeta, memErr := t.memErr, limiter := t.limiter
                       sliceMem := t.sliceMem, sliceErr := t.sliceErr, marches := t.marches })
    ∧ (fld s parkStatus 0 2 = 1 → ∃ t, exec .parkDone s = .next t ∧ fld t parkStatus 0 2 = (if s.limiter.wakeEast then 3 else 2)
        ∧ (∀ k, 48 * 16 ≤ k → laneOf t k = {}) ∧ t.sliceMem = s.sliceMem ∧ t.mem = s.mem)
    ∧ (Answers s 0 → fld s parkStatus 0 2 = 2 → exec (.unpark 0) s = .next (setFld s parkStatus 0 2 3))
    ∧ (fld s parkStatus 0 2 = 3 → ∃ t, exec .unparkDone s = .next t ∧ fld t parkStatus 0 2 = 0
        ∧ fld t (reg 4 0x48) 4 3 = wantedPoint s .east ∧ t.limiter.heldEast = false ∧ t = { s with regs := t.regs, limiter := t.limiter })
    ∧ (awake s = true → ∃ t, exec .d3hotEntry s = .next t ∧ t.board.power = .d3hot ∧ isReady t = false ∧ (∀ a, tget memDefault t.sliceMem a = 0)
        ∧ (∀ k, laneOf t k = {}) ∧ t.frames = [] ∧ t.peat.flashSurface = t.peat.surface
        ∧ t.flash.lifetime = t.lifetime)
    ∧ (s.board.power = .d3hot → phaseOf s = 8 → ∃ t, exec (.d3hotExit true) s = .next t ∧ t.board.power = .d0 ∧ isReady t = true
        ∧ t.peat.surface = s.peat.flashSurface ∧ t.peat.deep = s.peat.flashDeep ∧ t.mem = s.mem)
    ∧ (s.board.power = .d3hot → phaseOf s = 8 → ∃ t, exec (.d3hotExit false) s = .next t ∧ t.board.power = .d0 ∧ enclaveState t = 3)

/-- The twilight domain's events and the target on the management bus (R330 to R334, R468). -/
def Obligations.TwilightRows : Prop :=
  ∀ (s : State), s.board.auxOk = true →
    (∀ n, n < 4 → s.tw.matched.getD n false = false → (compareValue s n).toNat ≤ s.tw.count.toNat → compareValue s n ≠ 0xFFFFFFFFFFFFFFFF →
        ∃ t, exec (.timeComparatorMatch n) s = .next t ∧ t.tw.event = s.tw.event ||| BitVec.ofNat 8 (2 ^ n)
          ∧ t.tw.matched = s.tw.matched.set n true ∧ t.tw.lw = s.tw.lw ∧ t = { s with tw := t.tw, regs := t.regs, pcie := t.pcie })
    ∧ (∀ n, n < 4 → s.tw.level.getLsbD n = false → ∃ t, exec (.analogComparator n) s = .next t
        ∧ t.tw.level = s.tw.level ||| BitVec.ofNat 4 (2 ^ n) ∧ t.tw.event.getLsbD (4 + n) = true
        ∧ t.tw.lwSeq = (if s.tw.event.getLsbD (4 + n) then s.tw.lwSeq else s.tw.lwSeq + 1)
        ∧ t.tw.lw = (if s.tw.event.getLsbD (4 + n) then s.tw.lw
            else s.tw.lw.set s.tw.lwNext (BitVec.ofNat 64 (n + 1 + 2 ^ 16 * (s.tw.count.toNat % 2 ^ 48))))
        ∧ t = { s with tw := t.tw, regs := t.regs, pcie := t.pcie })
    ∧ (∀ n, n < 4 → exec (.analogLevelClear n) s = .next { s with tw := { s.tw with level := s.tw.level &&& ~~~ BitVec.ofNat 4 (2 ^ n) } })
    ∧ (Answers s 0 → exec (.twLwClear 0) s = .next { s with tw := { s.tw with lw := List.replicate 8 0, lwNext := 0 } })
    ∧ exec .timerTrim s = .next s
    ∧ (∀ c v, 0x10 ≤ c → c < 0x40 → exec (.twilightTargetAccess c (some v)) s = .next (twWrite s (4 * c) v))
    ∧ (∀ c v, c < 0x10 ∨ 0x40 ≤ c → exec (.twilightTargetAccess c (some v)) s = .next s)
    ∧ (∀ c, 0x10 ≤ c → c < 0x40 → exec (.twilightTargetAccess c none) s = .next (answer (twRead s 16 (4 * c)).2 (toLE 4 (twRead s 16 (4 * c)).1)))
    ∧ exec (.twilightTargetAccess 1 none) s = .next (answer s (toLE 4
        ((if s.tw.svcLed then 1 else 0) + s.tw.causes * 2 + (if s.tw.thermtrip then 16 else 0))))
    ∧ (∀ v, exec (.twilightTargetAccess 0x13 (some v)) s = .next
        { s with tw := { s.tw with event := s.tw.event &&& ~~~ v.setWidth 8, wakeBy := s.tw.wakeBy &&& ~~~ v.setWidth 8 } })

/-! ### PCI Express -/

/-- BAR0 accesses of a wrong size, BAR2, configuration, MSI-X and ATS (R343 to R358). -/
def Obligations.PcieRows : Prop :=
  ∀ (s : State) (fn : Nat), fn < 16 →
    (∀ off size, awake s = true → ¬ ((size = 4 ∨ size = 8) ∧ off % size = 0) →
        exec (.bar0BadAccess fn off size true) s = .next (answerStatus (discard s) 1)
        ∧ exec (.bar0BadAccess fn off size false) s = .next (discard s))
    ∧ (∀ off n r b u, awake s = true → isReady s = true → 0 < n → n ≤ 4096 → off + n ≤ bar2Size s fn - 2 ^ 31 → windowBase s fn + off + n ≤ windowEnd s fn →
        beingZeroed s (windowBase s fn + off) = false → readDev s fn (windowBase s fn + off) n = (b, [], u) →
        exec (.bar2Read fn off n r) s = .next (keep s (answer u b)))
    ∧ (∀ off n r, awake s = true → isReady s = false → 0 < n → n ≤ 4096 → off + n ≤ bar2Size s fn →
        exec (.bar2Read fn off n r) s = .next (answer s (List.replicate n 0)))
    ∧ (∀ off b r, awake s = true → isReady s = true → b ≠ [] → off + b.length ≤ bar2Size s fn - 2 ^ 31 →
        windowBase s fn + off + b.length ≤ windowEnd s fn → beingZeroed s (windowBase s fn + off) = false →
        (let u := noteStale s (windowBase s fn + off) b.length
         exec (.bar2Write fn off b false r) s = .next (keep s (writeDev u fn (windowBase s fn + off) b)) ∧ u = { s with stale := u.stale })
        ∧ exec (.bar2Write fn off b true r) s = .next (keep s (reportAer (logPoison (poisonSpan s (windowBase s fn + off) b.length) fn
            (windowBase s fn + off) 0 r) fn 12 false)))
    ∧ (∀ x b r, awake s = true → isReady s = true → b ≠ [] → x + b.length ≤ 2 ^ 31 → 2 ^ 31 ≤ bar2Size s fn →
        exec (.bar2Write fn (bar2Size s fn - 2 ^ 31 + x) b false r) s = .next (keep s (frameWriteOn r (x / 2 ^ 29) (x % 2 ^ 29) b s)))
    ∧ (s.board.mainOk = true → s.board.perst = false →
        (∀ a, phaseOf s < 3 → exec (.configRequest fn a) s = .next (answerStatus s 2))
        ∧ (∀ a, 3 ≤ phaseOf s → fnPresent s fn = false → exec (.configRequest fn a) s = .next (answerStatus s 1))
        ∧ (∀ o v, 3 ≤ phaseOf s → fnPresent s fn = true →
            exec (.configRequest fn (.write o v)) s = .next (keep s (answer (cfgWrite s fn (o % 4096 / 4 * 4) v) [])))
        ∧ (∀ o, 3 ≤ phaseOf s → fnPresent s fn = true → exec (.configRequest fn (.read o)) s = .next (answer (cfgRead s fn (o % 4096 / 4 * 4)).2
            (toLE 4 (cfgRead s fn (o % 4096 / 4 * 4)).1)))
        ∧ (3 ≤ phaseOf s → fn = 0 → ∃ t, exec (.configRequest fn (.read 0)) s = .next t ∧ t.port = { data := [0x6E, 0x1F, 0x00, 0x72] }))
    ∧ (∀ k, 34 ≤ k → k ≤ 40 →
        (fn = 0 → s.pcie.memEnable = false → exec (.resizeBar fn k) s = .next { s with pcie := { s.pcie with bar2Log2 := k } })
        ∧ (fn ≠ 0 → s.pcie.vfMemEnable = false → exec (.resizeBar fn k) s = .next { s with pcie := { s.pcie with vfBar2Log2 := k } }))
    ∧ (∀ v, v < tableSize fn → ∃ t, exec (.msixUnmask fn (.unmask v)) s = .next t ∧ vectorUnmasked t fn v = true ∧ vectorPending t fn v = false
        ∧ (s.board.l1 = none → t.pcie.sent = s.pcie.sent ++ (if vectorPending s fn v then [.msix fn v] else []))
        ∧ t = { s with pcie := t.pcie })
    ∧ (∀ off, awake s = true → off < bar4Size s fn → off % 4 = 0 →
        exec (.msixUnmask fn (.read off)) s = .next (answer s (toLE 4 (msixWord s fn off)))
        ∧ (∀ w : U32, ∃ t, exec (.msixUnmask fn (.write off w)) s = .next t ∧ t = { s with pcie := t.pcie }
          ∧ (off / 16 < tableSize fn → off % 16 ≠ 12 → msixWord t fn off = w.toNat)
          ∧ (off / 16 < tableSize fn → off % 16 = 12 → vectorUnmasked t fn (off / 16) = !w.getLsbD 0)))
    ∧ (∀ p, exec (.atsInvalidate fn p) s = .next (sendMsg s (.invalidated fn p)))

/-- The link's events and its low-power states (R338, R339, R356). -/
def Obligations.LinkRows : Prop :=
  ∀ (s : State),
    (∀ speed width partner flit, s.board.mainOk = true → s.board.perst = false → 1 ≤ speed → speed ≤ 6 → (speed = 6 → flit = true) → width ∈ [1, 2, 4, 8, 16] →
        ∃ t, exec (.linkUp speed width partner flit) s = .next t ∧ t.board.l1 = none ∧ fld t (reg 3500 0x40) 0 3 = speed
          ∧ fld t (reg 3500 0x40) 3 5 = width ∧ fld t (reg 3500 0x40) 8 1 = (if flit then 1 else 0)
          ∧ fld t (reg 3500 0x40) 16 1 = (if width < 4 ∨ (speed < 4 ∧ speed < partner) then 1 else 0))
    ∧ (∃ t, exec (.linkReplay .replay) s = .next t ∧ getReg t 0 (reg 3500 0x44) = min (getReg s 0 (reg 3500 0x44) + 1) (2 ^ 32 - 1)
        ∧ lifeOf t 162 = (lifeOf s 162 + 1) % 2 ^ 64)
    ∧ (∃ t, exec (.linkReplay .retrain) s = .next t ∧ getReg t 0 (reg 3500 0x48) = min (getReg s 0 (reg 3500 0x48) + 1) (2 ^ 32 - 1)
        ∧ lifeOf t 163 = (lifeOf s 163 + 1) % 2 ^ 64)
    ∧ (∃ t, exec (.linkReplay .fecCorrected) s = .next t ∧ getReg t 0 (reg 3500 0x4C) = min (getReg s 0 (reg 3500 0x4C) + 1) (2 ^ 32 - 1)
        ∧ t = { s with regs := t.regs })
    ∧ (∀ sub, fld s (reg 3500 0x40) 0 3 ≠ 0 → s.board.l1 = none → (sub = .l2 → s.board.power = .d3hot) →
        exec (.l1Entry sub) s = .next { s with board := { s.board with l1 := some sub, clkreqReleased := decide (sub = .l12) } })
    ∧ (s.board.l1.isSome = true → exec .l1Exit s = .next { s with
          board := { s.board with l1 := none, clkreqReleased := false }
          pcie := { s.pcie with sent := s.pcie.sent ++ s.pcie.held, held := [] } })
    ∧ (∀ w, w ∈ [4, 8, 16] → fld s (reg 3500 0x40) 8 1 = 1 → w ≤ fld s (reg 3500 0x40) 3 5 → ∃ t, exec (.l0pWidthChange w) s = .next t
        ∧ fld t (reg 3500 0x40) 11 5 = w ∧ t = { s with regs := t.regs })

/-! ### Starts and resets -/

/-- The phases of a start (R363 to R368, R382, R395, R397). -/
def Obligations.StartPhases : Prop :=
  ∀ (s : State), awake s = true → isReady s = false →
    (∀ n, phaseOf s = 1 → bootSlot s = some n → s.flash.cfgValid = true → s.flash.cfgMin ≤ s.flash.cfgSvn →
        ∃ t, exec .boot s = .next t ∧ phaseOf t = 2 ∧ fld t 0x40 12 1 = n)
    ∧ (phaseOf s = 1 → bootSlot s = none → ∃ t, exec .boot s = .next t ∧ phaseOf t = 15 ∧ fld t 0x40 8 4 = 1)
    ∧ (∀ k, phaseOf s = 2 → ∃ t, exec (.identity true true true k) s = .next t ∧ phaseOf t = 3 ∧ t.enclave.identity = some k)
    ∧ (∀ a b c k, phaseOf s = 2 → (a && b && c) = false → ∃ t, exec (.identity a b c k) s = .next t ∧ phaseOf t = 15 ∧ fld t 0x40 8 4 = 3)
    ∧ (∀ ba bt bc bk w, phaseOf s = 3 → tooFew (badOf ba bt bc) bk = false → ∃ t, exec (.selftest ba bt bc bk true w) s = .next t
        ∧ phaseOf t = 4 ∧ (t.cores ++ t.spareCores).Perm ((List.range 4).filter (fun c => !bk.contains c)) ∧ t.cores.length = 2
        ∧ ∀ l, l < 2 → bk.contains l = false → t.cores[l]? = some l)
    ∧ (∀ ba bt bc bk i w, phaseOf s = 3 → tooFew (badOf ba bt bc) bk = true ∨ i = false →
        ∃ t, exec (.selftest ba bt bc bk i w) s = .next t ∧ phaseOf t = 15 ∧ fld t 0x40 8 4 = 4)
    ∧ (∀ failed, phaseOf s = 4 →
        let new := (List.range 48).filter (fun c => decide (c < physChannels s.part) && !s.flash.retired.contains c
          && (failed.contains c || s.flash.retireMarks.contains c))
        let all := s.flash.retired ++ new
        ((all.filter (westPhys s.part)).length ≤ 2 → (all.filter (fun c => !westPhys s.part c)).length ≤ 2 →
          ∃ t, exec (.training failed) s = .next t ∧ phaseOf t = 5 ∧ t.flash.retired = all ∧ t.flash.hardRows = [] ∧ t.flash.retireMarks = [])
        ∧ (2 < (all.filter (westPhys s.part)).length ∨ 2 < (all.filter (fun c => !westPhys s.part c)).length →
          ∃ t, exec (.training failed) s = .next t ∧ phaseOf t = 15 ∧ fld t 0x40 8 4 = 5 ∧ t.flash.retired = s.flash.retired))
    ∧ (phaseOf s = 5 → ∃ t, exec (.calibration true) s = .next t ∧ phaseOf t = 6)
    ∧ (phaseOf s = 5 → ∃ t, exec (.calibration false) s = .next t ∧ phaseOf t = 15 ∧ fld t 0x40 8 4 = 6)
    ∧ (∀ stuck, phaseOf s = 6 → stuck.any (fun c => decide (c < channels s)) = false → ∃ t, exec (.meminit stuck) s = .next t
        ∧ phaseOf t = 7 ∧ (∀ a, peekDev t a 1 = [0]) ∧ ∀ w, errOf t w = 0)
    ∧ (∀ raw b r, phaseOf s = 7 → rnSource s = 0 → makeBlock raw { s.rng with samples := s.rng.samples + (2 ^ 20 - 2048) } = .ok (b, r) →
        ∃ t, exec (.rngTest true raw) s = .next t ∧ phaseOf t = 8 ∧ rnSource t = 1 ∧ enclaveState t = 1 ∧ t.enclave.drbgSeed.isSome = true)
    ∧ (∀ raw, phaseOf s = 7 → rnSource s = 0 → ∃ t, exec (.rngTest false raw) s = .next t ∧ phaseOf t = 8 ∧ rnSource t = 3)
    ∧ (phaseOf s = 8 → s.enclave.drbgSeed.isNone = true ∨ s.areaSealed = true → fld s (reg 3500 0x40) 0 3 ≠ 0 → ∃ t, exec .ready s = .next t ∧ isReady t = true ∧ phaseOf t = 8
        ∧ t = { s with regs := t.regs })

/-- PERST#, the rails and the resets of the link (R357, R362, R463, R473). -/
def Obligations.RailRows : Prop :=
  ∀ (s : State),
    (s.board.perst = false → ∃ t, exec .perstAssert s = .next t ∧ t.board.perst = true ∧ awake t = false ∧ t.queues = [] ∧ t.plans = []
        ∧ t.tw = s.tw ∧ t.mem = s.mem ∧ t.flash.retired = s.flash.retired)
    ∧ (s.board.perst = true → s.board.mainOk = true → s.board.auxOk = true → ∃ t, exec .perstDeassert s = .next t ∧ t.board.perst = false
        ∧ wakePin t = false ∧ t.t0 = s.us ∧ fld t 0x40 13 1 = (if s.board.mainWasLost then 0 else 1) ∧ t.mem = s.mem)
    ∧ (s.board.mainIn = true → ∃ t, exec .mainLost s = .next t ∧ t.board.mainOk = false ∧ t.board.power = .off ∧ awake t = false
        ∧ t.board.mainWasLost = true ∧ t.queues = [] ∧ t.tw = s.tw)
    ∧ (s.board.mainIn = false → s.board.auxOk = true → ∃ t, exec .mainPowerReturn s = .next t ∧ t.board.mainOk = true ∧ t.tw.thermtrip = false
        ∧ t.tw.lwSeq = s.tw.lwSeq + 1 ∧ t.tw.lw = s.tw.lw.set s.tw.lwNext (BitVec.ofNat 64 (5 + 2 ^ 16 * (s.tw.count.toNat % 2 ^ 48))))
    ∧ (∀ k, s.board.auxOk = false → ∃ t, exec (.auxPowerOn k) s = .next t ∧ t.board.auxOk = true ∧ t.tw = { straps := k % 8 })
    ∧ (s.board.auxOk = true → ∃ t, exec .auxLost s = .next t ∧ t.board.auxOk = false ∧ t.board.mainOk = false ∧ t.tw = {})
    ∧ (s.board.mainOk = true → ∃ t, exec .thermtrip s = .next t ∧ t.board.mainOk = false ∧ t.tw.thermtrip = true ∧ t.tw.lwSeq = s.tw.lwSeq + 1)
    ∧ (∀ c, s.board.mainOk = true → s.board.perst = false → ∃ t, exec (.hotReset c) s = .next t ∧ phaseOf t = 1 ∧ isReady t = false
        ∧ t.t0 = s.us ∧ t.queues = [] ∧ t.plans = [] ∧ t.syncs = [] ∧ t.tw = s.tw)

/-- Function level resets (R373, R375) and firmware updates (R377). -/
def Obligations.FlrAndUpdate : Prop :=
  ∀ (s : State),
    (∀ fn, fn < 16 → s.board.mainOk = true → s.board.perst = false → isReady s = true → fnPresent s fn = true →
        ∃ t, exec (.flr fn) s = .next t
          ∧ (∀ q, (fnOf s fn).qBase ≤ q → q < (fnOf s fn).qBase + (fnOf s fn).qCount → queueOf t q = {})
          ∧ (∀ o, fn ≠ 0 → (fnOf s fn).syncBase ≤ o → o ≤ (fnOf s fn).syncBase + (fnOf s fn).syncCount → syncOf t o = {})
          ∧ (∀ slot p, planOf t slot = some p → p.fn ≠ fn) ∧ (∀ v, v < tableSize fn → vectorUnmasked t fn v = false)
          ∧ (fn = 0 → t.fns = []) ∧ (fn ≠ 0 → t.fns = s.fns))
    ∧ (awake s = true → isReady s = true →
        (∃ t, exec (.firmwareUpdate .begin) s = .next t ∧ t.flash.update = 1 ∧ bootedSlot t = bootedSlot s
          ∧ (if fld s 0x40 12 1 = 1 then t.flash.slotA else t.flash.slotB) = {})
        ∧ (∀ d v, s.flash.update = 1 → exec (.firmwareUpdate (.image d v)) s =
            .next { s with flash := { s.flash with update := 2, updateSlot := { digest := d, svn := v } } })
        ∧ (∀ ok, s.flash.update = 2 → exec (.firmwareUpdate (.signature ok)) s =
            .next { s with flash := { s.flash with update := 3, updateSlot := { s.flash.updateSlot with valid := ok } } })
        ∧ (∀ n, s.flash.update = 3 → ∃ t, exec (.firmwareUpdate (.sequence n)) s = .next t ∧ t.flash.update = 0 ∧ bootedSlot t = bootedSlot s
          ∧ (if fld s 0x40 12 1 = 1 then t.flash.slotA else t.flash.slotB) = { s.flash.updateSlot with seq := n }))

/-! ### The enclave -/

/-- Self-test, commits, upload keys, unwraps and debug unlock (R396, R403, R405, R408 to R410). -/
def Obligations.EnclaveRows : Prop :=
  ∀ (s : State),
    (Answers s 0 → enclaveServes s = true → exec (.seSelftest 0) s = .next (setFld s seStatus 7 1 1))
    ∧ (selftestBusy s = true → exec (.seSelftestDone 0) s = .next (keep s (releaseHeld (setFld s seStatus 7 1 0))))
    ∧ (∀ n, selftestBusy s = true → n % 256 ≠ 0 → ∃ t, exec (.seSelftestDone n) s = .next t ∧ enclaveState t = 3 ∧ selftestBusy t = false)
    ∧ (Answers s 0 → enclaveServes s = true → ∃ t, exec (.commit 0 false) s = .next t
        ∧ t.flash.fwMin = max s.flash.fwMin (bootedSlot s).svn ∧ t.flash.cfgMin = max s.flash.cfgMin s.flash.cfgSvn
        ∧ t.flash.manifestMin = max s.flash.manifestMin s.flash.manifestSvn ∧ t = { s with flash := t.flash, regs := t.regs })
    ∧ (∀ fn, fn < 16 → awake s = true → enclaveServes s = true → exec (.commit fn true) s = .next (keep s (commitMins s)))
    ∧ (∀ fn, Answers s fn → unwrapState s (seView s fn) ≠ 1 → uploadState s (seView s fn) ≠ 1 →
        ∃ t, exec (.generate fn) s = .next t ∧ uploadState t (seView s fn) = (if approved s then 1 else 3) ∧ t = { s with fnRegs := t.fnRegs })
    ∧ (∀ fn, fn < 16 → uploadState s fn = 1 → approved s = true → inPartition s fn (dec64 s fn 0x48) 1184 = true →
        (∃ t, exec (.uploadKeyReady fn true) s = .next t ∧ uploadState t fn = 2
          ∧ (uploadOf t fn).keySeed = some (Config.drbg (s.enclave.drbgSeed.getD 0) s.enclave.drbgCount)
          ∧ bits (seFn t fn 0x54) 2 16 = (bits (seFn s fn 0x54) 2 16 + 1) % 2 ^ 16)
        ∧ (∃ t, exec (.uploadKeyReady fn false) s = .next t ∧ enclaveState t = 3))
    ∧ (∀ fn, Answers s fn → unwrapState s (seView s fn) ≠ 1 → ∃ t, exec (.discard fn) s = .next t ∧ (uploadOf t (seView s fn)).keySeed = none
        ∧ uploadState t (seView s fn) = 0 ∧ t = { s with enclave := t.enclave, fnRegs := t.fnRegs })
    ∧ (∀ fn, Answers s fn → unwrapState s (seView s fn) ≠ 1 → (uploadOf s (seView s fn)).heldGo = false →
        (selftestBusy s = true → exec (.go fn) s = .next (setUpload s (seView s fn) { uploadOf s (seView s fn) with heldGo := true }))
        ∧ (selftestBusy s = false → exec (.go fn) s = .next (keep s (startUnwrap s (seView s fn)))))
    ∧ (∀ fn hd bad u seed pkg v, fn < 16 → unwrapState s fn = 1 → (uploadOf s fn).keySeed = some seed →
        readDev s fn (uploadOf s fn).src 16 = (hd, bad, u) → readDev u fn (uploadOf s fn).src (0x490 + leAt hd 8 8) = (pkg, [], v) →
        let n := leAt hd 8 8
        (∀ p, openPackage fn seed pkg n [] = some p →
          exec (.unwrapDone fn) s = .next (keep s (setUnwrapState (writeDev v fn (uploadOf s fn).dst (fitBytes n p)) fn 2)))
        ∧ (openPackage fn seed pkg n [] = none →
          exec (.unwrapDone fn) s = .next (keep s (setUnwrapState (writeDev v fn (uploadOf s fn).dst (List.replicate n 0)) fn 3))))
    ∧ (∀ b bad u, Answers s 0 → readDev s 0 (get64 s (reg 3074 0x60)) tokenBytes = (b, bad, u) →
        exec (.present 0 none) s = .next (keep s (takeToken u b)))
    ∧ (∀ fn b, fn < 16 → awake s = true → exec (.present fn (some b)) s = .next (takeToken s b))
    ∧ (∀ n, dbgState s = 1 → selftestBusy s = false → tokenLevel s = some n → ∃ t, exec .unlockTokenChecked s = .next t ∧ dbgState t = 2
        ∧ debugOpen t = true ∧ t.enclave.debugLevel = n ∧ t.enclave.identity = none ∧ t.enclave.sessions = []
        ∧ ∀ fn, fn < 16 → (uploadOf t fn).keySeed = none)
    ∧ (dbgState s = 1 → selftestBusy s = false → tokenLevel s = none → exec .unlockTokenChecked s = .next (setFld s dbgStatus 0 2 3))

/-- SPDM requests on a transport that is up (R406, R407), and their hold during a self-test (R403). -/
def Obligations.SpdmRows : Prop :=
  ∀ (s : State) (t : Transport), Transport.fn t < 16 → transportUp s t = true →
    let answered := fun b => Host.Outcome.next (reply s t b)
    (selftestBusy s = true → exec (.getVersion t) s =
        .next { s with enclave := { s.enclave with heldRequests := s.enclave.heldRequests ++ [.getVersion t] } })
    ∧ (selftestBusy s = false →
      exec (.getVersion t) s = answered (Config.spdmBody 0x84 [])
      ∧ (∀ i n, enclaveState s ≠ 3 → 1 ≤ i → i ≤ 8 → exec (.getMeasurements t i n) s = answered (measurement s t i
          ++ (signature s (Config.spdmBody 0xE0 (toLE 32 n.toNat ++ toLE 1 i ++ measurement s t i))).getD []))
      ∧ (enclaveState s = 3 ∨ debugOpen s = true → exec (.getDigests t) s = .next (replyError s t .refused))
      ∧ (enclaveState s ≠ 3 → debugOpen s = false →
        exec (.getDigests t) s = answered (Config.spdmBody 0x81 [])
        ∧ (∀ o l, exec (.getCertificate t 0 o l) s = answered (Config.spdmBody 0x82 (toLE 2 o ++ toLE 2 l)))
        ∧ (∀ k n, s.enclave.identity = some k → exec (.challenge t n) s =
            answered (Config.spdmBody 0x83 (toLE 32 n.toNat) ++ Config.mldsaSign k (Config.spdmBody 0x83 (toLE 32 n.toNat))))
        ∧ (approved s = true → s.enclave.sessions.length < 8 → ∃ u, exec (.keyExchange t) s = .next u
            ∧ u.enclave.sessions = s.enclave.sessions ++ [{ id := s.enclave.nextSession, transport := t }]
            ∧ u.enclave.nextSession = s.enclave.nextSession + 1 ∧ u.enclave.replies.length = s.enclave.replies.length + 1)
        ∧ (approved s = true → 8 ≤ s.enclave.sessions.length → exec (.keyExchange t) s = .next (replyError s t .sessionLimit))
        ∧ (∀ n x, sessionOf s t n = some x →
          (x.finished = false → ∃ u, exec (.finish t n) s = .next u
              ∧ u.enclave.sessions = s.enclave.sessions.map (fun y => if y.id = n then { y with finished := true } else y)
              ∧ u.enclave.replies = s.enclave.replies ++ [{ transport := t, body := Config.spdmBody 0xE5 (toLE 2 n) }])
          ∧ (x.finished = true → exec (.heartbeat t n) s = answered (Config.spdmBody 0xE8 (toLE 2 n)))
          ∧ (∃ u, exec (.endSession t n) s = .next u ∧ u.enclave.sessions = s.enclave.sessions.filter (fun y => y.id != n)
              ∧ u.enclave.replies = s.enclave.replies ++ [{ transport := t, body := Config.spdmBody 0xEC (toLE 2 n) }])
          ∧ (∀ k key, t = .doe 0 → approved s = true → k < 9 → x.finished = true → ∃ u, exec (.ideKm t n k key) s = .next u
              ∧ u.enclave.ideKeys = tput s.enclave.ideKeys k key
              ∧ u.enclave.replies = s.enclave.replies ++ [{ transport := t, body := Config.spdmBody 0xFE (toLE 2 n) }]))))

/-! ### Management and the peat log -/

/-- PLDM effecters and sensors (R469, Table 20-5). -/
def Obligations.PldmRows : Prop :=
  ∀ (s : State), endpointUp s = true →
    (∀ f w, 200 ≤ w → w ≤ 750 → exec (.pldmEffecterSet 16 f w) s = .next (answer (setReg s 0 (reg 4 0x58) w) []))
    ∧ (∀ f w, w < 200 ∨ 750 < w → exec (.pldmEffecterSet 16 f w) s = .next (answerStatus s 1))
    ∧ (∀ v, v ≤ 5 → exec (.pldmEffecterSet 17 0 v) s = .next (answer (retarget (setFld s (reg 4 0x44) 0 3 v) .west) [])
        ∧ exec (.pldmEffecterSet 17 1 v) s = .next (answer (retarget (setFld s (reg 4 0x44) 4 3 v) .east) []))
    ∧ (∀ f v, 70 ≤ v → v ≤ 105 → exec (.pldmEffecterSet 18 f v) s = .next (answer (setReg s 0 (reg 4 0x60) v) []))
    ∧ (∀ v, exec (.pldmEffecterSet 19 0 v) s = .next (answer (flushLife s) [])
        ∧ exec (.pldmEffecterSet 19 1 v) s = .next (keep s (answer (clearLayer s false 0x20) []))
        ∧ exec (.pldmEffecterSet 19 2 v) s = .next (keep s (answer (clearLayer s true 0x20) [])))
    ∧ exec (.pldmSensorRead 1) s = .next (answer s (toLE 4 (bits (getReg s 0 (reg 4 0x4C)) 16 8)))
    ∧ exec (.pldmSensorRead 2) s = .next (answer s (toLE 4 (bits (getReg s 0 (reg 4 0x50)) 16 8)))
    ∧ exec (.pldmSensorRead 3) s = .next (answer s (toLE 4 (fld s (reg 4 0x5C) 0 10)))
    ∧ exec (.pldmSensorRead 4) s = .next (answer s (toLE 4 s.limiter.mainMv))
    ∧ exec (.pldmSensorRead 5) s = .next (answer s (toLE 4 (getReg s 0 (reg 1 0x40))))
    ∧ exec (.pldmSensorRead 6) s = .next (answer s (toLE 4 (bits (getReg s 0 0x40) 0 12)))
    ∧ (∀ id, id = 0 ∨ 6 < id → exec (.pldmSensorRead id) s = .next (answerStatus s 1))

/-- The peat log and the lifetime store (R426 to R434). -/
def Obligations.LogRows : Prop :=
  ∀ (s : State),
    (∀ r, (writeRecord s r).peat.seq = nextSeq s.peat.seq ∧ nextSeq s.peat.seq ≠ 0
        ∧ (writeRecord s r).peat.surface.getLast?.map (fun x => (x.seq, x.code, x.payload)) = some (nextSeq s.peat.seq, r.code, r.payload)
        ∧ (s.peat.surface.length ≤ 8192 → (writeRecord s r).peat.surface.length ≤ 8192) ∧ (512 ≤ s.peat.deep.length → (writeRecord s r).peat.deep = s.peat.deep))
    ∧ (∀ fn, Answers s fn → ∃ t, exec (.plClearSurface fn) s = .next t ∧ (∀ r ∈ t.peat.surface, r.code = 0xB01 ∨ r.code = 0xC01)
        ∧ t.peat.surface.getLast?.map (·.code) = some 0xB01 ∧ t.peat.lastClear = t.peat.seq ∧ lifeOf t 168 = (lifeOf s 168 + 1) % 2 ^ 64)
    ∧ (∀ fn, Answers s fn → ∃ t, exec (.plClearDeep fn) s = .next t ∧ (∀ r ∈ t.peat.deep, r.code = 0xB01 ∨ r.code = 0xC01)
        ∧ t.peat.surface.getLast?.map (·.code) = some 0xB01 ∧ t.peat.lastClear = t.peat.seq ∧ lifeOf t 168 = (lifeOf s 168 + 1) % 2 ^ 64)
    ∧ (∀ fn q, Answers s fn → s.peat.direct = false → ∃ t, exec (.plRselSeqWrite (.function fn) q false) s = .next t
        ∧ (let l := if bits (getReg s fn (reg 3201 0x40)) 0 1 = 0 then s.peat.surface else s.peat.deep
           (∀ r, l.find? (fun r => r.seq.toNat == q.toNat) = some r → tget (fun _ => 0) t.peat.viewState fn = 0
              ∧ tget (fun _ => []) t.peat.viewData fn = recordImage r)
           ∧ (l.find? (fun r => r.seq.toNat == q.toNat) = none → tget (fun _ => 0) t.peat.viewState fn = 1
              ∧ tget (fun _ => []) t.peat.viewData fn = []))
        ∧ t = { s with peat := t.peat, fnRegs := t.fnRegs })
    ∧ (∀ fn layer q, fn < 16 → tget (fun _ => 0) s.peat.viewState fn = 2 → s.peat.viewWant.find? (fun e => e.1 == fn) = some (fn, layer, q) →
        exec (.plLatchDone (.function fn)) s = .next (latch { s with peat := { s.peat with viewWant := tdel s.peat.viewWant fn } } fn layer q))
    ∧ (awake s = true → s.peat.direct = false → exec (.surfaceFlush false) s = .next { s with peat := { s.peat with flashSurface := s.peat.surface } })
    ∧ (awake s = true → s.peat.direct = false → ∃ t, exec (.surfaceFlush true) s = .next t ∧ t.peat.direct = true ∧ t.tw.lwSeq = s.tw.lwSeq + 1)
    ∧ (∀ code e, s.peat.storms.find? (fun e => e.1 == code) = some e → awake s = true → 98000 ≤ (s.us - e.2.since) * 100 →
        (s.peat.direct = true → s.peat.lastDirect + 1000 ≤ s.us) →
        ∃ t r, exec (.stormSummary code) s = .next t ∧ t.peat.surface.getLast? = some r ∧ r.code = e.2.last.code ∧ r.payload = e.2.last.payload
          ∧ r.flags % 2 = 1 ∧ r.seq = nextSeq s.peat.seq ∧ t = { s with peat := t.peat })
    ∧ (awake s = true → ∃ t, exec .lifetimeFlush s = .next t ∧ t.flash = { s.flash with lifetime := s.lifetime }
        ∧ getReg t 0 (reg 3300 0x4C) = 0 ∧ t = { s with flash := t.flash, regs := t.regs })
    ∧ (awake s = true → ∃ t, exec .lifetimeMinute s = .next t
        ∧ (let w := min (fld s (reg 4 0x48) 0 3) 5
           let e := 6 + min (fld s (reg 4 0x48) 4 3) 5
           lifeOf t w = (lifeOf s w + 1) % 2 ^ 64 ∧ lifeOf t e = (lifeOf s e + (if eastDown s then 0 else 1)) % 2 ^ 64)
        ∧ getReg t 0 (reg 3300 0x4C) = (getReg s 0 (reg 3300 0x4C) + 1) % 2 ^ 32)

/-! ### Register accesses -/

/-- A coded write gives every bit what its access code says (R13); reads and writes of registers, constellations, and the interrupt control (R86, R343, R370, R441, R449, R452). -/
def Obligations.RegisterRows : Prop :=
  (∀ (old v rw w1c i : Nat), i < 32 → (codedWord old v rw w1c).testBit i =
      if rw.testBit i then v.testBit i else old.testBit i && !(w1c.testBit i && v.testBit i))
  ∧ (∀ (s : State) (fn : Nat), fn < 16 → awake s = true →
      (∀ page off, page < 4096 → off < 4096 → off % 4 = 0 → 64 ≤ off → ¬ (3840 ≤ page ∧ page < 3848) → ¬ (2048 ≤ page ∧ page < 2064) →
          pageServed s page = true → hiddenPage fn page = false → pageParked s page = false → memoryOwn page off = false → pairLow page off = true →
          ∃ t, exec (.lowWordRead fn ⟨(4096 * page + off), false⟩) s = .next t ∧ t.port = { data := toLE 4 (bodyWord s fn page off) }
            ∧ t.captures.find? (fun e => e.1 == captureKey fn (reg page off + 4)) =
                some (captureKey fn (reg page off + 4), BitVec.ofNat 32 (bodyWord s fn page (off + 4)))
            ∧ t = { s with captures := t.captures, port := t.port })
      ∧ (∀ off v u, off < 2 ^ 24 → off % 4 = 0 → bar0Read s fn off = (v, u) → exec (.lowWordRead fn ⟨off, false⟩) s = .next (keep s (answer u (toLE 4 v))))
      ∧ (∀ off v u h w, off < 2 ^ 24 → off % 8 = 0 → bar0Read s fn off = (v, u) → bar0Read u fn (off + 4) = (h, w) →
          exec (.lowWordRead fn ⟨off, true⟩) s = .next (keep s (answer w (toLE 4 v ++ toLE 4 h))))
      ∧ (∀ off (v : U32), off < 2 ^ 24 → off % 4 = 0 → ¬ (3840 ≤ off / 4096 ∧ off / 4096 < 3848) →
          (isReady s = true → exec (.registerWrite fn off ⟨v, none⟩) s = .next (keep s (bar0Write s fn off v)))
          ∧ (isReady s = false → exec (.registerWrite fn off ⟨v, none⟩) s = .next (discard s))
          ∧ (∀ h : U32, off % 8 = 0 → exec (.registerWrite fn off ⟨v, some h⟩) s =
              .next (keep s (if isReady s then bar0Write (bar0Write s fn off v) fn (off + 4) h else discard s))))
      ∧ (∀ off (v : U32) high, off % 8 = 0 → 3840 ≤ off / 4096 → off / 4096 < 3848 →
          exec (.registerWrite fn off ⟨v, high⟩) s = .next (keep s (doorbell s fn (off % 0x100000 / 8) (some v) high)))
      ∧ (∀ v : U32, isReady s = true →
          let u := setReg s fn (reg 2 0x40) (v.toNat % 2)
          exec (.glIrqCtrlWrite fn v) s = .next (keep s
            (if irqEnabled s fn = false ∧ irqEnabled u fn = true ∧ summaryWord u fn ≠ 0 then raiseVector u fn (irqVector u fn) else u)))
      ∧ (∀ n off, fn = 0 → n < 16 → off % 4 = 0 → off < 0x1000 →
          (∀ v u, constRead s 0 n off = (v, u) → exec (.constellationRead fn n off) s = .next (keep s (answer u (toLE 4 v))))
          ∧ (∀ v : U32, isReady s = true → members s n = [] → exec (.constellationWrite fn n off v) s = .next (addSat s (reg 3 0x44) 1))
          ∧ (∀ v : U32, isReady s = true → members s n ≠ [] → off < 0x40 ∨ (members s n).all (fun p => (rangeOf p).2 == (rangeOf ((members s n).headD 0)).2) = true →
              exec (.constellationWrite fn n off v) s = .next (keep s ((members s n).foldl (fun s p => pageWrite s 0 p off v) s))))
      ∧ (∀ tile (v : U32), fn = 0 → isReady s = true → tile < 24 → pageParked s (512 + tile) = false → v.getLsbD 0 = true →
          ∃ t, exec (.ttClear fn tile v) s = .next t ∧ (∀ a, getReg t 0 a =
              if reg (512 + tile) 0x48 ≤ a ∧ a ≤ reg (512 + tile) 0x74 ∧ a % 4 = 0 then 0 else getReg s 0 a)
            ∧ t = { s with regs := t.regs }))
end

