-- ==== Sys2Proof/Laws/State.lean ====
section
/-! SUPPORT. What each update of the state leaves, one lemma for each of the parts most often read, and what it makes of its own. -/

namespace Sys2Proof.Machine

/-! ### setQueue -/

@[simp] theorem setQueue_pending (s : State) (q : Nat) (v : Queue) : (setQueue s q v).pending = s.pending := rfl
@[simp] theorem setQueue_part (s : State) (q : Nat) (v : Queue) : (setQueue s q v).part = s.part := rfl
@[simp] theorem setQueue_regs (s : State) (q : Nat) (v : Queue) : (setQueue s q v).regs = s.regs := rfl
@[simp] theorem setQueue_fnRegs (s : State) (q : Nat) (v : Queue) : (setQueue s q v).fnRegs = s.fnRegs := rfl
@[simp] theorem setQueue_fns (s : State) (q : Nat) (v : Queue) : (setQueue s q v).fns = s.fns := rfl
@[simp] theorem setQueue_syncs (s : State) (q : Nat) (v : Queue) : (setQueue s q v).syncs = s.syncs := rfl
@[simp] theorem setQueue_ctxs (s : State) (q : Nat) (v : Queue) : (setQueue s q v).ctxs = s.ctxs := rfl
@[simp] theorem setQueue_plans (s : State) (q : Nat) (v : Queue) : (setQueue s q v).plans = s.plans := rfl
@[simp] theorem setQueue_runs (s : State) (q : Nat) (v : Queue) : (setQueue s q v).runs = s.runs := rfl
@[simp] theorem setQueue_lanes (s : State) (q : Nat) (v : Queue) : (setQueue s q v).lanes = s.lanes := rfl
@[simp] theorem setQueue_frames (s : State) (q : Nat) (v : Queue) : (setQueue s q v).frames = s.frames := rfl
@[simp] theorem setQueue_mem (s : State) (q : Nat) (v : Queue) : (setQueue s q v).mem = s.mem := rfl
@[simp] theorem setQueue_memErr (s : State) (q : Nat) (v : Queue) : (setQueue s q v).memErr = s.memErr := rfl
@[simp] theorem setQueue_memMeta (s : State) (q : Nat) (v : Queue) : (setQueue s q v).memMeta = s.memMeta := rfl
@[simp] theorem setQueue_hostMem (s : State) (q : Nat) (v : Queue) : (setQueue s q v).hostMem = s.hostMem := rfl
@[simp] theorem setQueue_sliceMem (s : State) (q : Nat) (v : Queue) : (setQueue s q v).sliceMem = s.sliceMem := rfl
@[simp] theorem setQueue_peat (s : State) (q : Nat) (v : Queue) : (setQueue s q v).peat = s.peat := rfl
@[simp] theorem setQueue_flash (s : State) (q : Nat) (v : Queue) : (setQueue s q v).flash = s.flash := rfl
@[simp] theorem setQueue_tw (s : State) (q : Nat) (v : Queue) : (setQueue s q v).tw = s.tw := rfl
@[simp] theorem setQueue_board (s : State) (q : Nat) (v : Queue) : (setQueue s q v).board = s.board := rfl
@[simp] theorem setQueue_pcie (s : State) (q : Nat) (v : Queue) : (setQueue s q v).pcie = s.pcie := rfl
@[simp] theorem setQueue_rng (s : State) (q : Nat) (v : Queue) : (setQueue s q v).rng = s.rng := rfl
@[simp] theorem setQueue_enclave (s : State) (q : Nat) (v : Queue) : (setQueue s q v).enclave = s.enclave := rfl
@[simp] theorem setQueue_unfixedDev (s : State) (q : Nat) (v : Queue) : (setQueue s q v).unfixedDev = s.unfixedDev := rfl
@[simp] theorem setQueue_unfixedHost (s : State) (q : Nat) (v : Queue) : (setQueue s q v).unfixedHost = s.unfixedHost := rfl
@[simp] theorem setQueue_paces (s : State) (q : Nat) (v : Queue) : (setQueue s q v).paces = s.paces := rfl
@[simp] theorem setQueue_localMem (s : State) (q : Nat) (v : Queue) : (setQueue s q v).localMem = s.localMem := rfl
@[simp] theorem setQueue_stale (s : State) (q : Nat) (v : Queue) : (setQueue s q v).stale = s.stale := rfl

/-! ### setFn -/

@[simp] theorem setFn_pending (s : State) (f : Nat) (v : FnCfg) : (setFn s f v).pending = s.pending := rfl
@[simp] theorem setFn_part (s : State) (f : Nat) (v : FnCfg) : (setFn s f v).part = s.part := rfl
@[simp] theorem setFn_regs (s : State) (f : Nat) (v : FnCfg) : (setFn s f v).regs = s.regs := rfl
@[simp] theorem setFn_fnRegs (s : State) (f : Nat) (v : FnCfg) : (setFn s f v).fnRegs = s.fnRegs := rfl
@[simp] theorem setFn_queues (s : State) (f : Nat) (v : FnCfg) : (setFn s f v).queues = s.queues := rfl
@[simp] theorem setFn_syncs (s : State) (f : Nat) (v : FnCfg) : (setFn s f v).syncs = s.syncs := rfl
@[simp] theorem setFn_ctxs (s : State) (f : Nat) (v : FnCfg) : (setFn s f v).ctxs = s.ctxs := rfl
@[simp] theorem setFn_plans (s : State) (f : Nat) (v : FnCfg) : (setFn s f v).plans = s.plans := rfl
@[simp] theorem setFn_runs (s : State) (f : Nat) (v : FnCfg) : (setFn s f v).runs = s.runs := rfl
@[simp] theorem setFn_lanes (s : State) (f : Nat) (v : FnCfg) : (setFn s f v).lanes = s.lanes := rfl
@[simp] theorem setFn_frames (s : State) (f : Nat) (v : FnCfg) : (setFn s f v).frames = s.frames := rfl
@[simp] theorem setFn_mem (s : State) (f : Nat) (v : FnCfg) : (setFn s f v).mem = s.mem := rfl
@[simp] theorem setFn_memErr (s : State) (f : Nat) (v : FnCfg) : (setFn s f v).memErr = s.memErr := rfl
@[simp] theorem setFn_memMeta (s : State) (f : Nat) (v : FnCfg) : (setFn s f v).memMeta = s.memMeta := rfl
@[simp] theorem setFn_hostMem (s : State) (f : Nat) (v : FnCfg) : (setFn s f v).hostMem = s.hostMem := rfl
@[simp] theorem setFn_sliceMem (s : State) (f : Nat) (v : FnCfg) : (setFn s f v).sliceMem = s.sliceMem := rfl
@[simp] theorem setFn_peat (s : State) (f : Nat) (v : FnCfg) : (setFn s f v).peat = s.peat := rfl
@[simp] theorem setFn_flash (s : State) (f : Nat) (v : FnCfg) : (setFn s f v).flash = s.flash := rfl
@[simp] theorem setFn_tw (s : State) (f : Nat) (v : FnCfg) : (setFn s f v).tw = s.tw := rfl
@[simp] theorem setFn_board (s : State) (f : Nat) (v : FnCfg) : (setFn s f v).board = s.board := rfl
@[simp] theorem setFn_pcie (s : State) (f : Nat) (v : FnCfg) : (setFn s f v).pcie = s.pcie := rfl
@[simp] theorem setFn_rng (s : State) (f : Nat) (v : FnCfg) : (setFn s f v).rng = s.rng := rfl
@[simp] theorem setFn_enclave (s : State) (f : Nat) (v : FnCfg) : (setFn s f v).enclave = s.enclave := rfl
@[simp] theorem setFn_unfixedDev (s : State) (f : Nat) (v : FnCfg) : (setFn s f v).unfixedDev = s.unfixedDev := rfl
@[simp] theorem setFn_unfixedHost (s : State) (f : Nat) (v : FnCfg) : (setFn s f v).unfixedHost = s.unfixedHost := rfl
@[simp] theorem setFn_paces (s : State) (f : Nat) (v : FnCfg) : (setFn s f v).paces = s.paces := rfl
@[simp] theorem setFn_localMem (s : State) (f : Nat) (v : FnCfg) : (setFn s f v).localMem = s.localMem := rfl
@[simp] theorem setFn_stale (s : State) (f : Nat) (v : FnCfg) : (setFn s f v).stale = s.stale := rfl

/-! ### setSync -/

@[simp] theorem setSync_pending (s : State) (o : Nat) (v : SyncObj) : (setSync s o v).pending = s.pending := rfl
@[simp] theorem setSync_part (s : State) (o : Nat) (v : SyncObj) : (setSync s o v).part = s.part := rfl
@[simp] theorem setSync_regs (s : State) (o : Nat) (v : SyncObj) : (setSync s o v).regs = s.regs := rfl
@[simp] theorem setSync_fnRegs (s : State) (o : Nat) (v : SyncObj) : (setSync s o v).fnRegs = s.fnRegs := rfl
@[simp] theorem setSync_queues (s : State) (o : Nat) (v : SyncObj) : (setSync s o v).queues = s.queues := rfl
@[simp] theorem setSync_fns (s : State) (o : Nat) (v : SyncObj) : (setSync s o v).fns = s.fns := rfl
@[simp] theorem setSync_ctxs (s : State) (o : Nat) (v : SyncObj) : (setSync s o v).ctxs = s.ctxs := rfl
@[simp] theorem setSync_plans (s : State) (o : Nat) (v : SyncObj) : (setSync s o v).plans = s.plans := rfl
@[simp] theorem setSync_runs (s : State) (o : Nat) (v : SyncObj) : (setSync s o v).runs = s.runs := rfl
@[simp] theorem setSync_lanes (s : State) (o : Nat) (v : SyncObj) : (setSync s o v).lanes = s.lanes := rfl
@[simp] theorem setSync_frames (s : State) (o : Nat) (v : SyncObj) : (setSync s o v).frames = s.frames := rfl
@[simp] theorem setSync_mem (s : State) (o : Nat) (v : SyncObj) : (setSync s o v).mem = s.mem := rfl
@[simp] theorem setSync_memErr (s : State) (o : Nat) (v : SyncObj) : (setSync s o v).memErr = s.memErr := rfl
@[simp] theorem setSync_memMeta (s : State) (o : Nat) (v : SyncObj) : (setSync s o v).memMeta = s.memMeta := rfl
@[simp] theorem setSync_hostMem (s : State) (o : Nat) (v : SyncObj) : (setSync s o v).hostMem = s.hostMem := rfl
@[simp] theorem setSync_sliceMem (s : State) (o : Nat) (v : SyncObj) : (setSync s o v).sliceMem = s.sliceMem := rfl
@[simp] theorem setSync_peat (s : State) (o : Nat) (v : SyncObj) : (setSync s o v).peat = s.peat := rfl
@[simp] theorem setSync_flash (s : State) (o : Nat) (v : SyncObj) : (setSync s o v).flash = s.flash := rfl
@[simp] theorem setSync_tw (s : State) (o : Nat) (v : SyncObj) : (setSync s o v).tw = s.tw := rfl
@[simp] theorem setSync_board (s : State) (o : Nat) (v : SyncObj) : (setSync s o v).board = s.board := rfl
@[simp] theorem setSync_pcie (s : State) (o : Nat) (v : SyncObj) : (setSync s o v).pcie = s.pcie := rfl
@[simp] theorem setSync_rng (s : State) (o : Nat) (v : SyncObj) : (setSync s o v).rng = s.rng := rfl
@[simp] theorem setSync_enclave (s : State) (o : Nat) (v : SyncObj) : (setSync s o v).enclave = s.enclave := rfl
@[simp] theorem setSync_unfixedDev (s : State) (o : Nat) (v : SyncObj) : (setSync s o v).unfixedDev = s.unfixedDev := rfl
@[simp] theorem setSync_unfixedHost (s : State) (o : Nat) (v : SyncObj) : (setSync s o v).unfixedHost = s.unfixedHost := rfl
@[simp] theorem setSync_paces (s : State) (o : Nat) (v : SyncObj) : (setSync s o v).paces = s.paces := rfl
@[simp] theorem setSync_localMem (s : State) (o : Nat) (v : SyncObj) : (setSync s o v).localMem = s.localMem := rfl
@[simp] theorem setSync_stale (s : State) (o : Nat) (v : SyncObj) : (setSync s o v).stale = s.stale := rfl

/-! ### setCtx -/

/-- All that words written to the context table change. -/
theorem putWords_frame (f : Nat → Nat) (g : Nat → List Byte) (l : List Nat) (s : State) :
    ∃ m d e, l.foldl (fun t i => putWord t (f i) (g i) false) s = { s with mem := m, memMeta := d, memErr := e } := by
  induction l generalizing s with
  | nil => exact ⟨_, _, _, rfl⟩
  | cons i l ih =>
    obtain ⟨m, d, e, h⟩ := ih (putWord s (f i) (g i) false)
    exact ⟨m, d, e, h⟩

/-- A descriptor changes in the front end, with its words of the context table, and nothing else does. -/
theorem setCtx_frame (s : State) (c : Nat) (v : Ctx) :
    ∃ m d e, setCtx s c v = { s with ctxs := tset (fun _ => {}) s.ctxs c v, mem := m, memMeta := d, memErr := e } :=
  putWords_frame _ _ _ { s with ctxs := tset (fun _ => {}) s.ctxs c v }

@[simp] theorem setCtx_ctxs (s : State) (c : Nat) (v : Ctx) : (setCtx s c v).ctxs = tset (fun _ => {}) s.ctxs c v := by
  obtain ⟨_, _, _, h⟩ := setCtx_frame s c v
  rw [h]
@[simp] theorem setCtx_pending (s : State) (c : Nat) (v : Ctx) : (setCtx s c v).pending = s.pending := by
  obtain ⟨_, _, _, h⟩ := setCtx_frame s c v
  rw [h]
@[simp] theorem setCtx_part (s : State) (c : Nat) (v : Ctx) : (setCtx s c v).part = s.part := by
  obtain ⟨_, _, _, h⟩ := setCtx_frame s c v
  rw [h]
@[simp] theorem setCtx_regs (s : State) (c : Nat) (v : Ctx) : (setCtx s c v).regs = s.regs := by
  obtain ⟨_, _, _, h⟩ := setCtx_frame s c v
  rw [h]
@[simp] theorem setCtx_fnRegs (s : State) (c : Nat) (v : Ctx) : (setCtx s c v).fnRegs = s.fnRegs := by
  obtain ⟨_, _, _, h⟩ := setCtx_frame s c v
  rw [h]
@[simp] theorem setCtx_queues (s : State) (c : Nat) (v : Ctx) : (setCtx s c v).queues = s.queues := by
  obtain ⟨_, _, _, h⟩ := setCtx_frame s c v
  rw [h]
@[simp] theorem setCtx_fns (s : State) (c : Nat) (v : Ctx) : (setCtx s c v).fns = s.fns := by
  obtain ⟨_, _, _, h⟩ := setCtx_frame s c v
  rw [h]
@[simp] theorem setCtx_syncs (s : State) (c : Nat) (v : Ctx) : (setCtx s c v).syncs = s.syncs := by
  obtain ⟨_, _, _, h⟩ := setCtx_frame s c v
  rw [h]
@[simp] theorem setCtx_plans (s : State) (c : Nat) (v : Ctx) : (setCtx s c v).plans = s.plans := by
  obtain ⟨_, _, _, h⟩ := setCtx_frame s c v
  rw [h]
@[simp] theorem setCtx_runs (s : State) (c : Nat) (v : Ctx) : (setCtx s c v).runs = s.runs := by
  obtain ⟨_, _, _, h⟩ := setCtx_frame s c v
  rw [h]
@[simp] theorem setCtx_lanes (s : State) (c : Nat) (v : Ctx) : (setCtx s c v).lanes = s.lanes := by
  obtain ⟨_, _, _, h⟩ := setCtx_frame s c v
  rw [h]
@[simp] theorem setCtx_frames (s : State) (c : Nat) (v : Ctx) : (setCtx s c v).frames = s.frames := by
  obtain ⟨_, _, _, h⟩ := setCtx_frame s c v
  rw [h]
@[simp] theorem setCtx_hostMem (s : State) (c : Nat) (v : Ctx) : (setCtx s c v).hostMem = s.hostMem := by
  obtain ⟨_, _, _, h⟩ := setCtx_frame s c v
  rw [h]
@[simp] theorem setCtx_sliceMem (s : State) (c : Nat) (v : Ctx) : (setCtx s c v).sliceMem = s.sliceMem := by
  obtain ⟨_, _, _, h⟩ := setCtx_frame s c v
  rw [h]
@[simp] theorem setCtx_peat (s : State) (c : Nat) (v : Ctx) : (setCtx s c v).peat = s.peat := by
  obtain ⟨_, _, _, h⟩ := setCtx_frame s c v
  rw [h]
@[simp] theorem setCtx_flash (s : State) (c : Nat) (v : Ctx) : (setCtx s c v).flash = s.flash := by
  obtain ⟨_, _, _, h⟩ := setCtx_frame s c v
  rw [h]
@[simp] theorem setCtx_tw (s : State) (c : Nat) (v : Ctx) : (setCtx s c v).tw = s.tw := by
  obtain ⟨_, _, _, h⟩ := setCtx_frame s c v
  rw [h]
@[simp] theorem setCtx_board (s : State) (c : Nat) (v : Ctx) : (setCtx s c v).board = s.board := by
  obtain ⟨_, _, _, h⟩ := setCtx_frame s c v
  rw [h]
@[simp] theorem setCtx_pcie (s : State) (c : Nat) (v : Ctx) : (setCtx s c v).pcie = s.pcie := by
  obtain ⟨_, _, _, h⟩ := setCtx_frame s c v
  rw [h]
@[simp] theorem setCtx_rng (s : State) (c : Nat) (v : Ctx) : (setCtx s c v).rng = s.rng := by
  obtain ⟨_, _, _, h⟩ := setCtx_frame s c v
  rw [h]
@[simp] theorem setCtx_enclave (s : State) (c : Nat) (v : Ctx) : (setCtx s c v).enclave = s.enclave := by
  obtain ⟨_, _, _, h⟩ := setCtx_frame s c v
  rw [h]
@[simp] theorem setCtx_unfixedDev (s : State) (c : Nat) (v : Ctx) : (setCtx s c v).unfixedDev = s.unfixedDev := by
  obtain ⟨_, _, _, h⟩ := setCtx_frame s c v
  rw [h]
@[simp] theorem setCtx_unfixedHost (s : State) (c : Nat) (v : Ctx) : (setCtx s c v).unfixedHost = s.unfixedHost := by
  obtain ⟨_, _, _, h⟩ := setCtx_frame s c v
  rw [h]
@[simp] theorem setCtx_paces (s : State) (c : Nat) (v : Ctx) : (setCtx s c v).paces = s.paces := by
  obtain ⟨_, _, _, h⟩ := setCtx_frame s c v
  rw [h]
@[simp] theorem setCtx_localMem (s : State) (c : Nat) (v : Ctx) : (setCtx s c v).localMem = s.localMem := by
  obtain ⟨_, _, _, h⟩ := setCtx_frame s c v
  rw [h]
@[simp] theorem setCtx_stale (s : State) (c : Nat) (v : Ctx) : (setCtx s c v).stale = s.stale := by
  obtain ⟨_, _, _, h⟩ := setCtx_frame s c v
  rw [h]

/-! ### setSeal -/

@[simp] theorem setSeal_pending (s : State) (f : Nat) (v : Seal) : (setSeal s f v).pending = s.pending := rfl
@[simp] theorem setSeal_part (s : State) (f : Nat) (v : Seal) : (setSeal s f v).part = s.part := rfl
@[simp] theorem setSeal_regs (s : State) (f : Nat) (v : Seal) : (setSeal s f v).regs = s.regs := rfl
@[simp] theorem setSeal_fnRegs (s : State) (f : Nat) (v : Seal) : (setSeal s f v).fnRegs = s.fnRegs := rfl
@[simp] theorem setSeal_queues (s : State) (f : Nat) (v : Seal) : (setSeal s f v).queues = s.queues := rfl
@[simp] theorem setSeal_fns (s : State) (f : Nat) (v : Seal) : (setSeal s f v).fns = s.fns := rfl
@[simp] theorem setSeal_syncs (s : State) (f : Nat) (v : Seal) : (setSeal s f v).syncs = s.syncs := rfl
@[simp] theorem setSeal_ctxs (s : State) (f : Nat) (v : Seal) : (setSeal s f v).ctxs = s.ctxs := rfl
@[simp] theorem setSeal_plans (s : State) (f : Nat) (v : Seal) : (setSeal s f v).plans = s.plans := rfl
@[simp] theorem setSeal_runs (s : State) (f : Nat) (v : Seal) : (setSeal s f v).runs = s.runs := rfl
@[simp] theorem setSeal_lanes (s : State) (f : Nat) (v : Seal) : (setSeal s f v).lanes = s.lanes := rfl
@[simp] theorem setSeal_frames (s : State) (f : Nat) (v : Seal) : (setSeal s f v).frames = s.frames := rfl
@[simp] theorem setSeal_mem (s : State) (f : Nat) (v : Seal) : (setSeal s f v).mem = s.mem := rfl
@[simp] theorem setSeal_memErr (s : State) (f : Nat) (v : Seal) : (setSeal s f v).memErr = s.memErr := rfl
@[simp] theorem setSeal_memMeta (s : State) (f : Nat) (v : Seal) : (setSeal s f v).memMeta = s.memMeta := rfl
@[simp] theorem setSeal_hostMem (s : State) (f : Nat) (v : Seal) : (setSeal s f v).hostMem = s.hostMem := rfl
@[simp] theorem setSeal_sliceMem (s : State) (f : Nat) (v : Seal) : (setSeal s f v).sliceMem = s.sliceMem := rfl
@[simp] theorem setSeal_peat (s : State) (f : Nat) (v : Seal) : (setSeal s f v).peat = s.peat := rfl
@[simp] theorem setSeal_flash (s : State) (f : Nat) (v : Seal) : (setSeal s f v).flash = s.flash := rfl
@[simp] theorem setSeal_tw (s : State) (f : Nat) (v : Seal) : (setSeal s f v).tw = s.tw := rfl
@[simp] theorem setSeal_board (s : State) (f : Nat) (v : Seal) : (setSeal s f v).board = s.board := rfl
@[simp] theorem setSeal_pcie (s : State) (f : Nat) (v : Seal) : (setSeal s f v).pcie = s.pcie := rfl
@[simp] theorem setSeal_rng (s : State) (f : Nat) (v : Seal) : (setSeal s f v).rng = s.rng := rfl
@[simp] theorem setSeal_enclave (s : State) (f : Nat) (v : Seal) : (setSeal s f v).enclave = s.enclave := rfl
@[simp] theorem setSeal_unfixedDev (s : State) (f : Nat) (v : Seal) : (setSeal s f v).unfixedDev = s.unfixedDev := rfl
@[simp] theorem setSeal_unfixedHost (s : State) (f : Nat) (v : Seal) : (setSeal s f v).unfixedHost = s.unfixedHost := rfl
@[simp] theorem setSeal_paces (s : State) (f : Nat) (v : Seal) : (setSeal s f v).paces = s.paces := rfl
@[simp] theorem setSeal_localMem (s : State) (f : Nat) (v : Seal) : (setSeal s f v).localMem = s.localMem := rfl
@[simp] theorem setSeal_stale (s : State) (f : Nat) (v : Seal) : (setSeal s f v).stale = s.stale := rfl

/-! ### setMarch -/

@[simp] theorem setMarch_pending (s : State) (n : Nat) (v : March) : (setMarch s n v).pending = s.pending := rfl
@[simp] theorem setMarch_part (s : State) (n : Nat) (v : March) : (setMarch s n v).part = s.part := rfl
@[simp] theorem setMarch_regs (s : State) (n : Nat) (v : March) : (setMarch s n v).regs = s.regs := rfl
@[simp] theorem setMarch_fnRegs (s : State) (n : Nat) (v : March) : (setMarch s n v).fnRegs = s.fnRegs := rfl
@[simp] theorem setMarch_queues (s : State) (n : Nat) (v : March) : (setMarch s n v).queues = s.queues := rfl
@[simp] theorem setMarch_fns (s : State) (n : Nat) (v : March) : (setMarch s n v).fns = s.fns := rfl
@[simp] theorem setMarch_syncs (s : State) (n : Nat) (v : March) : (setMarch s n v).syncs = s.syncs := rfl
@[simp] theorem setMarch_ctxs (s : State) (n : Nat) (v : March) : (setMarch s n v).ctxs = s.ctxs := rfl
@[simp] theorem setMarch_plans (s : State) (n : Nat) (v : March) : (setMarch s n v).plans = s.plans := rfl
@[simp] theorem setMarch_runs (s : State) (n : Nat) (v : March) : (setMarch s n v).runs = s.runs := rfl
@[simp] theorem setMarch_lanes (s : State) (n : Nat) (v : March) : (setMarch s n v).lanes = s.lanes := rfl
@[simp] theorem setMarch_frames (s : State) (n : Nat) (v : March) : (setMarch s n v).frames = s.frames := rfl
@[simp] theorem setMarch_mem (s : State) (n : Nat) (v : March) : (setMarch s n v).mem = s.mem := rfl
@[simp] theorem setMarch_memErr (s : State) (n : Nat) (v : March) : (setMarch s n v).memErr = s.memErr := rfl
@[simp] theorem setMarch_memMeta (s : State) (n : Nat) (v : March) : (setMarch s n v).memMeta = s.memMeta := rfl
@[simp] theorem setMarch_hostMem (s : State) (n : Nat) (v : March) : (setMarch s n v).hostMem = s.hostMem := rfl
@[simp] theorem setMarch_sliceMem (s : State) (n : Nat) (v : March) : (setMarch s n v).sliceMem = s.sliceMem := rfl
@[simp] theorem setMarch_peat (s : State) (n : Nat) (v : March) : (setMarch s n v).peat = s.peat := rfl
@[simp] theorem setMarch_flash (s : State) (n : Nat) (v : March) : (setMarch s n v).flash = s.flash := rfl
@[simp] theorem setMarch_tw (s : State) (n : Nat) (v : March) : (setMarch s n v).tw = s.tw := rfl
@[simp] theorem setMarch_board (s : State) (n : Nat) (v : March) : (setMarch s n v).board = s.board := rfl
@[simp] theorem setMarch_pcie (s : State) (n : Nat) (v : March) : (setMarch s n v).pcie = s.pcie := rfl
@[simp] theorem setMarch_rng (s : State) (n : Nat) (v : March) : (setMarch s n v).rng = s.rng := rfl
@[simp] theorem setMarch_enclave (s : State) (n : Nat) (v : March) : (setMarch s n v).enclave = s.enclave := rfl
@[simp] theorem setMarch_unfixedDev (s : State) (n : Nat) (v : March) : (setMarch s n v).unfixedDev = s.unfixedDev := rfl
@[simp] theorem setMarch_unfixedHost (s : State) (n : Nat) (v : March) : (setMarch s n v).unfixedHost = s.unfixedHost := rfl
@[simp] theorem setMarch_paces (s : State) (n : Nat) (v : March) : (setMarch s n v).paces = s.paces := rfl
@[simp] theorem setMarch_localMem (s : State) (n : Nat) (v : March) : (setMarch s n v).localMem = s.localMem := rfl
@[simp] theorem setMarch_stale (s : State) (n : Nat) (v : March) : (setMarch s n v).stale = s.stale := rfl

/-! ### setUpload -/

@[simp] theorem setUpload_pending (s : State) (f : Nat) (v : Upload) : (setUpload s f v).pending = s.pending := rfl
@[simp] theorem setUpload_part (s : State) (f : Nat) (v : Upload) : (setUpload s f v).part = s.part := rfl
@[simp] theorem setUpload_regs (s : State) (f : Nat) (v : Upload) : (setUpload s f v).regs = s.regs := rfl
@[simp] theorem setUpload_fnRegs (s : State) (f : Nat) (v : Upload) : (setUpload s f v).fnRegs = s.fnRegs := rfl
@[simp] theorem setUpload_queues (s : State) (f : Nat) (v : Upload) : (setUpload s f v).queues = s.queues := rfl
@[simp] theorem setUpload_fns (s : State) (f : Nat) (v : Upload) : (setUpload s f v).fns = s.fns := rfl
@[simp] theorem setUpload_syncs (s : State) (f : Nat) (v : Upload) : (setUpload s f v).syncs = s.syncs := rfl
@[simp] theorem setUpload_ctxs (s : State) (f : Nat) (v : Upload) : (setUpload s f v).ctxs = s.ctxs := rfl
@[simp] theorem setUpload_plans (s : State) (f : Nat) (v : Upload) : (setUpload s f v).plans = s.plans := rfl
@[simp] theorem setUpload_runs (s : State) (f : Nat) (v : Upload) : (setUpload s f v).runs = s.runs := rfl
@[simp] theorem setUpload_lanes (s : State) (f : Nat) (v : Upload) : (setUpload s f v).lanes = s.lanes := rfl
@[simp] theorem setUpload_frames (s : State) (f : Nat) (v : Upload) : (setUpload s f v).frames = s.frames := rfl
@[simp] theorem setUpload_mem (s : State) (f : Nat) (v : Upload) : (setUpload s f v).mem = s.mem := rfl
@[simp] theorem setUpload_memErr (s : State) (f : Nat) (v : Upload) : (setUpload s f v).memErr = s.memErr := rfl
@[simp] theorem setUpload_memMeta (s : State) (f : Nat) (v : Upload) : (setUpload s f v).memMeta = s.memMeta := rfl
@[simp] theorem setUpload_hostMem (s : State) (f : Nat) (v : Upload) : (setUpload s f v).hostMem = s.hostMem := rfl
@[simp] theorem setUpload_sliceMem (s : State) (f : Nat) (v : Upload) : (setUpload s f v).sliceMem = s.sliceMem := rfl
@[simp] theorem setUpload_peat (s : State) (f : Nat) (v : Upload) : (setUpload s f v).peat = s.peat := rfl
@[simp] theorem setUpload_flash (s : State) (f : Nat) (v : Upload) : (setUpload s f v).flash = s.flash := rfl
@[simp] theorem setUpload_tw (s : State) (f : Nat) (v : Upload) : (setUpload s f v).tw = s.tw := rfl
@[simp] theorem setUpload_board (s : State) (f : Nat) (v : Upload) : (setUpload s f v).board = s.board := rfl
@[simp] theorem setUpload_pcie (s : State) (f : Nat) (v : Upload) : (setUpload s f v).pcie = s.pcie := rfl
@[simp] theorem setUpload_rng (s : State) (f : Nat) (v : Upload) : (setUpload s f v).rng = s.rng := rfl
@[simp] theorem setUpload_unfixedDev (s : State) (f : Nat) (v : Upload) : (setUpload s f v).unfixedDev = s.unfixedDev := rfl
@[simp] theorem setUpload_unfixedHost (s : State) (f : Nat) (v : Upload) : (setUpload s f v).unfixedHost = s.unfixedHost := rfl
@[simp] theorem setUpload_paces (s : State) (f : Nat) (v : Upload) : (setUpload s f v).paces = s.paces := rfl
@[simp] theorem setUpload_localMem (s : State) (f : Nat) (v : Upload) : (setUpload s f v).localMem = s.localMem := rfl
@[simp] theorem setUpload_stale (s : State) (f : Nat) (v : Upload) : (setUpload s f v).stale = s.stale := rfl

/-! ### setLane -/

@[simp] theorem setLane_pending (s : State) (k : Nat) (v : Lane) : (setLane s k v).pending = s.pending := rfl
@[simp] theorem setLane_part (s : State) (k : Nat) (v : Lane) : (setLane s k v).part = s.part := rfl
@[simp] theorem setLane_regs (s : State) (k : Nat) (v : Lane) : (setLane s k v).regs = s.regs := rfl
@[simp] theorem setLane_fnRegs (s : State) (k : Nat) (v : Lane) : (setLane s k v).fnRegs = s.fnRegs := rfl
@[simp] theorem setLane_queues (s : State) (k : Nat) (v : Lane) : (setLane s k v).queues = s.queues := rfl
@[simp] theorem setLane_fns (s : State) (k : Nat) (v : Lane) : (setLane s k v).fns = s.fns := rfl
@[simp] theorem setLane_syncs (s : State) (k : Nat) (v : Lane) : (setLane s k v).syncs = s.syncs := rfl
@[simp] theorem setLane_ctxs (s : State) (k : Nat) (v : Lane) : (setLane s k v).ctxs = s.ctxs := rfl
@[simp] theorem setLane_plans (s : State) (k : Nat) (v : Lane) : (setLane s k v).plans = s.plans := rfl
@[simp] theorem setLane_runs (s : State) (k : Nat) (v : Lane) : (setLane s k v).runs = s.runs := rfl
@[simp] theorem setLane_frames (s : State) (k : Nat) (v : Lane) : (setLane s k v).frames = s.frames := rfl
@[simp] theorem setLane_mem (s : State) (k : Nat) (v : Lane) : (setLane s k v).mem = s.mem := rfl
@[simp] theorem setLane_memErr (s : State) (k : Nat) (v : Lane) : (setLane s k v).memErr = s.memErr := rfl
@[simp] theorem setLane_memMeta (s : State) (k : Nat) (v : Lane) : (setLane s k v).memMeta = s.memMeta := rfl
@[simp] theorem setLane_hostMem (s : State) (k : Nat) (v : Lane) : (setLane s k v).hostMem = s.hostMem := rfl
@[simp] theorem setLane_sliceMem (s : State) (k : Nat) (v : Lane) : (setLane s k v).sliceMem = s.sliceMem := rfl
@[simp] theorem setLane_peat (s : State) (k : Nat) (v : Lane) : (setLane s k v).peat = s.peat := rfl
@[simp] theorem setLane_flash (s : State) (k : Nat) (v : Lane) : (setLane s k v).flash = s.flash := rfl
@[simp] theorem setLane_tw (s : State) (k : Nat) (v : Lane) : (setLane s k v).tw = s.tw := rfl
@[simp] theorem setLane_board (s : State) (k : Nat) (v : Lane) : (setLane s k v).board = s.board := rfl
@[simp] theorem setLane_pcie (s : State) (k : Nat) (v : Lane) : (setLane s k v).pcie = s.pcie := rfl
@[simp] theorem setLane_rng (s : State) (k : Nat) (v : Lane) : (setLane s k v).rng = s.rng := rfl
@[simp] theorem setLane_enclave (s : State) (k : Nat) (v : Lane) : (setLane s k v).enclave = s.enclave := rfl
@[simp] theorem setLane_unfixedDev (s : State) (k : Nat) (v : Lane) : (setLane s k v).unfixedDev = s.unfixedDev := rfl
@[simp] theorem setLane_unfixedHost (s : State) (k : Nat) (v : Lane) : (setLane s k v).unfixedHost = s.unfixedHost := rfl
@[simp] theorem setLane_paces (s : State) (k : Nat) (v : Lane) : (setLane s k v).paces = s.paces := rfl
@[simp] theorem setLane_localMem (s : State) (k : Nat) (v : Lane) : (setLane s k v).localMem = s.localMem := rfl
@[simp] theorem setLane_stale (s : State) (k : Nat) (v : Lane) : (setLane s k v).stale = s.stale := rfl

/-! ### setRun -/

@[simp] theorem setRun_pending (s : State) (q : Nat) (r : Run) : (setRun s q r).pending = s.pending := rfl
@[simp] theorem setRun_part (s : State) (q : Nat) (r : Run) : (setRun s q r).part = s.part := rfl
@[simp] theorem setRun_regs (s : State) (q : Nat) (r : Run) : (setRun s q r).regs = s.regs := rfl
@[simp] theorem setRun_fnRegs (s : State) (q : Nat) (r : Run) : (setRun s q r).fnRegs = s.fnRegs := rfl
@[simp] theorem setRun_queues (s : State) (q : Nat) (r : Run) : (setRun s q r).queues = s.queues := rfl
@[simp] theorem setRun_fns (s : State) (q : Nat) (r : Run) : (setRun s q r).fns = s.fns := rfl
@[simp] theorem setRun_syncs (s : State) (q : Nat) (r : Run) : (setRun s q r).syncs = s.syncs := rfl
@[simp] theorem setRun_ctxs (s : State) (q : Nat) (r : Run) : (setRun s q r).ctxs = s.ctxs := rfl
@[simp] theorem setRun_plans (s : State) (q : Nat) (r : Run) : (setRun s q r).plans = s.plans := rfl
@[simp] theorem setRun_lanes (s : State) (q : Nat) (r : Run) : (setRun s q r).lanes = s.lanes := rfl
@[simp] theorem setRun_frames (s : State) (q : Nat) (r : Run) : (setRun s q r).frames = s.frames := rfl
@[simp] theorem setRun_mem (s : State) (q : Nat) (r : Run) : (setRun s q r).mem = s.mem := rfl
@[simp] theorem setRun_memErr (s : State) (q : Nat) (r : Run) : (setRun s q r).memErr = s.memErr := rfl
@[simp] theorem setRun_memMeta (s : State) (q : Nat) (r : Run) : (setRun s q r).memMeta = s.memMeta := rfl
@[simp] theorem setRun_hostMem (s : State) (q : Nat) (r : Run) : (setRun s q r).hostMem = s.hostMem := rfl
@[simp] theorem setRun_sliceMem (s : State) (q : Nat) (r : Run) : (setRun s q r).sliceMem = s.sliceMem := rfl
@[simp] theorem setRun_peat (s : State) (q : Nat) (r : Run) : (setRun s q r).peat = s.peat := rfl
@[simp] theorem setRun_flash (s : State) (q : Nat) (r : Run) : (setRun s q r).flash = s.flash := rfl
@[simp] theorem setRun_tw (s : State) (q : Nat) (r : Run) : (setRun s q r).tw = s.tw := rfl
@[simp] theorem setRun_board (s : State) (q : Nat) (r : Run) : (setRun s q r).board = s.board := rfl
@[simp] theorem setRun_pcie (s : State) (q : Nat) (r : Run) : (setRun s q r).pcie = s.pcie := rfl
@[simp] theorem setRun_rng (s : State) (q : Nat) (r : Run) : (setRun s q r).rng = s.rng := rfl
@[simp] theorem setRun_enclave (s : State) (q : Nat) (r : Run) : (setRun s q r).enclave = s.enclave := rfl
@[simp] theorem setRun_unfixedDev (s : State) (q : Nat) (r : Run) : (setRun s q r).unfixedDev = s.unfixedDev := rfl
@[simp] theorem setRun_unfixedHost (s : State) (q : Nat) (r : Run) : (setRun s q r).unfixedHost = s.unfixedHost := rfl
@[simp] theorem setRun_paces (s : State) (q : Nat) (r : Run) : (setRun s q r).paces = s.paces := rfl
@[simp] theorem setRun_localMem (s : State) (q : Nat) (r : Run) : (setRun s q r).localMem = s.localMem := rfl
@[simp] theorem setRun_stale (s : State) (q : Nat) (r : Run) : (setRun s q r).stale = s.stale := rfl

/-! ### delRun -/

@[simp] theorem delRun_pending (s : State) (q : Nat) : (delRun s q).pending = s.pending := rfl
@[simp] theorem delRun_part (s : State) (q : Nat) : (delRun s q).part = s.part := rfl
@[simp] theorem delRun_regs (s : State) (q : Nat) : (delRun s q).regs = s.regs := rfl
@[simp] theorem delRun_fnRegs (s : State) (q : Nat) : (delRun s q).fnRegs = s.fnRegs := rfl
@[simp] theorem delRun_queues (s : State) (q : Nat) : (delRun s q).queues = s.queues := rfl
@[simp] theorem delRun_fns (s : State) (q : Nat) : (delRun s q).fns = s.fns := rfl
@[simp] theorem delRun_syncs (s : State) (q : Nat) : (delRun s q).syncs = s.syncs := rfl
@[simp] theorem delRun_ctxs (s : State) (q : Nat) : (delRun s q).ctxs = s.ctxs := rfl
@[simp] theorem delRun_plans (s : State) (q : Nat) : (delRun s q).plans = s.plans := rfl
@[simp] theorem delRun_lanes (s : State) (q : Nat) : (delRun s q).lanes = s.lanes := rfl
@[simp] theorem delRun_frames (s : State) (q : Nat) : (delRun s q).frames = s.frames := rfl
@[simp] theorem delRun_mem (s : State) (q : Nat) : (delRun s q).mem = s.mem := rfl
@[simp] theorem delRun_memErr (s : State) (q : Nat) : (delRun s q).memErr = s.memErr := rfl
@[simp] theorem delRun_memMeta (s : State) (q : Nat) : (delRun s q).memMeta = s.memMeta := rfl
@[simp] theorem delRun_hostMem (s : State) (q : Nat) : (delRun s q).hostMem = s.hostMem := rfl
@[simp] theorem delRun_sliceMem (s : State) (q : Nat) : (delRun s q).sliceMem = s.sliceMem := rfl
@[simp] theorem delRun_peat (s : State) (q : Nat) : (delRun s q).peat = s.peat := rfl
@[simp] theorem delRun_flash (s : State) (q : Nat) : (delRun s q).flash = s.flash := rfl
@[simp] theorem delRun_tw (s : State) (q : Nat) : (delRun s q).tw = s.tw := rfl
@[simp] theorem delRun_board (s : State) (q : Nat) : (delRun s q).board = s.board := rfl
@[simp] theorem delRun_pcie (s : State) (q : Nat) : (delRun s q).pcie = s.pcie := rfl
@[simp] theorem delRun_rng (s : State) (q : Nat) : (delRun s q).rng = s.rng := rfl
@[simp] theorem delRun_enclave (s : State) (q : Nat) : (delRun s q).enclave = s.enclave := rfl
@[simp] theorem delRun_unfixedDev (s : State) (q : Nat) : (delRun s q).unfixedDev = s.unfixedDev := rfl
@[simp] theorem delRun_unfixedHost (s : State) (q : Nat) : (delRun s q).unfixedHost = s.unfixedHost := rfl
@[simp] theorem delRun_paces (s : State) (q : Nat) : (delRun s q).paces = s.paces := rfl
@[simp] theorem delRun_localMem (s : State) (q : Nat) : (delRun s q).localMem = s.localMem := rfl
@[simp] theorem delRun_stale (s : State) (q : Nat) : (delRun s q).stale = s.stale := rfl

/-! ### setPlan -/

@[simp] theorem setPlan_pending (s : State) (n : Nat) (p : Plan) : (setPlan s n p).pending = s.pending := rfl
@[simp] theorem setPlan_part (s : State) (n : Nat) (p : Plan) : (setPlan s n p).part = s.part := rfl
@[simp] theorem setPlan_regs (s : State) (n : Nat) (p : Plan) : (setPlan s n p).regs = s.regs := rfl
@[simp] theorem setPlan_fnRegs (s : State) (n : Nat) (p : Plan) : (setPlan s n p).fnRegs = s.fnRegs := rfl
@[simp] theorem setPlan_queues (s : State) (n : Nat) (p : Plan) : (setPlan s n p).queues = s.queues := rfl
@[simp] theorem setPlan_fns (s : State) (n : Nat) (p : Plan) : (setPlan s n p).fns = s.fns := rfl
@[simp] theorem setPlan_syncs (s : State) (n : Nat) (p : Plan) : (setPlan s n p).syncs = s.syncs := rfl
@[simp] theorem setPlan_ctxs (s : State) (n : Nat) (p : Plan) : (setPlan s n p).ctxs = s.ctxs := rfl
@[simp] theorem setPlan_runs (s : State) (n : Nat) (p : Plan) : (setPlan s n p).runs = s.runs := rfl
@[simp] theorem setPlan_lanes (s : State) (n : Nat) (p : Plan) : (setPlan s n p).lanes = s.lanes := rfl
@[simp] theorem setPlan_frames (s : State) (n : Nat) (p : Plan) : (setPlan s n p).frames = s.frames := rfl
@[simp] theorem setPlan_mem (s : State) (n : Nat) (p : Plan) : (setPlan s n p).mem = s.mem := rfl
@[simp] theorem setPlan_memErr (s : State) (n : Nat) (p : Plan) : (setPlan s n p).memErr = s.memErr := rfl
@[simp] theorem setPlan_memMeta (s : State) (n : Nat) (p : Plan) : (setPlan s n p).memMeta = s.memMeta := rfl
@[simp] theorem setPlan_hostMem (s : State) (n : Nat) (p : Plan) : (setPlan s n p).hostMem = s.hostMem := rfl
@[simp] theorem setPlan_sliceMem (s : State) (n : Nat) (p : Plan) : (setPlan s n p).sliceMem = s.sliceMem := rfl
@[simp] theorem setPlan_peat (s : State) (n : Nat) (p : Plan) : (setPlan s n p).peat = s.peat := rfl
@[simp] theorem setPlan_flash (s : State) (n : Nat) (p : Plan) : (setPlan s n p).flash = s.flash := rfl
@[simp] theorem setPlan_tw (s : State) (n : Nat) (p : Plan) : (setPlan s n p).tw = s.tw := rfl
@[simp] theorem setPlan_board (s : State) (n : Nat) (p : Plan) : (setPlan s n p).board = s.board := rfl
@[simp] theorem setPlan_pcie (s : State) (n : Nat) (p : Plan) : (setPlan s n p).pcie = s.pcie := rfl
@[simp] theorem setPlan_rng (s : State) (n : Nat) (p : Plan) : (setPlan s n p).rng = s.rng := rfl
@[simp] theorem setPlan_enclave (s : State) (n : Nat) (p : Plan) : (setPlan s n p).enclave = s.enclave := rfl
@[simp] theorem setPlan_unfixedDev (s : State) (n : Nat) (p : Plan) : (setPlan s n p).unfixedDev = s.unfixedDev := rfl
@[simp] theorem setPlan_unfixedHost (s : State) (n : Nat) (p : Plan) : (setPlan s n p).unfixedHost = s.unfixedHost := rfl
@[simp] theorem setPlan_paces (s : State) (n : Nat) (p : Plan) : (setPlan s n p).paces = s.paces := rfl
@[simp] theorem setPlan_localMem (s : State) (n : Nat) (p : Plan) : (setPlan s n p).localMem = s.localMem := rfl
@[simp] theorem setPlan_stale (s : State) (n : Nat) (p : Plan) : (setPlan s n p).stale = s.stale := rfl

/-! ### delPlan -/

@[simp] theorem delPlan_pending (s : State) (n : Nat) : (delPlan s n).pending = s.pending := rfl
@[simp] theorem delPlan_part (s : State) (n : Nat) : (delPlan s n).part = s.part := rfl
@[simp] theorem delPlan_regs (s : State) (n : Nat) : (delPlan s n).regs = s.regs := rfl
@[simp] theorem delPlan_fnRegs (s : State) (n : Nat) : (delPlan s n).fnRegs = s.fnRegs := rfl
@[simp] theorem delPlan_queues (s : State) (n : Nat) : (delPlan s n).queues = s.queues := rfl
@[simp] theorem delPlan_fns (s : State) (n : Nat) : (delPlan s n).fns = s.fns := rfl
@[simp] theorem delPlan_syncs (s : State) (n : Nat) : (delPlan s n).syncs = s.syncs := rfl
@[simp] theorem delPlan_ctxs (s : State) (n : Nat) : (delPlan s n).ctxs = s.ctxs := rfl
@[simp] theorem delPlan_runs (s : State) (n : Nat) : (delPlan s n).runs = s.runs := rfl
@[simp] theorem delPlan_lanes (s : State) (n : Nat) : (delPlan s n).lanes = s.lanes := rfl
@[simp] theorem delPlan_frames (s : State) (n : Nat) : (delPlan s n).frames = s.frames := rfl
@[simp] theorem delPlan_mem (s : State) (n : Nat) : (delPlan s n).mem = s.mem := rfl
@[simp] theorem delPlan_memErr (s : State) (n : Nat) : (delPlan s n).memErr = s.memErr := rfl
@[simp] theorem delPlan_memMeta (s : State) (n : Nat) : (delPlan s n).memMeta = s.memMeta := rfl
@[simp] theorem delPlan_hostMem (s : State) (n : Nat) : (delPlan s n).hostMem = s.hostMem := rfl
@[simp] theorem delPlan_sliceMem (s : State) (n : Nat) : (delPlan s n).sliceMem = s.sliceMem := rfl
@[simp] theorem delPlan_peat (s : State) (n : Nat) : (delPlan s n).peat = s.peat := rfl
@[simp] theorem delPlan_flash (s : State) (n : Nat) : (delPlan s n).flash = s.flash := rfl
@[simp] theorem delPlan_tw (s : State) (n : Nat) : (delPlan s n).tw = s.tw := rfl
@[simp] theorem delPlan_board (s : State) (n : Nat) : (delPlan s n).board = s.board := rfl
@[simp] theorem delPlan_pcie (s : State) (n : Nat) : (delPlan s n).pcie = s.pcie := rfl
@[simp] theorem delPlan_rng (s : State) (n : Nat) : (delPlan s n).rng = s.rng := rfl
@[simp] theorem delPlan_enclave (s : State) (n : Nat) : (delPlan s n).enclave = s.enclave := rfl
@[simp] theorem delPlan_unfixedDev (s : State) (n : Nat) : (delPlan s n).unfixedDev = s.unfixedDev := rfl
@[simp] theorem delPlan_unfixedHost (s : State) (n : Nat) : (delPlan s n).unfixedHost = s.unfixedHost := rfl
@[simp] theorem delPlan_paces (s : State) (n : Nat) : (delPlan s n).paces = s.paces := rfl
@[simp] theorem delPlan_localMem (s : State) (n : Nat) : (delPlan s n).localMem = s.localMem := rfl
@[simp] theorem delPlan_stale (s : State) (n : Nat) : (delPlan s n).stale = s.stale := rfl

/-! ### setFrame -/

@[simp] theorem setFrame_pending (s : State) (k : Nat) (f : Frame) : (setFrame s k f).pending = s.pending := rfl
@[simp] theorem setFrame_part (s : State) (k : Nat) (f : Frame) : (setFrame s k f).part = s.part := rfl
@[simp] theorem setFrame_regs (s : State) (k : Nat) (f : Frame) : (setFrame s k f).regs = s.regs := rfl
@[simp] theorem setFrame_fnRegs (s : State) (k : Nat) (f : Frame) : (setFrame s k f).fnRegs = s.fnRegs := rfl
@[simp] theorem setFrame_queues (s : State) (k : Nat) (f : Frame) : (setFrame s k f).queues = s.queues := rfl
@[simp] theorem setFrame_fns (s : State) (k : Nat) (f : Frame) : (setFrame s k f).fns = s.fns := rfl
@[simp] theorem setFrame_syncs (s : State) (k : Nat) (f : Frame) : (setFrame s k f).syncs = s.syncs := rfl
@[simp] theorem setFrame_ctxs (s : State) (k : Nat) (f : Frame) : (setFrame s k f).ctxs = s.ctxs := rfl
@[simp] theorem setFrame_plans (s : State) (k : Nat) (f : Frame) : (setFrame s k f).plans = s.plans := rfl
@[simp] theorem setFrame_runs (s : State) (k : Nat) (f : Frame) : (setFrame s k f).runs = s.runs := rfl
@[simp] theorem setFrame_lanes (s : State) (k : Nat) (f : Frame) : (setFrame s k f).lanes = s.lanes := rfl
@[simp] theorem setFrame_mem (s : State) (k : Nat) (f : Frame) : (setFrame s k f).mem = s.mem := rfl
@[simp] theorem setFrame_memErr (s : State) (k : Nat) (f : Frame) : (setFrame s k f).memErr = s.memErr := rfl
@[simp] theorem setFrame_memMeta (s : State) (k : Nat) (f : Frame) : (setFrame s k f).memMeta = s.memMeta := rfl
@[simp] theorem setFrame_hostMem (s : State) (k : Nat) (f : Frame) : (setFrame s k f).hostMem = s.hostMem := rfl
@[simp] theorem setFrame_sliceMem (s : State) (k : Nat) (f : Frame) : (setFrame s k f).sliceMem = s.sliceMem := rfl
@[simp] theorem setFrame_peat (s : State) (k : Nat) (f : Frame) : (setFrame s k f).peat = s.peat := rfl
@[simp] theorem setFrame_flash (s : State) (k : Nat) (f : Frame) : (setFrame s k f).flash = s.flash := rfl
@[simp] theorem setFrame_tw (s : State) (k : Nat) (f : Frame) : (setFrame s k f).tw = s.tw := rfl
@[simp] theorem setFrame_board (s : State) (k : Nat) (f : Frame) : (setFrame s k f).board = s.board := rfl
@[simp] theorem setFrame_pcie (s : State) (k : Nat) (f : Frame) : (setFrame s k f).pcie = s.pcie := rfl
@[simp] theorem setFrame_rng (s : State) (k : Nat) (f : Frame) : (setFrame s k f).rng = s.rng := rfl
@[simp] theorem setFrame_enclave (s : State) (k : Nat) (f : Frame) : (setFrame s k f).enclave = s.enclave := rfl
@[simp] theorem setFrame_unfixedDev (s : State) (k : Nat) (f : Frame) : (setFrame s k f).unfixedDev = s.unfixedDev := rfl
@[simp] theorem setFrame_unfixedHost (s : State) (k : Nat) (f : Frame) : (setFrame s k f).unfixedHost = s.unfixedHost := rfl
@[simp] theorem setFrame_paces (s : State) (k : Nat) (f : Frame) : (setFrame s k f).paces = s.paces := rfl
@[simp] theorem setFrame_localMem (s : State) (k : Nat) (f : Frame) : (setFrame s k f).localMem = s.localMem := rfl
@[simp] theorem setFrame_stale (s : State) (k : Nat) (f : Frame) : (setFrame s k f).stale = s.stale := rfl

/-! ### delFrame -/

@[simp] theorem delFrame_pending (s : State) (k : Nat) : (delFrame s k).pending = s.pending := rfl
@[simp] theorem delFrame_part (s : State) (k : Nat) : (delFrame s k).part = s.part := rfl
@[simp] theorem delFrame_regs (s : State) (k : Nat) : (delFrame s k).regs = s.regs := rfl
@[simp] theorem delFrame_fnRegs (s : State) (k : Nat) : (delFrame s k).fnRegs = s.fnRegs := rfl
@[simp] theorem delFrame_queues (s : State) (k : Nat) : (delFrame s k).queues = s.queues := rfl
@[simp] theorem delFrame_fns (s : State) (k : Nat) : (delFrame s k).fns = s.fns := rfl
@[simp] theorem delFrame_syncs (s : State) (k : Nat) : (delFrame s k).syncs = s.syncs := rfl
@[simp] theorem delFrame_ctxs (s : State) (k : Nat) : (delFrame s k).ctxs = s.ctxs := rfl
@[simp] theorem delFrame_plans (s : State) (k : Nat) : (delFrame s k).plans = s.plans := rfl
@[simp] theorem delFrame_runs (s : State) (k : Nat) : (delFrame s k).runs = s.runs := rfl
@[simp] theorem delFrame_lanes (s : State) (k : Nat) : (delFrame s k).lanes = s.lanes := rfl
@[simp] theorem delFrame_mem (s : State) (k : Nat) : (delFrame s k).mem = s.mem := rfl
@[simp] theorem delFrame_memErr (s : State) (k : Nat) : (delFrame s k).memErr = s.memErr := rfl
@[simp] theorem delFrame_memMeta (s : State) (k : Nat) : (delFrame s k).memMeta = s.memMeta := rfl
@[simp] theorem delFrame_hostMem (s : State) (k : Nat) : (delFrame s k).hostMem = s.hostMem := rfl
@[simp] theorem delFrame_sliceMem (s : State) (k : Nat) : (delFrame s k).sliceMem = s.sliceMem := rfl
@[simp] theorem delFrame_peat (s : State) (k : Nat) : (delFrame s k).peat = s.peat := rfl
@[simp] theorem delFrame_flash (s : State) (k : Nat) : (delFrame s k).flash = s.flash := rfl
@[simp] theorem delFrame_tw (s : State) (k : Nat) : (delFrame s k).tw = s.tw := rfl
@[simp] theorem delFrame_board (s : State) (k : Nat) : (delFrame s k).board = s.board := rfl
@[simp] theorem delFrame_pcie (s : State) (k : Nat) : (delFrame s k).pcie = s.pcie := rfl
@[simp] theorem delFrame_rng (s : State) (k : Nat) : (delFrame s k).rng = s.rng := rfl
@[simp] theorem delFrame_enclave (s : State) (k : Nat) : (delFrame s k).enclave = s.enclave := rfl
@[simp] theorem delFrame_unfixedDev (s : State) (k : Nat) : (delFrame s k).unfixedDev = s.unfixedDev := rfl
@[simp] theorem delFrame_unfixedHost (s : State) (k : Nat) : (delFrame s k).unfixedHost = s.unfixedHost := rfl
@[simp] theorem delFrame_paces (s : State) (k : Nat) : (delFrame s k).paces = s.paces := rfl
@[simp] theorem delFrame_localMem (s : State) (k : Nat) : (delFrame s k).localMem = s.localMem := rfl
@[simp] theorem delFrame_stale (s : State) (k : Nat) : (delFrame s k).stale = s.stale := rfl

/-! ### pokeDev -/

@[simp] theorem pokeDev_pending (s : State) (a : Nat) (b : List Byte) : (pokeDev s a b).pending = s.pending := rfl
@[simp] theorem pokeDev_part (s : State) (a : Nat) (b : List Byte) : (pokeDev s a b).part = s.part := rfl
@[simp] theorem pokeDev_regs (s : State) (a : Nat) (b : List Byte) : (pokeDev s a b).regs = s.regs := rfl
@[simp] theorem pokeDev_fnRegs (s : State) (a : Nat) (b : List Byte) : (pokeDev s a b).fnRegs = s.fnRegs := rfl
@[simp] theorem pokeDev_queues (s : State) (a : Nat) (b : List Byte) : (pokeDev s a b).queues = s.queues := rfl
@[simp] theorem pokeDev_fns (s : State) (a : Nat) (b : List Byte) : (pokeDev s a b).fns = s.fns := rfl
@[simp] theorem pokeDev_syncs (s : State) (a : Nat) (b : List Byte) : (pokeDev s a b).syncs = s.syncs := rfl
@[simp] theorem pokeDev_ctxs (s : State) (a : Nat) (b : List Byte) : (pokeDev s a b).ctxs = s.ctxs := rfl
@[simp] theorem pokeDev_plans (s : State) (a : Nat) (b : List Byte) : (pokeDev s a b).plans = s.plans := rfl
@[simp] theorem pokeDev_runs (s : State) (a : Nat) (b : List Byte) : (pokeDev s a b).runs = s.runs := rfl
@[simp] theorem pokeDev_lanes (s : State) (a : Nat) (b : List Byte) : (pokeDev s a b).lanes = s.lanes := rfl
@[simp] theorem pokeDev_frames (s : State) (a : Nat) (b : List Byte) : (pokeDev s a b).frames = s.frames := rfl
@[simp] theorem pokeDev_memErr (s : State) (a : Nat) (b : List Byte) : (pokeDev s a b).memErr = s.memErr := rfl
@[simp] theorem pokeDev_memMeta (s : State) (a : Nat) (b : List Byte) : (pokeDev s a b).memMeta = s.memMeta := rfl
@[simp] theorem pokeDev_hostMem (s : State) (a : Nat) (b : List Byte) : (pokeDev s a b).hostMem = s.hostMem := rfl
@[simp] theorem pokeDev_sliceMem (s : State) (a : Nat) (b : List Byte) : (pokeDev s a b).sliceMem = s.sliceMem := rfl
@[simp] theorem pokeDev_peat (s : State) (a : Nat) (b : List Byte) : (pokeDev s a b).peat = s.peat := rfl
@[simp] theorem pokeDev_flash (s : State) (a : Nat) (b : List Byte) : (pokeDev s a b).flash = s.flash := rfl
@[simp] theorem pokeDev_tw (s : State) (a : Nat) (b : List Byte) : (pokeDev s a b).tw = s.tw := rfl
@[simp] theorem pokeDev_board (s : State) (a : Nat) (b : List Byte) : (pokeDev s a b).board = s.board := rfl
@[simp] theorem pokeDev_pcie (s : State) (a : Nat) (b : List Byte) : (pokeDev s a b).pcie = s.pcie := rfl
@[simp] theorem pokeDev_rng (s : State) (a : Nat) (b : List Byte) : (pokeDev s a b).rng = s.rng := rfl
@[simp] theorem pokeDev_enclave (s : State) (a : Nat) (b : List Byte) : (pokeDev s a b).enclave = s.enclave := rfl
@[simp] theorem pokeDev_unfixedDev (s : State) (a : Nat) (b : List Byte) : (pokeDev s a b).unfixedDev = s.unfixedDev := rfl
@[simp] theorem pokeDev_unfixedHost (s : State) (a : Nat) (b : List Byte) : (pokeDev s a b).unfixedHost = s.unfixedHost := rfl
@[simp] theorem pokeDev_paces (s : State) (a : Nat) (b : List Byte) : (pokeDev s a b).paces = s.paces := rfl
@[simp] theorem pokeDev_localMem (s : State) (a : Nat) (b : List Byte) : (pokeDev s a b).localMem = s.localMem := rfl
@[simp] theorem pokeDev_stale (s : State) (a : Nat) (b : List Byte) : (pokeDev s a b).stale = s.stale := rfl

/-! ### writeHost -/

@[simp] theorem writeHost_pending (s : State) (a : Nat) (b : List Byte) : (writeHost s a b).pending = s.pending := rfl
@[simp] theorem writeHost_part (s : State) (a : Nat) (b : List Byte) : (writeHost s a b).part = s.part := rfl
@[simp] theorem writeHost_regs (s : State) (a : Nat) (b : List Byte) : (writeHost s a b).regs = s.regs := rfl
@[simp] theorem writeHost_fnRegs (s : State) (a : Nat) (b : List Byte) : (writeHost s a b).fnRegs = s.fnRegs := rfl
@[simp] theorem writeHost_queues (s : State) (a : Nat) (b : List Byte) : (writeHost s a b).queues = s.queues := rfl
@[simp] theorem writeHost_fns (s : State) (a : Nat) (b : List Byte) : (writeHost s a b).fns = s.fns := rfl
@[simp] theorem writeHost_syncs (s : State) (a : Nat) (b : List Byte) : (writeHost s a b).syncs = s.syncs := rfl
@[simp] theorem writeHost_ctxs (s : State) (a : Nat) (b : List Byte) : (writeHost s a b).ctxs = s.ctxs := rfl
@[simp] theorem writeHost_plans (s : State) (a : Nat) (b : List Byte) : (writeHost s a b).plans = s.plans := rfl
@[simp] theorem writeHost_runs (s : State) (a : Nat) (b : List Byte) : (writeHost s a b).runs = s.runs := rfl
@[simp] theorem writeHost_lanes (s : State) (a : Nat) (b : List Byte) : (writeHost s a b).lanes = s.lanes := rfl
@[simp] theorem writeHost_frames (s : State) (a : Nat) (b : List Byte) : (writeHost s a b).frames = s.frames := rfl
@[simp] theorem writeHost_mem (s : State) (a : Nat) (b : List Byte) : (writeHost s a b).mem = s.mem := rfl
@[simp] theorem writeHost_memErr (s : State) (a : Nat) (b : List Byte) : (writeHost s a b).memErr = s.memErr := rfl
@[simp] theorem writeHost_memMeta (s : State) (a : Nat) (b : List Byte) : (writeHost s a b).memMeta = s.memMeta := rfl
@[simp] theorem writeHost_sliceMem (s : State) (a : Nat) (b : List Byte) : (writeHost s a b).sliceMem = s.sliceMem := rfl
@[simp] theorem writeHost_peat (s : State) (a : Nat) (b : List Byte) : (writeHost s a b).peat = s.peat := rfl
@[simp] theorem writeHost_flash (s : State) (a : Nat) (b : List Byte) : (writeHost s a b).flash = s.flash := rfl
@[simp] theorem writeHost_tw (s : State) (a : Nat) (b : List Byte) : (writeHost s a b).tw = s.tw := rfl
@[simp] theorem writeHost_board (s : State) (a : Nat) (b : List Byte) : (writeHost s a b).board = s.board := rfl
@[simp] theorem writeHost_pcie (s : State) (a : Nat) (b : List Byte) : (writeHost s a b).pcie = s.pcie := rfl
@[simp] theorem writeHost_rng (s : State) (a : Nat) (b : List Byte) : (writeHost s a b).rng = s.rng := rfl
@[simp] theorem writeHost_enclave (s : State) (a : Nat) (b : List Byte) : (writeHost s a b).enclave = s.enclave := rfl
@[simp] theorem writeHost_unfixedDev (s : State) (a : Nat) (b : List Byte) : (writeHost s a b).unfixedDev = s.unfixedDev := rfl
@[simp] theorem writeHost_paces (s : State) (a : Nat) (b : List Byte) : (writeHost s a b).paces = s.paces := rfl
@[simp] theorem writeHost_localMem (s : State) (a : Nat) (b : List Byte) : (writeHost s a b).localMem = s.localMem := rfl
@[simp] theorem writeHost_stale (s : State) (a : Nat) (b : List Byte) : (writeHost s a b).stale = s.stale := rfl

/-! ### setErr -/

@[simp] theorem setErr_pending (s : State) (w : Nat) (v : Upset) : (setErr s w v).pending = s.pending := rfl
@[simp] theorem setErr_part (s : State) (w : Nat) (v : Upset) : (setErr s w v).part = s.part := rfl
@[simp] theorem setErr_regs (s : State) (w : Nat) (v : Upset) : (setErr s w v).regs = s.regs := rfl
@[simp] theorem setErr_fnRegs (s : State) (w : Nat) (v : Upset) : (setErr s w v).fnRegs = s.fnRegs := rfl
@[simp] theorem setErr_queues (s : State) (w : Nat) (v : Upset) : (setErr s w v).queues = s.queues := rfl
@[simp] theorem setErr_fns (s : State) (w : Nat) (v : Upset) : (setErr s w v).fns = s.fns := rfl
@[simp] theorem setErr_syncs (s : State) (w : Nat) (v : Upset) : (setErr s w v).syncs = s.syncs := rfl
@[simp] theorem setErr_ctxs (s : State) (w : Nat) (v : Upset) : (setErr s w v).ctxs = s.ctxs := rfl
@[simp] theorem setErr_plans (s : State) (w : Nat) (v : Upset) : (setErr s w v).plans = s.plans := rfl
@[simp] theorem setErr_runs (s : State) (w : Nat) (v : Upset) : (setErr s w v).runs = s.runs := rfl
@[simp] theorem setErr_lanes (s : State) (w : Nat) (v : Upset) : (setErr s w v).lanes = s.lanes := rfl
@[simp] theorem setErr_frames (s : State) (w : Nat) (v : Upset) : (setErr s w v).frames = s.frames := rfl
@[simp] theorem setErr_mem (s : State) (w : Nat) (v : Upset) : (setErr s w v).mem = s.mem := rfl
@[simp] theorem setErr_memMeta (s : State) (w : Nat) (v : Upset) : (setErr s w v).memMeta = s.memMeta := rfl
@[simp] theorem setErr_hostMem (s : State) (w : Nat) (v : Upset) : (setErr s w v).hostMem = s.hostMem := rfl
@[simp] theorem setErr_sliceMem (s : State) (w : Nat) (v : Upset) : (setErr s w v).sliceMem = s.sliceMem := rfl
@[simp] theorem setErr_peat (s : State) (w : Nat) (v : Upset) : (setErr s w v).peat = s.peat := rfl
@[simp] theorem setErr_flash (s : State) (w : Nat) (v : Upset) : (setErr s w v).flash = s.flash := rfl
@[simp] theorem setErr_tw (s : State) (w : Nat) (v : Upset) : (setErr s w v).tw = s.tw := rfl
@[simp] theorem setErr_board (s : State) (w : Nat) (v : Upset) : (setErr s w v).board = s.board := rfl
@[simp] theorem setErr_pcie (s : State) (w : Nat) (v : Upset) : (setErr s w v).pcie = s.pcie := rfl
@[simp] theorem setErr_rng (s : State) (w : Nat) (v : Upset) : (setErr s w v).rng = s.rng := rfl
@[simp] theorem setErr_enclave (s : State) (w : Nat) (v : Upset) : (setErr s w v).enclave = s.enclave := rfl
@[simp] theorem setErr_unfixedDev (s : State) (w : Nat) (v : Upset) : (setErr s w v).unfixedDev = s.unfixedDev := rfl
@[simp] theorem setErr_unfixedHost (s : State) (w : Nat) (v : Upset) : (setErr s w v).unfixedHost = s.unfixedHost := rfl
@[simp] theorem setErr_paces (s : State) (w : Nat) (v : Upset) : (setErr s w v).paces = s.paces := rfl
@[simp] theorem setErr_localMem (s : State) (w : Nat) (v : Upset) : (setErr s w v).localMem = s.localMem := rfl
@[simp] theorem setErr_stale (s : State) (w : Nat) (v : Upset) : (setErr s w v).stale = s.stale := rfl

/-! ### setTag -/

@[simp] theorem setTag_pending (s : State) (w : Nat) (v : Tag) : (setTag s w v).pending = s.pending := rfl
@[simp] theorem setTag_part (s : State) (w : Nat) (v : Tag) : (setTag s w v).part = s.part := rfl
@[simp] theorem setTag_regs (s : State) (w : Nat) (v : Tag) : (setTag s w v).regs = s.regs := rfl
@[simp] theorem setTag_fnRegs (s : State) (w : Nat) (v : Tag) : (setTag s w v).fnRegs = s.fnRegs := rfl
@[simp] theorem setTag_queues (s : State) (w : Nat) (v : Tag) : (setTag s w v).queues = s.queues := rfl
@[simp] theorem setTag_fns (s : State) (w : Nat) (v : Tag) : (setTag s w v).fns = s.fns := rfl
@[simp] theorem setTag_syncs (s : State) (w : Nat) (v : Tag) : (setTag s w v).syncs = s.syncs := rfl
@[simp] theorem setTag_ctxs (s : State) (w : Nat) (v : Tag) : (setTag s w v).ctxs = s.ctxs := rfl
@[simp] theorem setTag_plans (s : State) (w : Nat) (v : Tag) : (setTag s w v).plans = s.plans := rfl
@[simp] theorem setTag_runs (s : State) (w : Nat) (v : Tag) : (setTag s w v).runs = s.runs := rfl
@[simp] theorem setTag_lanes (s : State) (w : Nat) (v : Tag) : (setTag s w v).lanes = s.lanes := rfl
@[simp] theorem setTag_frames (s : State) (w : Nat) (v : Tag) : (setTag s w v).frames = s.frames := rfl
@[simp] theorem setTag_mem (s : State) (w : Nat) (v : Tag) : (setTag s w v).mem = s.mem := rfl
@[simp] theorem setTag_memErr (s : State) (w : Nat) (v : Tag) : (setTag s w v).memErr = s.memErr := rfl
@[simp] theorem setTag_hostMem (s : State) (w : Nat) (v : Tag) : (setTag s w v).hostMem = s.hostMem := rfl
@[simp] theorem setTag_sliceMem (s : State) (w : Nat) (v : Tag) : (setTag s w v).sliceMem = s.sliceMem := rfl
@[simp] theorem setTag_peat (s : State) (w : Nat) (v : Tag) : (setTag s w v).peat = s.peat := rfl
@[simp] theorem setTag_flash (s : State) (w : Nat) (v : Tag) : (setTag s w v).flash = s.flash := rfl
@[simp] theorem setTag_tw (s : State) (w : Nat) (v : Tag) : (setTag s w v).tw = s.tw := rfl
@[simp] theorem setTag_board (s : State) (w : Nat) (v : Tag) : (setTag s w v).board = s.board := rfl
@[simp] theorem setTag_pcie (s : State) (w : Nat) (v : Tag) : (setTag s w v).pcie = s.pcie := rfl
@[simp] theorem setTag_rng (s : State) (w : Nat) (v : Tag) : (setTag s w v).rng = s.rng := rfl
@[simp] theorem setTag_enclave (s : State) (w : Nat) (v : Tag) : (setTag s w v).enclave = s.enclave := rfl
@[simp] theorem setTag_unfixedDev (s : State) (w : Nat) (v : Tag) : (setTag s w v).unfixedDev = s.unfixedDev := rfl
@[simp] theorem setTag_unfixedHost (s : State) (w : Nat) (v : Tag) : (setTag s w v).unfixedHost = s.unfixedHost := rfl
@[simp] theorem setTag_paces (s : State) (w : Nat) (v : Tag) : (setTag s w v).paces = s.paces := rfl
@[simp] theorem setTag_localMem (s : State) (w : Nat) (v : Tag) : (setTag s w v).localMem = s.localMem := rfl
@[simp] theorem setTag_stale (s : State) (w : Nat) (v : Tag) : (setTag s w v).stale = s.stale := rfl

/-! ### setHold -/

@[simp] theorem setHold_pending (s : State) (f n : Nat) (b : BitVec 512) : (setHold s f n b).pending = s.pending := rfl
@[simp] theorem setHold_part (s : State) (f n : Nat) (b : BitVec 512) : (setHold s f n b).part = s.part := rfl
@[simp] theorem setHold_regs (s : State) (f n : Nat) (b : BitVec 512) : (setHold s f n b).regs = s.regs := rfl
@[simp] theorem setHold_fnRegs (s : State) (f n : Nat) (b : BitVec 512) : (setHold s f n b).fnRegs = s.fnRegs := rfl
@[simp] theorem setHold_queues (s : State) (f n : Nat) (b : BitVec 512) : (setHold s f n b).queues = s.queues := rfl
@[simp] theorem setHold_fns (s : State) (f n : Nat) (b : BitVec 512) : (setHold s f n b).fns = s.fns := rfl
@[simp] theorem setHold_syncs (s : State) (f n : Nat) (b : BitVec 512) : (setHold s f n b).syncs = s.syncs := rfl
@[simp] theorem setHold_ctxs (s : State) (f n : Nat) (b : BitVec 512) : (setHold s f n b).ctxs = s.ctxs := rfl
@[simp] theorem setHold_plans (s : State) (f n : Nat) (b : BitVec 512) : (setHold s f n b).plans = s.plans := rfl
@[simp] theorem setHold_runs (s : State) (f n : Nat) (b : BitVec 512) : (setHold s f n b).runs = s.runs := rfl
@[simp] theorem setHold_lanes (s : State) (f n : Nat) (b : BitVec 512) : (setHold s f n b).lanes = s.lanes := rfl
@[simp] theorem setHold_frames (s : State) (f n : Nat) (b : BitVec 512) : (setHold s f n b).frames = s.frames := rfl
@[simp] theorem setHold_mem (s : State) (f n : Nat) (b : BitVec 512) : (setHold s f n b).mem = s.mem := rfl
@[simp] theorem setHold_memErr (s : State) (f n : Nat) (b : BitVec 512) : (setHold s f n b).memErr = s.memErr := rfl
@[simp] theorem setHold_memMeta (s : State) (f n : Nat) (b : BitVec 512) : (setHold s f n b).memMeta = s.memMeta := rfl
@[simp] theorem setHold_hostMem (s : State) (f n : Nat) (b : BitVec 512) : (setHold s f n b).hostMem = s.hostMem := rfl
@[simp] theorem setHold_sliceMem (s : State) (f n : Nat) (b : BitVec 512) : (setHold s f n b).sliceMem = s.sliceMem := rfl
@[simp] theorem setHold_peat (s : State) (f n : Nat) (b : BitVec 512) : (setHold s f n b).peat = s.peat := rfl
@[simp] theorem setHold_flash (s : State) (f n : Nat) (b : BitVec 512) : (setHold s f n b).flash = s.flash := rfl
@[simp] theorem setHold_tw (s : State) (f n : Nat) (b : BitVec 512) : (setHold s f n b).tw = s.tw := rfl
@[simp] theorem setHold_board (s : State) (f n : Nat) (b : BitVec 512) : (setHold s f n b).board = s.board := rfl
@[simp] theorem setHold_pcie (s : State) (f n : Nat) (b : BitVec 512) : (setHold s f n b).pcie = s.pcie := rfl
@[simp] theorem setHold_enclave (s : State) (f n : Nat) (b : BitVec 512) : (setHold s f n b).enclave = s.enclave := rfl
@[simp] theorem setHold_unfixedDev (s : State) (f n : Nat) (b : BitVec 512) : (setHold s f n b).unfixedDev = s.unfixedDev := rfl
@[simp] theorem setHold_unfixedHost (s : State) (f n : Nat) (b : BitVec 512) : (setHold s f n b).unfixedHost = s.unfixedHost := rfl
@[simp] theorem setHold_paces (s : State) (f n : Nat) (b : BitVec 512) : (setHold s f n b).paces = s.paces := rfl
@[simp] theorem setHold_localMem (s : State) (f n : Nat) (b : BitVec 512) : (setHold s f n b).localMem = s.localMem := rfl
@[simp] theorem setHold_stale (s : State) (f n : Nat) (b : BitVec 512) : (setHold s f n b).stale = s.stale := rfl

/-! ### answer -/

@[simp] theorem answer_pending (s : State) (b : List Byte) : (answer s b).pending = s.pending := rfl
@[simp] theorem answer_part (s : State) (b : List Byte) : (answer s b).part = s.part := rfl
@[simp] theorem answer_regs (s : State) (b : List Byte) : (answer s b).regs = s.regs := rfl
@[simp] theorem answer_fnRegs (s : State) (b : List Byte) : (answer s b).fnRegs = s.fnRegs := rfl
@[simp] theorem answer_queues (s : State) (b : List Byte) : (answer s b).queues = s.queues := rfl
@[simp] theorem answer_fns (s : State) (b : List Byte) : (answer s b).fns = s.fns := rfl
@[simp] theorem answer_syncs (s : State) (b : List Byte) : (answer s b).syncs = s.syncs := rfl
@[simp] theorem answer_ctxs (s : State) (b : List Byte) : (answer s b).ctxs = s.ctxs := rfl
@[simp] theorem answer_plans (s : State) (b : List Byte) : (answer s b).plans = s.plans := rfl
@[simp] theorem answer_runs (s : State) (b : List Byte) : (answer s b).runs = s.runs := rfl
@[simp] theorem answer_lanes (s : State) (b : List Byte) : (answer s b).lanes = s.lanes := rfl
@[simp] theorem answer_frames (s : State) (b : List Byte) : (answer s b).frames = s.frames := rfl
@[simp] theorem answer_mem (s : State) (b : List Byte) : (answer s b).mem = s.mem := rfl
@[simp] theorem answer_memErr (s : State) (b : List Byte) : (answer s b).memErr = s.memErr := rfl
@[simp] theorem answer_memMeta (s : State) (b : List Byte) : (answer s b).memMeta = s.memMeta := rfl
@[simp] theorem answer_hostMem (s : State) (b : List Byte) : (answer s b).hostMem = s.hostMem := rfl
@[simp] theorem answer_sliceMem (s : State) (b : List Byte) : (answer s b).sliceMem = s.sliceMem := rfl
@[simp] theorem answer_peat (s : State) (b : List Byte) : (answer s b).peat = s.peat := rfl
@[simp] theorem answer_flash (s : State) (b : List Byte) : (answer s b).flash = s.flash := rfl
@[simp] theorem answer_tw (s : State) (b : List Byte) : (answer s b).tw = s.tw := rfl
@[simp] theorem answer_board (s : State) (b : List Byte) : (answer s b).board = s.board := rfl
@[simp] theorem answer_pcie (s : State) (b : List Byte) : (answer s b).pcie = s.pcie := rfl
@[simp] theorem answer_rng (s : State) (b : List Byte) : (answer s b).rng = s.rng := rfl
@[simp] theorem answer_enclave (s : State) (b : List Byte) : (answer s b).enclave = s.enclave := rfl
@[simp] theorem answer_unfixedDev (s : State) (b : List Byte) : (answer s b).unfixedDev = s.unfixedDev := rfl
@[simp] theorem answer_unfixedHost (s : State) (b : List Byte) : (answer s b).unfixedHost = s.unfixedHost := rfl
@[simp] theorem answer_paces (s : State) (b : List Byte) : (answer s b).paces = s.paces := rfl
@[simp] theorem answer_localMem (s : State) (b : List Byte) : (answer s b).localMem = s.localMem := rfl
@[simp] theorem answer_stale (s : State) (b : List Byte) : (answer s b).stale = s.stale := rfl

/-! ### setPace and fixDev -/

@[simp] theorem setPace_pending (s : State) (k a : Nat) : (setPace s k a).pending = s.pending := rfl
@[simp] theorem setPace_regs (s : State) (k a : Nat) : (setPace s k a).regs = s.regs := rfl
@[simp] theorem setPace_queues (s : State) (k a : Nat) : (setPace s k a).queues = s.queues := rfl
@[simp] theorem setPace_runs (s : State) (k a : Nat) : (setPace s k a).runs = s.runs := rfl
@[simp] theorem setPace_lanes (s : State) (k a : Nat) : (setPace s k a).lanes = s.lanes := rfl
@[simp] theorem setPace_mem (s : State) (k a : Nat) : (setPace s k a).mem = s.mem := rfl
@[simp] theorem setPace_hostMem (s : State) (k a : Nat) : (setPace s k a).hostMem = s.hostMem := rfl
@[simp] theorem setPace_localMem (s : State) (k a : Nat) : (setPace s k a).localMem = s.localMem := rfl
@[simp] theorem setPace_unfixedDev (s : State) (k a : Nat) : (setPace s k a).unfixedDev = s.unfixedDev := rfl
@[simp] theorem setPace_unfixedHost (s : State) (k a : Nat) : (setPace s k a).unfixedHost = s.unfixedHost := rfl
@[simp] theorem setPace_paces (s : State) (k a : Nat) : (setPace s k a).paces = tset (fun _ => 0) s.paces k a := rfl
@[simp] theorem fixDev_pending (s : State) (a n : Nat) : (fixDev s a n).pending = s.pending := rfl
@[simp] theorem fixDev_regs (s : State) (a n : Nat) : (fixDev s a n).regs = s.regs := rfl
@[simp] theorem fixDev_queues (s : State) (a n : Nat) : (fixDev s a n).queues = s.queues := rfl
@[simp] theorem fixDev_runs (s : State) (a n : Nat) : (fixDev s a n).runs = s.runs := rfl
@[simp] theorem fixDev_lanes (s : State) (a n : Nat) : (fixDev s a n).lanes = s.lanes := rfl
@[simp] theorem fixDev_mem (s : State) (a n : Nat) : (fixDev s a n).mem = s.mem := rfl
@[simp] theorem fixDev_memMeta (s : State) (a n : Nat) : (fixDev s a n).memMeta = s.memMeta := rfl
@[simp] theorem fixDev_memErr (s : State) (a n : Nat) : (fixDev s a n).memErr = s.memErr := rfl
@[simp] theorem fixDev_hostMem (s : State) (a n : Nat) : (fixDev s a n).hostMem = s.hostMem := rfl
@[simp] theorem fixDev_unfixedHost (s : State) (a n : Nat) : (fixDev s a n).unfixedHost = s.unfixedHost := rfl
@[simp] theorem fixDev_unfixedDev (s : State) (a n : Nat) : (fixDev s a n).unfixedDev = cutOut s.unfixedDev a (a + n) := rfl

end Sys2Proof.Machine
end

