-- ==== Sys2Proof/Laws/Tables.lean ====
section
/-! SUPPORT. Laws of the tables and memories: reading after writing, and the canonical form. -/

namespace Sys2Proof.Machine

theorem tget_tdel {α : Type} (d : Nat → α) (t : Table α) (k j : Nat) :
    tget d (tdel t k) j = if j = k then d j else tget d t j := by
  induction t with
  | nil => simp [tdel, tget]
  | cons e r ih =>
    obtain ⟨a, v⟩ := e
    simp only [tdel, List.filter_cons] at ih ⊢
    by_cases h : a = k
    · subst h
      simp only [bne_self_eq_false, Bool.false_eq_true, if_false, tget]
      rw [ih]
      split_ifs <;> simp_all
    · have h' : (a != k) = true := by simpa using h
      simp only [h', if_true, tget]
      rw [ih]
      split_ifs <;> simp_all

theorem tget_tput {α : Type} (d : Nat → α) (t : Table α) (k j : Nat) (v : α) :
    tget d (tput t k v) j = if j = k then v else tget d t j := by
  induction t with
  | nil => simp [tput, tget, eq_comm]
  | cons e r ih =>
    obtain ⟨a, w⟩ := e
    simp only [tput]
    split_ifs with h1 h2 h3 h4 h5
    · subst h2; simp [tget]
    · simp [tget, Ne.symm h2]
    · subst h4; simp [tget]
    · subst h3; simp [tget, Ne.symm h4]
    · subst h5; simp [tget, h3, ih]
    · simp [tget, ih, h5]

/-- What a key reads as after any key is written. -/
theorem tget_tset {α : Type} [DecidableEq α] (d : Nat → α) (t : Table α) (k j : Nat) (v : α) :
    tget d (tset d t k v) j = if j = k then v else tget d t j := by
  simp only [tset]
  split_ifs <;> simp [tget_tdel, tget_tput, *]

@[simp] theorem tget_tset_same {α : Type} [DecidableEq α] (d : Nat → α) (t : Table α) (k : Nat) (v : α) :
    tget d (tset d t k v) k = v := by simp [tget_tset]

theorem tget_tset_ne {α : Type} [DecidableEq α] (d : Nat → α) (t : Table α) {k j : Nat} (v : α) (h : j ≠ k) :
    tget d (tset d t k v) j = tget d t j := by simp [tget_tset, h]

/-- The canonical form as a statement about all entries. -/
theorem tableWf_iff {α : Type} [DecidableEq α] (d : Nat → α) (t : Table α) :
    tableWf d t = true ↔ (t.Pairwise (fun a b => a.1 < b.1) ∧ ∀ e ∈ t, e.2 ≠ d e.1) := by
  induction t with
  | nil => simp [tableWf]
  | cons e r ih =>
    obtain ⟨k, v⟩ := e
    cases r with
    | nil => simp [tableWf]
    | cons e' r' =>
      obtain ⟨k', v'⟩ := e'
      simp only [tableWf, Bool.and_eq_true, decide_eq_true_eq, ih, List.pairwise_cons, List.mem_cons, forall_eq_or_imp]
      constructor
      · rintro ⟨⟨h1, h2⟩, ⟨h3, h4⟩, h5⟩
        exact ⟨⟨⟨h2, fun b hb => lt_trans h2 (h3 b hb)⟩, h3, h4⟩, h1, h5⟩
      · rintro ⟨⟨⟨h2, _⟩, h3, h4⟩, h1, h5⟩
        exact ⟨⟨h1, h2⟩, ⟨h3, h4⟩, h5⟩

theorem mem_tput {α : Type} (t : Table α) (k : Nat) (v : α) (e : Nat × α) (h : e ∈ tput t k v) : e = (k, v) ∨ e ∈ t := by
  induction t with
  | nil => simpa [tput] using h
  | cons a r ih =>
    obtain ⟨k', v'⟩ := a
    simp only [tput] at h
    split_ifs at h
    · simpa using h
    · rcases List.mem_cons.mp h with h | h
      · exact .inl h
      · exact .inr (List.mem_cons_of_mem _ h)
    · rcases List.mem_cons.mp h with h | h
      · exact .inr (by simp [h])
      · rcases ih h with h | h
        · exact .inl h
        · exact .inr (List.mem_cons_of_mem _ h)

theorem pairwise_tput {α : Type} (t : Table α) (k : Nat) (v : α) (h : t.Pairwise (fun a b => a.1 < b.1)) :
    (tput t k v).Pairwise (fun a b => a.1 < b.1) := by
  induction t with
  | nil => simp [tput]
  | cons a r ih =>
    obtain ⟨k', v'⟩ := a
    obtain ⟨h1, h2⟩ := List.pairwise_cons.mp h
    simp only [tput]
    split_ifs with h3 h4
    · refine List.pairwise_cons.mpr ⟨fun b hb => ?_, h⟩
      rcases List.mem_cons.mp hb with rfl | hb
      · exact h3
      · exact lt_trans h3 (h1 b hb)
    · subst h4
      exact List.pairwise_cons.mpr ⟨h1, h2⟩
    · refine List.pairwise_cons.mpr ⟨fun b hb => ?_, ih h2⟩
      rcases mem_tput r k v b hb with rfl | hb
      · exact by simp only; omega
      · exact h1 b hb

/-- Writing keeps the canonical form. -/
theorem tableWf_tset {α : Type} [DecidableEq α] (d : Nat → α) (t : Table α) (k : Nat) (v : α) (h : tableWf d t = true) :
    tableWf d (tset d t k v) = true := by
  rw [tableWf_iff] at h ⊢
  obtain ⟨h1, h2⟩ := h
  have h3 : (tdel t k).Pairwise (fun a b => a.1 < b.1) := h1.filter _
  have h4 : ∀ e ∈ tdel t k, e.2 ≠ d e.1 := fun e he => h2 e (List.mem_of_mem_filter he)
  simp only [tset]
  split_ifs with hv
  · exact ⟨h3, h4⟩
  · refine ⟨pairwise_tput _ _ _ h3, fun e he => ?_⟩
    rcases mem_tput _ _ _ _ he with rfl | he
    · exact hv
    · exact h4 e he

/-- Taking entries out keeps it. -/
theorem tableWf_filter {α : Type} [DecidableEq α] (d : Nat → α) (t : Table α) (f : Nat × α → Bool) (h : tableWf d t = true) :
    tableWf d (t.filter f) = true := by
  rw [tableWf_iff] at h ⊢
  exact ⟨h.1.filter _, fun e he => h.2 e (List.mem_of_mem_filter he)⟩

theorem tableWf_tdel {α : Type} [DecidableEq α] (d : Nat → α) (t : Table α) (k : Nat) (h : tableWf d t = true) :
    tableWf d (tdel t k) = true := tableWf_filter d t _ h

/-- Every write of bytes keeps the canonical form of a memory. -/
theorem memWf_writeCells (m : List Host.Cell) (a : Nat) (b : List Byte) (h : memWf m = true) : memWf (writeCells m a b) = true := by
  induction b generalizing m a with
  | nil => exact h
  | cons x r ih => exact ih _ _ (tableWf_tset memDefault m a x h)

theorem memWf_filter (m : List Host.Cell) (f : Host.Cell → Bool) (h : memWf m = true) : memWf (m.filter f) = true :=
  tableWf_filter memDefault m f h

/-- A byte of memory after a write of bytes. -/
theorem tget_writeCells (m : List Host.Cell) (a : Nat) (b : List Byte) (j : Nat) :
    tget memDefault (writeCells m a b) j = if a ≤ j ∧ j < a + b.length then b.getD (j - a) 0 else tget memDefault m j := by
  induction b generalizing m a with
  | nil =>
    rw [if_neg (by simp only [List.length_nil]; omega)]
    rfl
  | cons x r ih =>
    simp only [writeCells, ih, tget_tset, List.length_cons]
    by_cases h : j = a
    · subst h
      rw [if_neg (by omega), if_pos rfl, if_pos (by omega)]
      simp
    · by_cases h2 : a + 1 ≤ j ∧ j < a + 1 + r.length
      · rw [if_pos h2, if_pos (by omega)]
        obtain ⟨k, rfl⟩ : ∃ k, j = a + 1 + k := ⟨j - (a + 1), by omega⟩
        simp [show a + 1 + k - a = k + 1 by omega, show a + 1 + k - (a + 1) = k by omega]
      · rw [if_neg h2, if_neg h, if_neg (by omega)]

theorem readCells_length (m : List Host.Cell) (a n : Nat) : (readCells m a n).length = n := by
  induction n generalizing a with
  | zero => rfl
  | succ n ih => simp [readCells, ih]

theorem readCells_getD (m : List Host.Cell) (a n i : Nat) (h : i < n) : (readCells m a n).getD i 0 = tget memDefault m (a + i) := by
  induction n generalizing a i with
  | zero => omega
  | succ n ih =>
    cases i with
    | zero => simp [readCells]
    | succ i =>
      simp only [readCells, List.getD_cons_succ]
      rw [ih (a + 1) i (by omega)]
      congr 1
      omega

/-- Bytes read back where they were written. -/
theorem readCells_writeCells (m : List Host.Cell) (a : Nat) (b : List Byte) : readCells (writeCells m a b) a b.length = b := by
  apply List.ext_getElem?
  intro i
  by_cases h : i < b.length
  · have h1 := readCells_getD (writeCells m a b) a b.length i h
    rw [tget_writeCells, if_pos (by omega)] at h1
    have h2 : i < (readCells (writeCells m a b) a b.length).length := by rw [readCells_length]; exact h
    rw [List.getD_eq_getElem?_getD, List.getElem?_eq_getElem h2] at h1
    rw [List.getElem?_eq_getElem h2, List.getElem?_eq_getElem h]
    simp only [Option.getD_some, Nat.add_sub_cancel_left, List.getD_eq_getElem?_getD, List.getElem?_eq_getElem h] at h1
    rw [h1]
  · rw [List.getElem?_eq_none (by rw [readCells_length]; omega), List.getElem?_eq_none (by omega)]

/-- The memories of the reset state have the canonical form. -/
theorem memWf_reset : memWf State.reset.mem = true ∧ memWf State.reset.hostMem = true ∧ memWf State.reset.sliceMem = true
    ∧ memWf State.reset.winMem = true := ⟨rfl, rfl, rfl, rfl⟩

/-- An entry of a table whose keys are present or absent. -/
theorem find_tput {α : Type} (t : Table α) (k j : Nat) (v : α) :
    (tput t k v).find? (fun e => e.1 == j) = if j = k then some (k, v) else t.find? (fun e => e.1 == j) := by
  induction t with
  | nil =>
    by_cases h : j = k
    · subst h; simp [tput]
    · simp [tput, h, Ne.symm h]
  | cons a r ih =>
    obtain ⟨k', v'⟩ := a
    simp only [tput]
    by_cases h1 : j = k
    · subst h1
      rw [if_pos rfl] at ih ⊢
      split_ifs with h2 h3
      · simp
      · simp
      · rw [List.find?_cons_of_neg (by simpa using h3), ih]
    · rw [if_neg h1] at ih ⊢
      have h4 : (k == j) = false := by simpa using Ne.symm h1
      split_ifs with h2 h3
      · rw [List.find?_cons_of_neg (by simpa using Ne.symm h1)]
      · subst h3
        simp [h4]
      · simp only [List.find?_cons, ih]

theorem find_tdel {α : Type} (t : Table α) (k j : Nat) :
    (tdel t k).find? (fun e => e.1 == j) = if j = k then none else t.find? (fun e => e.1 == j) := by
  induction t with
  | nil => simp [tdel]
  | cons a r ih =>
    obtain ⟨k', v'⟩ := a
    simp only [tdel, List.filter_cons] at ih ⊢
    by_cases h : k' = k
    · subst h
      simp only [bne_self_eq_false, Bool.false_eq_true, if_false, ih, List.find?_cons]
      by_cases h2 : j = k' <;> simp_all
      have : (k' == j) = false := by simpa using fun h => h2 h.symm
      simp [this]
    · have h' : (k' != k) = true := by simpa using h
      simp only [h', if_true, List.find?_cons, ih]
      by_cases h2 : j = k
      · subst h2
        have : (k' == j) = false := by simpa using h
        simp [this]
      · simp [h2]

end Sys2Proof.Machine
end

