-- ==== Sys2Proof/Laws/Accessors.lean ====
section
/-! SUPPORT. What the accessors read after the updates of their own tables. -/

namespace Sys2Proof.Machine

@[simp] theorem queueOf_setQueue (s : State) (q p : Nat) (v : Queue) : queueOf (setQueue s q v) p = if p = q then v else queueOf s p :=
  tget_tset _ _ _ _ _
@[simp] theorem fnOf_setFn (s : State) (f g : Nat) (v : FnCfg) : fnOf (setFn s f v) g = if g = f then v else fnOf s g := tget_tset _ _ _ _ _
@[simp] theorem syncOf_setSync (s : State) (o p : Nat) (v : SyncObj) : syncOf (setSync s o v) p = if p = o then v else syncOf s p :=
  tget_tset _ _ _ _ _
@[simp] theorem ctxOf_setCtx (s : State) (c d : Nat) (v : Ctx) : ctxOf (setCtx s c v) d = if d = c then v else ctxOf s d := by
  obtain ⟨_, _, _, h⟩ := setCtx_frame s c v
  rw [h]
  exact tget_tset _ _ _ _ _
@[simp] theorem sealOf_setSeal (s : State) (f g : Nat) (v : Seal) : sealOf (setSeal s f v) g = if g = f then v else sealOf s g :=
  tget_tset _ _ _ _ _
@[simp] theorem marchOf_setMarch (s : State) (n m : Nat) (v : March) : marchOf (setMarch s n v) m = if m = n then v else marchOf s m :=
  tget_tset _ _ _ _ _
@[simp] theorem uploadOf_setUpload (s : State) (f g : Nat) (v : Upload) : uploadOf (setUpload s f v) g = if g = f then v else uploadOf s g :=
  tget_tset _ _ _ _ _
@[simp] theorem laneOf_setLane (s : State) (k j : Nat) (v : Lane) : laneOf (setLane s k v) j = if j = k then v else laneOf s j :=
  tget_tset _ _ _ _ _
@[simp] theorem errOf_setErr (s : State) (w v : Nat) (e : Upset) : errOf (setErr s w e) v = if v = w then e else errOf s v := tget_tset _ _ _ _ _
@[simp] theorem mapOf_setMap (s : State) (c d : EngineClass) (l k : Nat) (m : EngineMap) :
    mapOf (setMap s c l m) d k = if engineKey d k = engineKey c l then m else mapOf s d k := tget_tset _ _ _ _ _

@[simp] theorem runOf_setRun (s : State) (q p : Nat) (r : Run) : runOf (setRun s q r) p = if p = q then some r else runOf s p := by
  unfold runOf setRun
  rw [find_tput]
  split <;> rfl
@[simp] theorem runOf_delRun (s : State) (q p : Nat) : runOf (delRun s q) p = if p = q then none else runOf s p := by
  unfold runOf delRun
  rw [find_tdel]
  split <;> rfl
@[simp] theorem planOf_setPlan (s : State) (n m : Nat) (p : Plan) : planOf (setPlan s n p) m = if m = n then some p else planOf s m := by
  unfold planOf setPlan
  rw [find_tput]
  split <;> rfl
@[simp] theorem planOf_delPlan (s : State) (n m : Nat) : planOf (delPlan s n) m = if m = n then none else planOf s m := by
  unfold planOf delPlan
  rw [find_tdel]
  split <;> rfl
@[simp] theorem frameOf_setFrame (s : State) (k j : Nat) (f : Frame) : frameOf (setFrame s k f) j = if j = k then some f else frameOf s j := by
  unfold frameOf setFrame
  rw [find_tput]
  split <;> rfl
@[simp] theorem frameOf_delFrame (s : State) (k j : Nat) : frameOf (delFrame s k) j = if j = k then none else frameOf s j := by
  unfold frameOf delFrame
  rw [find_tdel]
  split <;> rfl

end Sys2Proof.Machine
end

