-- ==== Sys2Proof/Laws/Only.lean ====
section
/-! SUPPORT. All that each shared operation can change, said once: the operations over registers, over the error and event flags,
over the records and the lifetime store, and over device memory; and what completing a command changes. -/

namespace Sys2Proof.Machine

/-! ### Registers -/

/-- t differs from s in register values at most. -/
def OnlyRegs (s t : State) : Prop := ∃ r f, t = { s with regs := r, fnRegs := f }

theorem OnlyRegs.refl (s : State) : OnlyRegs s s := ⟨_, _, rfl⟩
theorem OnlyRegs.trans {s t u : State} (h : OnlyRegs s t) (k : OnlyRegs t u) : OnlyRegs s u := by
  obtain ⟨_, _, rfl⟩ := h
  obtain ⟨_, _, rfl⟩ := k
  exact ⟨_, _, rfl⟩

theorem setReg_only (s : State) (fn a v : Nat) : OnlyRegs s (setReg s fn a v) := by
  unfold setReg
  split <;> exact ⟨_, _, rfl⟩
theorem setFld_only (s : State) (a lo len v : Nat) : OnlyRegs s (setFld s a lo len v) := setReg_only ..
theorem set64_only (s : State) (a v : Nat) : OnlyRegs s (set64 s a v) := (setReg_only ..).trans (setReg_only ..)
theorem add64_only (s : State) (a n : Nat) : OnlyRegs s (add64 s a n) := set64_only ..
theorem addSat_only (s : State) (a n : Nat) : OnlyRegs s (addSat s a n) := setReg_only ..
theorem addCount_only (s : State) (a n : Nat) : OnlyRegs s (addCount s a n) := setReg_only ..
theorem setErrInfo_only (s : State) (ch w pos : Nat) (ue scrub : Bool) (s0 : Byte) : OnlyRegs s (setErrInfo s ch w pos ue scrub s0) :=
  (setReg_only ..).trans (set64_only ..)

/-! ### Flags and the messages they cause -/

/-- t differs from s in register values and in what is sent, held or pending at the link. -/
def OnlyFlags (s t : State) : Prop := ∃ r f p, t = { s with regs := r, fnRegs := f, pcie := p }

theorem OnlyFlags.refl (s : State) : OnlyFlags s s := ⟨_, _, _, rfl⟩
theorem OnlyFlags.trans {s t u : State} (h : OnlyFlags s t) (k : OnlyFlags t u) : OnlyFlags s u := by
  obtain ⟨_, _, _, rfl⟩ := h
  obtain ⟨_, _, _, rfl⟩ := k
  exact ⟨_, _, _, rfl⟩
theorem OnlyRegs.flags {s t : State} (h : OnlyRegs s t) : OnlyFlags s t := by
  obtain ⟨_, _, rfl⟩ := h
  exact ⟨_, _, _, rfl⟩

theorem sendMsg_only (s : State) (m : Msg) : OnlyFlags s (sendMsg s m) := by
  unfold sendMsg
  split <;> exact ⟨_, _, _, rfl⟩
theorem raiseVector_only (s : State) (fn v : Nat) : OnlyFlags s (raiseVector s fn v) := by
  unfold raiseVector
  split
  · exact (addCount_only ..).flags
  · split
    · exact sendMsg_only ..
    · exact ⟨_, _, _, rfl⟩
theorem pageEdges_only (before s : State) (page : Nat) : OnlyFlags s (pageEdges before s page) := by
  unfold pageEdges
  have h : ∀ (l : List Nat) (t : State), OnlyFlags s t → OnlyFlags s (l.foldl (fun t fn =>
      if !pagePending before fn page && pagePending s fn page && irqEnabled s fn then raiseVector t fn (irqVector s fn) else t) t) := by
    intro l
    induction l with
    | nil => exact fun _ k => k
    | cons fn l ih =>
      intro t k
      refine ih _ ?_
      dsimp only
      split
      · exact k.trans (raiseVector_only ..)
      · exact k
  exact h _ s (.refl s)
theorem setHeader_only (s : State) (fn page off v : Nat) : OnlyFlags s (setHeader s fn page off v) :=
  (setReg_only ..).flags.trans (pageEdges_only ..)
theorem setErrStat_only (s : State) (page m : Nat) : OnlyFlags s (setErrStat s page m) := setHeader_only ..
theorem setEvent_only (s : State) (fn page m : Nat) : OnlyFlags s (setEvent s fn page m) := setHeader_only ..
theorem countCE_only (s : State) (page : Nat) : OnlyFlags s (countCE s page) := (addSat_only ..).flags.trans (setErrStat_only ..)
theorem countUE_only (s : State) (page : Nat) : OnlyFlags s (countUE s page) := (addSat_only ..).flags.trans (setErrStat_only ..)
theorem setHealth_only (s : State) (page v : Nat) : OnlyFlags s (setHealth s page v) := by
  unfold setHealth
  split
  · exact .refl s
  · exact (setReg_only ..).flags.trans (setErrStat_only ..)
theorem degrade_only (s : State) (page : Nat) : OnlyFlags s (degrade s page) := by
  unfold degrade
  split
  · exact .refl s
  · exact setHealth_only ..

/-! ### Records and device memory -/

/-- t differs from s in register values, messages, the records and stores that outlast a fault, device memory and the shared slices with
their errors, and the free values drawn; the counter of the twilight domain and the retired channels are the same. -/
def OnlyMemory (s t : State) : Prop :=
  ∃ r f p pe tw fl li lim m md er ij rw re fr ud d sm se ma,
    t = { s with regs := r, fnRegs := f, pcie := p, peat := pe, tw := tw, flash := fl, lifetime := li, limiter := lim, mem := m, memMeta := md,
                 memErr := er, injected := ij, rewritten := rw, rowErrors := re, faultyRows := fr, unfixedDev := ud, draws := d,
                 sliceMem := sm, sliceErr := se, marches := ma }
    ∧ tw.count = s.tw.count ∧ fl.retired = s.flash.retired

theorem OnlyMemory.refl (s : State) : OnlyMemory s s := ⟨_, _, _, _, _, _, _, _, _, _, _, _, _, _, _, _, _, _, _, _, rfl, rfl, rfl⟩
theorem OnlyMemory.trans {s t u : State} (h : OnlyMemory s t) (k : OnlyMemory t u) : OnlyMemory s u := by
  obtain ⟨_, _, _, _, _, _, _, _, _, _, _, _, _, _, _, _, _, _, _, _, rfl, h1, h2⟩ := h
  obtain ⟨_, _, _, _, _, _, _, _, _, _, _, _, _, _, _, _, _, _, _, _, rfl, k1, k2⟩ := k
  exact ⟨_, _, _, _, _, _, _, _, _, _, _, _, _, _, _, _, _, _, _, _, rfl, k1.trans h1, k2.trans h2⟩
theorem OnlyFlags.memory {s t : State} (h : OnlyFlags s t) : OnlyMemory s t := by
  obtain ⟨_, _, _, rfl⟩ := h
  exact ⟨_, _, _, _, _, _, _, _, _, _, _, _, _, _, _, _, _, _, _, _, rfl, rfl, rfl⟩
theorem OnlyRegs.memory {s t : State} (h : OnlyRegs s t) : OnlyMemory s t := h.flags.memory

theorem OnlyMemory.of {s t : State}
    (h : t =
      { s with
        regs := t.regs, fnRegs := t.fnRegs, pcie := t.pcie, peat := t.peat, tw := t.tw, flash := t.flash, lifetime := t.lifetime
        limiter := t.limiter, mem := t.mem, memMeta := t.memMeta, memErr := t.memErr, injected := t.injected, rewritten := t.rewritten
        rowErrors := t.rowErrors, faultyRows := t.faultyRows, unfixedDev := t.unfixedDev, draws := t.draws, sliceMem := t.sliceMem
        sliceErr := t.sliceErr, marches := t.marches })
    (h1 : t.tw.count = s.tw.count) (h2 : t.flash.retired = s.flash.retired) : OnlyMemory s t :=
  ⟨_, _, _, _, _, _, _, _, _, _, _, _, _, _, _, _, _, _, _, _, h, h1, h2⟩

/-- Neither the queue of commands, the front ends, the runs, the tiles nor host memory change with device memory. -/
theorem OnlyMemory.frame {s t : State} (h : OnlyMemory s t) :
    t.pending = s.pending ∧ t.part = s.part ∧ t.queues = s.queues ∧ t.syncs = s.syncs ∧ t.ctxs = s.ctxs ∧ t.plans = s.plans ∧ t.runs = s.runs
    ∧ t.lanes = s.lanes ∧ t.hostMem = s.hostMem ∧ t.unfixedHost = s.unfixedHost ∧ t.localMem = s.localMem ∧ t.us = s.us := by
  obtain ⟨_, _, _, _, _, _, _, _, _, _, _, _, _, _, _, _, _, _, _, _, rfl, _, _⟩ := h
  exact ⟨rfl, rfl, rfl, rfl, rfl, rfl, rfl, rfl, rfl, rfl, rfl, rfl⟩

theorem lastWord_only (s : State) (code : Nat) : OnlyMemory s (lastWord s code) :=
  .of rfl rfl rfl
theorem writeRecord_only (s : State) (r : LogRec) : OnlyMemory s (writeRecord s r) :=
  .of rfl rfl rfl
theorem logEvent_only (s : State) (block code fn : Nat) (payload : List Byte) : OnlyMemory s (logEvent s block code fn payload) := by
  unfold logEvent
  dsimp only
  generalize ((_ : Bool) && _) = c
  cases c
  · exact (writeRecord_only ..).trans (.of rfl rfl rfl)
  · exact .of rfl rfl rfl
theorem raiseReplace_only (s : State) (bit : Nat) : OnlyMemory s (raiseReplace s bit) := by
  unfold raiseReplace
  extract_lets s1 f1 t1 s2 s3
  have k1 : OnlyMemory s s1 := ((setFld_only ..).trans (setFld_only ..)).memory
  clear_value s1
  have k2 : OnlyMemory s s2 := k1.trans (.of rfl rfl rfl)
  clear_value s2
  split
  · exact .refl s
  · exact k2.trans ((logEvent_only ..).trans (lastWord_only ..))
theorem checkLifetime_only (s : State) : OnlyMemory s (checkLifetime s) := by
  unfold checkLifetime
  dsimp only
  split
  · exact .refl s
  · exact (setReg_only ..).memory.trans (raiseReplace_only ..)
theorem addLife_only (s : State) (i n : Nat) : OnlyMemory s (addLife s i n) := .trans (.of rfl rfl rfl) (checkLifetime_only _)

theorem setErr_only (s : State) (w : Nat) (e : Upset) : OnlyMemory s (setErr s w e) := .of rfl rfl rfl
theorem setTag_only (s : State) (w : Nat) (t : Tag) : OnlyMemory s (setTag s w t) := .of rfl rfl rfl
theorem pokeDev_only (s : State) (a : Nat) (b : List Byte) : OnlyMemory s (pokeDev s a b) := .of rfl rfl rfl
theorem fixDev_only (s : State) (a n : Nat) : OnlyMemory s (fixDev s a n) := .of rfl rfl rfl
theorem putWord_only (s : State) (w : Nat) (d : List Byte) (p : Bool) : OnlyMemory s (putWord s w d p) :=
  (pokeDev_only ..).trans ((setTag_only ..).trans (setErr_only ..))
theorem settleWord_only (s : State) (w : Nat) (fix : Option (Nat × Byte)) : OnlyMemory s (settleWord s w fix) :=
  (pokeDev_only ..).trans ((setTag_only ..).trans (setErr_only ..))
theorem poisonWord_only (s : State) (w : Nat) : OnlyMemory s (poisonWord s w) := (putWord_only ..).trans (fixDev_only ..)
theorem redraw_only (s : State) (r : List (Nat × Nat)) (a : Nat) (b : List Byte) : OnlyMemory s (redraw s r a b).2 := by
  unfold redraw
  split
  · exact .of rfl rfl rfl
  · exact .refl s
theorem markRowFaulty_only (s : State) (k : Nat) : OnlyMemory s (markRowFaulty s k) := by
  unfold markRowFaulty
  split
  · exact .refl s
  · exact .of rfl rfl rfl

theorem onCorrected_only (s : State) (w pos : Nat) (s0 : Byte) (scrub : Bool) : OnlyMemory s (onCorrected s w pos s0 scrub) := by
  unfold onCorrected
  extract_lets ch injected again s1 s2 s3 s4 s5 k ws ws' s6
  have h1 : OnlyMemory s s1 := settleWord_only ..
  clear_value s1
  have h2 : OnlyMemory s s2 := h1.trans (.of rfl rfl rfl)
  clear_value s2
  have h3 : OnlyMemory s s3 := h2.trans ((setErrInfo_only ..).memory.trans (countCE_only ..).memory)
  have h5 : OnlyMemory s s5 := h3.trans ((addLife_only ..).trans (logEvent_only ..))
  clear_value s5
  have h6 : OnlyMemory s s6 := h5.trans (.of rfl rfl rfl)
  split
  · exact h5
  · split
    · exact h6.trans (markRowFaulty_only ..)
    · exact h6

theorem onUncorrectable_only (s : State) (w : Nat) (s0 : Byte) (scrub : Bool) : OnlyMemory s (onUncorrectable s w s0 scrub) := by
  unfold onUncorrectable
  extract_lets ch injected again s1 s2 s3 s4
  have h1 : OnlyMemory s s1 := poisonWord_only ..
  clear_value s1
  have h2 : OnlyMemory s s2 := h1.trans (.of rfl rfl rfl)
  clear_value s2
  have h4 : OnlyMemory s s4 := h2.trans ((setErrInfo_only ..).memory.trans ((countUE_only ..).memory.trans (logEvent_only ..)))
  split
  · exact h4.trans (markRowFaulty_only ..)
  · exact h4

theorem visitWord_only (s : State) (w : Nat) (scrub : Bool) : OnlyMemory s (visitWord s w scrub).2 := by
  have drop : ∀ t : State, ∀ rw, OnlyMemory t { t with rewritten := rw } := fun t rw => .of rfl rfl rfl
  have tail : ∀ t : State, OnlyMemory s t → OnlyMemory s (
      (if poisonBit (metaOf t w) then (none, addSat t (reg (channelPage (wordPlace t w).1) 0x58) 1)
       else match sealKey t (w * 32) (versionBits (metaOf t w)) with
        | some k => (some (readUnder t w k), t)
        | none => (none, onUncorrectable t w 0 scrub)) : Option (List Byte) × State).2 := by
    intro t k
    split
    · exact k.trans (addSat_only ..).memory
    · split
      · exact k
      · exact k.trans (onUncorrectable_only ..)
  unfold visitWord
  dsimp only
  generalize checkWord s w = r
  cases r with
  | clean =>
    refine tail _ ?_
    refine .trans ?_ (drop _ _)
    split
    · exact .refl s
    · exact settleWord_only ..
  | corrected p s0 => exact tail _ ((onCorrected_only ..).trans (drop _ _))
  | uncorrectable s0 => exact onUncorrectable_only ..

theorem unparkEast_only (s : State) : OnlyMemory s (unparkEast s) := by
  unfold unparkEast
  split
  · exact (setFld_only ..).memory
  · split
    · exact .of rfl rfl rfl
    · exact .refl s
theorem wakeEast_only (s : State) : OnlyMemory s (wakeEast s) := by
  unfold wakeEast
  split
  · exact .refl s
  · exact (unparkEast_only s).trans (.of rfl rfl rfl)
theorem reachWord_only (s : State) (w : Nat) : OnlyMemory s (reachWord s w) := by
  unfold reachWord
  split
  · exact .refl s
  · exact wakeEast_only s
theorem readWord_only (s : State) (w : Nat) : OnlyMemory s (readWord s w).2 := by
  unfold readWord
  extract_lets s1
  have h1 : OnlyMemory s s1 := reachWord_only s w
  clear_value s1
  have h := h1.trans ((add64_only s1 (reg (channelPage (wordPlace s1 w).1) 0x60) 32).memory.trans (visitWord_only _ w false))
  generalize visitWord (add64 s1 (reg (channelPage (wordPlace s1 w).1) 0x60) 32) w false = x at h ⊢
  obtain ⟨d | d, u⟩ := x
  · exact h
  · exact h.trans (redraw_only ..)
theorem readWords_only (s : State) (w n : Nat) : OnlyMemory s (readWords s w n).2.2 := by
  induction n generalizing s w with
  | zero => exact .refl s
  | succ n ih =>
    unfold readWords
    have h := readWord_only s w
    generalize readWord s w = x at h
    obtain ⟨d | d, u⟩ := x <;> exact h.trans (ih u (w + 1))
theorem holeAccess_only (s : State) (a fn : Nat) : OnlyMemory s (holeAccess s a fn) := logEvent_only ..
theorem readBelow_only (s : State) (a n : Nat) : OnlyMemory s (readBelow s a n).2.2 := by
  unfold readBelow
  split
  · exact .refl s
  · exact readWords_only ..

theorem storeWord_only (s : State) (w : Nat) (d : List Byte) : OnlyMemory s (storeWord s w d) := by
  unfold storeWord
  extract_lets s1 s2 a v s3
  have h1 : OnlyMemory s s1 := putWord_only ..
  clear_value s1
  have h2 : OnlyMemory s s2 := h1.trans (.of rfl rfl rfl)
  clear_value s2
  split
  · have h3 : OnlyMemory s s3 := h2.trans ((setReg_only ..).memory.trans (setErr_only ..))
    clear_value s3
    exact h3.trans (.of rfl rfl rfl)
  · exact h2
theorem writeWord_only (s : State) (w o : Nat) (d : List Byte) : OnlyMemory s (writeWord s w o d) := by
  unfold writeWord
  extract_lets s1 s2
  have h2 : OnlyMemory s s2 := (reachWord_only s w).trans (add64_only ..).memory
  clear_value s2
  split
  · exact h2.trans ((storeWord_only ..).trans (fixDev_only ..))
  · split
    · exact h2
    · have h := visitWord_only s2 w false
      generalize visitWord s2 w false = x at h ⊢
      obtain ⟨_ | d', u⟩ := x
      · exact h2.trans h
      · exact h2.trans (h.trans ((storeWord_only ..).trans (fixDev_only ..)))
theorem writeChunks_only (s : State) (a : Nat) (b : List Byte) (k : Nat) : OnlyMemory s (writeChunks s a b k) := by
  induction k generalizing s a b with
  | zero => exact .refl s
  | succ k ih =>
    unfold writeChunks
    split
    · exact .refl s
    · exact (writeWord_only ..).trans (ih ..)

/-! ### Shared slices -/

theorem setSliceErr_only (s : State) (n w : Nat) (u : Upset) : OnlyMemory s (setSliceErr s n w u) := .of rfl rfl rfl
theorem pokeSlice_only (s : State) (n o : Nat) (b : List Byte) : OnlyMemory s (pokeSlice s n o b) := .of rfl rfl rfl
theorem setMarch_only (s : State) (n : Nat) (m : March) : OnlyMemory s (setMarch s n m) := .of rfl rfl rfl
theorem readSlice_only (s : State) (n w : Nat) (back march : Bool) : OnlyMemory s (readSlice s n w back march).2 := by
  unfold readSlice
  dsimp only
  split
  · exact .refl s
  · have h : ∀ p, OnlyMemory s (countCE (setSliceInfo s n w p false march) (slicePage n)) :=
      fun p => (setReg_only ..).memory.trans (countCE_only ..).memory
    split
    · exact (h _).trans ((pokeSlice_only ..).trans (setSliceErr_only ..))
    · exact h _
  · exact (setReg_only ..).memory.trans (countUE_only ..).memory
theorem writeSlice_only (s : State) (n o : Nat) (b : List Byte) : OnlyMemory s (writeSlice s n o b) := by
  unfold writeSlice
  dsimp only
  split
  · exact (pokeSlice_only ..).trans (setSliceErr_only ..)
  · exact (readSlice_only ..).trans (pokeSlice_only ..)
theorem preempt_only (s : State) (n : Nat) : OnlyMemory s (preempt s n) :=
  (setMarch_only ..).trans ((setFld_only ..).memory.trans (addSat_only ..).memory)

/-- A fold of steps, each of which keeps to what `OnlyMemory` allows of the state it carries. -/
theorem foldl_keeps {α β : Type} (g : β → State) {f : β → α → β} (hf : ∀ x a, OnlyMemory (g x) (g (f x a))) (l : List α) (x : β) :
    OnlyMemory (g x) (g (l.foldl f x)) := by
  induction l generalizing x with
  | nil => exact .refl _
  | cons a l ih => exact (hf x a).trans (ih (f x a))

theorem strikeSlice_only (s : State) (n : Nat) (p : PortAccess) : OnlyMemory s (strikeSlice s n p) := by
  cases p
  · exact setSliceErr_only ..
  · exact .refl s
theorem portRead_only (s : State) (n : Nat) (taken : Nat → Bool) (p : PortAccess) : OnlyMemory s (portRead s n taken p).2.2 := by
  cases p with
  | write o b => exact .refl s
  | read o len u =>
    unfold portRead
    dsimp only
    have h := readSlice_only s n (o % sliceBytes / 32) (!taken (o % sliceBytes / 32)) false
    generalize readSlice s n (o % sliceBytes / 32) (!taken (o % sliceBytes / 32)) false = x at h ⊢
    obtain ⟨_ | d, u⟩ := x <;> exact h
theorem portWrite_only (s : State) (n : Nat) (p : PortAccess) : OnlyMemory s (portWrite s n p) := by
  cases p
  · exact .refl s
  · exact writeSlice_only ..
theorem serve_only (s : State) (n : Nat) (ports : List PortAccess) : OnlyMemory s (serve s n ports).2.2 := by
  unfold serve
  extract_lets s1 m s2 s3 writes taken
  have h1 : OnlyMemory s s1 := by
    unfold s1
    split
    · exact wakeEast_only s
    · exact .refl s
  have h2 : OnlyMemory s s2 := by
    unfold s2
    split
    · exact h1.trans (preempt_only ..)
    · exact h1
  have h3 : OnlyMemory s s3 := h2.trans (foldl_keeps id (fun x p => strikeSlice_only x n p) ports s2)
  have h4 := h3.trans (foldl_keeps (β := List Byte × List Nat × State) (f := fun acc p =>
    let (b, bad, s) := portRead acc.2.2 n taken p
    (acc.1 ++ b, acc.2.1 ++ bad, s)) (fun x => x.2.2) (fun x p => portRead_only x.2.2 n taken p) ports ([], [], s3))
  generalize List.foldl _ _ ports = x at h4 ⊢
  obtain ⟨b, bad, s4⟩ := x
  have h5 : OnlyMemory s (writes.foldl (fun s p => portWrite s n p) s4) := h4.trans (foldl_keeps id (fun x p => portWrite_only x n p) writes s4)
  dsimp only
  generalize List.foldl _ s4 writes = u at h5 ⊢
  clear_value taken writes
  split
  · split
    · exact h5.trans (add64_only ..).memory
    · exact h5
  · exact h5
theorem readSlices_only (s : State) (o n k : Nat) : OnlyMemory s (readSlices s o n k).2.2 := by
  induction k generalizing s o n with
  | zero => exact .refl s
  | succ k ih =>
    unfold readSlices
    dsimp only
    split
    · exact .refl s
    · exact (serve_only s (o / sliceBytes) [.read (o % sliceBytes) (min n (32 - o % 32)) 0]).trans (ih _ _ _)
theorem writeSlices_only (s : State) (o : Nat) (b : List Byte) (k : Nat) : OnlyMemory s (writeSlices s o b k) := by
  induction k generalizing s o b with
  | zero => exact .refl s
  | succ k ih =>
    unfold writeSlices
    split
    · exact .refl s
    · exact (serve_only ..).trans (ih ..)

/-! ### Accesses by device address -/

theorem readAbove_only (s : State) (fn a n : Nat) : OnlyMemory s (readAbove s fn a n).2.2 := by
  unfold readAbove
  split
  · exact readSlices_only ..
  · exact holeAccess_only ..
theorem readDev_only (s : State) (fn a n : Nat) : OnlyMemory s (readDev s fn a n).2.2 := by
  unfold readDev
  dsimp only
  split
  · exact readBelow_only ..
  · exact (readBelow_only ..).trans (readAbove_only ..)
theorem writeAbove_only (s : State) (fn a : Nat) (b : List Byte) : OnlyMemory s (writeAbove s fn a b) := by
  unfold writeAbove
  split
  · exact writeSlices_only ..
  · exact holeAccess_only ..
theorem writeDev_only (s : State) (fn a : Nat) (b : List Byte) : OnlyMemory s (writeDev s fn a b) := by
  unfold writeDev
  dsimp only
  split
  · exact writeChunks_only ..
  · exact (writeChunks_only ..).trans (writeAbove_only ..)
theorem poisonSpan_only (s : State) (a n : Nat) : OnlyMemory s (poisonSpan s a n) := by
  unfold poisonSpan
  split
  · exact .refl s
  · exact foldl_keeps id (fun s i => poisonWord_only s (a / 32 + i)) _ s

/-- A read of a relocated span. -/
theorem readSpan_only (s : State) (fn : Nat) (p : Span) (off n : Nat) : OnlyMemory s (readSpan s fn p off n).2.2 := by
  unfold readSpan
  split
  · exact redraw_only ..
  · exact readDev_only ..

/-- A write of a relocated span changes host memory for a host buffer, and no host memory for a device buffer. -/
theorem writeSpan_only (s : State) (fn : Nat) (p : Span) (off : Nat) (b : List Byte) :
    if p.host then writeSpan s fn p off b = writeHost s (p.addr + off) b else OnlyMemory s (writeSpan s fn p off b) := by
  unfold writeSpan
  cases p.host
  · exact writeDev_only ..
  · rfl

/-! ### Completing a command -/

theorem countCmd_only (s : State) (q : Nat) : OnlyRegs s (countCmd s q) := add64_only ..

/-- All that completing the active command changes: its queue. -/
theorem finishTo_only (s : State) (q : Nat) (o : Outcome3) (dest : Option (Nat × Span)) : ∃ qs, finishTo s q o dest = { s with queues := qs } := by
  unfold finishTo
  split
  · exact ⟨_, rfl⟩
  · exact ⟨s.queues, rfl⟩
theorem finish_only (s : State) (q : Nat) (o : Outcome3) : ∃ qs, finish s q o = { s with queues := qs } := finishTo_only ..

end Sys2Proof.Machine
end

