-- ==== Sys2Proof/Laws/Regs.lean ====
section
/-! SUPPORT. What the named operations on registers and bit fields do: a field written reads back, the other fields, registers and
every other part of the state stay. -/

namespace Sys2Proof.Machine

/-! ### Bit fields -/

theorem bits_lt (v lo len : Nat) : bits v lo len < 2 ^ len := Nat.mod_lt _ (Nat.two_pow_pos len)

/-- A number in three parts: above, in and below a field. -/
theorem split_bits (v lo len : Nat) : v = 2 ^ (lo + len) * (v / 2 ^ (lo + len)) + 2 ^ lo * bits v lo len + v % 2 ^ lo := by
  have h1 := Nat.div_add_mod v (2 ^ lo)
  have h2 := Nat.div_add_mod (v / 2 ^ lo) (2 ^ len)
  rw [Nat.div_div_eq_div_mul, ← pow_add] at h2
  unfold bits
  rw [pow_add, mul_assoc, ← mul_add, ← pow_add, h2, h1]

/-- The same with a new field. -/
theorem putBits_split (v lo len f : Nat) :
    putBits v lo len f = 2 ^ (lo + len) * (v / 2 ^ (lo + len)) + 2 ^ lo * (f % 2 ^ len) + v % 2 ^ lo := by
  have h := split_bits v lo len
  unfold putBits
  omega

theorem bits_putBits_same (v lo len f : Nat) : bits (putBits v lo len f) lo len = f % 2 ^ len := by
  rw [putBits_split, pow_add, mul_assoc, ← mul_add]
  unfold bits
  rw [Nat.mul_add_div (Nat.two_pow_pos lo), Nat.div_eq_of_lt (Nat.mod_lt _ (Nat.two_pow_pos lo)), Nat.add_zero, Nat.mul_add_mod,
    Nat.mod_mod]

/-- A field wholly above or below the one written stays. -/
theorem bits_putBits_other (v lo len f lo' len' : Nat) (h : lo' + len' ≤ lo ∨ lo + len ≤ lo') :
    bits (putBits v lo len f) lo' len' = bits v lo' len' := by
  rcases h with h | h
  · obtain ⟨k, rfl⟩ := Nat.exists_eq_add_of_le h
    have e : ∀ x y : Nat, bits (2 ^ (lo' + len' + k) * x + y) lo' len' = bits y lo' len' := by
      intro x y
      unfold bits
      have : 2 ^ (lo' + len' + k) * x = 2 ^ lo' * (2 ^ len' * (2 ^ k * x)) := by ring
      rw [this, Nat.mul_add_div (Nat.two_pow_pos lo'), Nat.mul_add_mod]
    have e1 : putBits v (lo' + len' + k) len f
        = 2 ^ (lo' + len' + k) * (2 ^ len * (v / 2 ^ (lo' + len' + k + len)) + f % 2 ^ len) + v % 2 ^ (lo' + len' + k) := by
      rw [putBits_split]; ring
    rw [e1, e]
    conv_rhs => rw [← Nat.div_add_mod v (2 ^ (lo' + len' + k)), e]
  · obtain ⟨k, rfl⟩ := Nat.exists_eq_add_of_le h
    have e : putBits v lo len f / 2 ^ (lo + len) = v / 2 ^ (lo + len) := by
      have h1 : f % 2 ^ len + 1 ≤ 2 ^ len := Nat.mod_lt _ (Nat.two_pow_pos len)
      have h2 : v % 2 ^ lo < 2 ^ lo := Nat.mod_lt _ (Nat.two_pow_pos lo)
      have h3 : 2 ^ lo * (f % 2 ^ len + 1) ≤ 2 ^ lo * 2 ^ len := Nat.mul_le_mul_left _ h1
      have h4 : (2 ^ lo * (f % 2 ^ len) + v % 2 ^ lo) / 2 ^ (lo + len) = 0 := by
        apply Nat.div_eq_of_lt
        rw [pow_add]
        rw [mul_add] at h3
        omega
      rw [putBits_split, add_assoc, Nat.mul_add_div (Nat.two_pow_pos _), h4, Nat.add_zero]
    unfold bits
    rw [pow_add (n := k), ← Nat.div_div_eq_div_mul, ← Nat.div_div_eq_div_mul, e]

theorem putBits_lt (v lo len f n : Nat) (hv : v < 2 ^ n) (h : lo + len ≤ n) : putBits v lo len f < 2 ^ n := by
  obtain ⟨k, rfl⟩ := Nat.exists_eq_add_of_le h
  rw [putBits_split]
  have h1 : v / 2 ^ (lo + len) + 1 ≤ 2 ^ k := by
    rw [Nat.succ_le_iff, Nat.div_lt_iff_lt_mul (Nat.two_pow_pos _), ← pow_add, Nat.add_comm k]
    exact hv
  have h2 : f % 2 ^ len + 1 ≤ 2 ^ len := Nat.mod_lt _ (Nat.two_pow_pos len)
  have h3 : v % 2 ^ lo < 2 ^ lo := Nat.mod_lt _ (Nat.two_pow_pos lo)
  have h4 : 2 ^ (lo + len) * (v / 2 ^ (lo + len) + 1) ≤ 2 ^ (lo + len) * 2 ^ k := Nat.mul_le_mul_left _ h1
  have h5 : 2 ^ lo * (f % 2 ^ len + 1) ≤ 2 ^ lo * 2 ^ len := Nat.mul_le_mul_left _ h2
  rw [pow_add (n := k)]
  rw [mul_add] at h4 h5
  rw [pow_add] at h4 ⊢
  omega

/-! ### One register -/

theorem getReg_lt (s : State) (fn a : Nat) : getReg s fn a < 2 ^ 32 := by
  unfold getReg
  split <;> exact BitVec.isLt _

/-- A common register is stored once for all functions. -/
theorem getReg_setReg {s : State} {fn fn' a b v : Nat} (h : isPerFn a = false) :
    getReg (setReg s fn a v) fn' b = if b = a then v % 2 ^ 32 else getReg s fn' b := by
  unfold getReg setReg
  rw [h]
  by_cases hb : b = a
  · subst hb
    simp [h]
  · simp only [hb, if_false, Bool.false_eq_true]
    split
    · rfl
    · rw [tget_tset_ne _ _ _ hb]

/-- A register of which every function has its own. -/
theorem getReg_setReg_fn {s : State} {fn fn' a b v : Nat} (h : isPerFn a = true) (ha : a < 2 ^ 24) (hb : b < 2 ^ 24) :
    getReg (setReg s fn a v) fn' b = if fn' = fn ∧ b = a then v % 2 ^ 32 else getReg s fn' b := by
  unfold getReg setReg
  rw [h]
  by_cases hk : fn' = fn ∧ b = a
  · obtain ⟨rfl, rfl⟩ := hk
    simp [h]
  · simp only [hk, if_false, if_true]
    split
    · rw [tget_tset_ne]
      omega
    · rfl

/-! ### A field of a common register -/

theorem getReg_setFld_ne {s : State} {a b lo len v fn : Nat} (h : isPerFn a = false) (hb : b ≠ a) :
    getReg (setFld s a lo len v) fn b = getReg s fn b := by
  unfold setFld
  rw [getReg_setReg h, if_neg hb]

theorem getReg_setFld {s : State} {a lo len v : Nat} (h : isPerFn a = false) (hw : lo + len ≤ 32) :
    getReg (setFld s a lo len v) 0 a = putBits (getReg s 0 a) lo len v := by
  unfold setFld
  rw [getReg_setReg h, if_pos rfl, Nat.mod_eq_of_lt (putBits_lt _ _ _ _ _ (getReg_lt s 0 a) hw)]

theorem fld_setFld {s : State} {a lo len v : Nat} (h : isPerFn a = false) (hw : lo + len ≤ 32) :
    fld (setFld s a lo len v) a lo len = v % 2 ^ len := by
  unfold fld
  rw [getReg_setFld h hw, bits_putBits_same]

/-- Another field of the register written. -/
theorem fld_setFld_other {s : State} {a lo len v lo' len' : Nat} (h : isPerFn a = false) (hw : lo + len ≤ 32)
    (hd : lo' + len' ≤ lo ∨ lo + len ≤ lo') : fld (setFld s a lo len v) a lo' len' = fld s a lo' len' := by
  unfold fld
  rw [getReg_setFld h hw, bits_putBits_other _ _ _ _ _ _ hd]

/-- A field of another register. -/
theorem fld_setFld_ne {s : State} {a b lo len v lo' len' : Nat} (h : isPerFn a = false) (hb : b ≠ a) :
    fld (setFld s a lo len v) b lo' len' = fld s b lo' len' := by
  unfold fld
  rw [getReg_setFld_ne h hb]

theorem fld_setReg_ne {s : State} {fn a b v lo len : Nat} (h : isPerFn a = false) (hb : b ≠ a) :
    fld (setReg s fn a v) b lo len = fld s b lo len := by
  unfold fld
  rw [getReg_setReg h, if_neg hb]

/-! ### 64-bit counters -/

theorem get64_set64 {s : State} {a v : Nat} (h : isPerFn a = false) (h' : isPerFn (a + 4) = false) : get64 (set64 s a v) a = v % 2 ^ 64 := by
  unfold get64 set64
  rw [getReg_setReg h', if_neg (by omega), getReg_setReg h, if_pos rfl, getReg_setReg h', if_pos rfl]
  omega

theorem get64_add64 {s : State} {a n : Nat} (h : isPerFn a = false) (h' : isPerFn (a + 4) = false) :
    get64 (add64 s a n) a = (get64 s a + n) % 2 ^ 64 := get64_set64 h h'

end Sys2Proof.Machine
end

