-- ==== Sys2Proof/Laws/Rows.lean ====
section
/-! SUPPORT. One lemma for each way in which a row reaches its meaning: what it answers when its operands name an instance and the
command, stage, chain or page it concerns is there. -/

namespace Sys2Proof.Machine

theorem always_eq (s : State) (f : State → State) : always s f = .next (keep s (f s)) := rfl

theorem onQueue_eq {q : Nat} {s : State} {f : State → State} (h : q < 4096) : onQueue q s f = .next (keep s (f s)) := if_pos h
theorem onFn_eq {fn : Nat} {s : State} {f : State → State} (h : fn < 16) : onFn fn s f = .next (keep s (f s)) := if_pos h
theorem onEngine_eq {n c : Nat} {s : State} {f : State → State} (h : n < c) : onEngine n c s f = .next (keep s (f s)) := if_pos h
theorem onLane_eq {t l : Nat} {s : State} {f : State → State} (h : t < 96) (h' : l < 16) : onLane t l s f = .next (keep s (f s)) :=
  if_pos ⟨h, h'⟩
theorem onMemory_eq {n c : Nat} {s : State} {f : State → State} (h : n < c) : onMemory n c s f = .next (keep s (f s)) := if_pos h
theorem onIndex_eq {n c : Nat} {s : State} {f : State → State} (h : n < c) : onIndex n c s f = .next (keep s (f s)) := if_pos h

/-- A BAR0 write of a function while the device is READY. -/
theorem onBar0_eq {fn : Nat} {s : State} {f : State → State} (h : Answers s fn) : onBar0 fn s f = .next (keep s (f s)) := by
  obtain ⟨h1, h2, h3⟩ := h
  rw [onBar0, onFn_eq h1]
  simp only [h2, h3, Bool.not_true, Bool.false_eq_true, if_false, if_true]

/-- What keep leaves of a state that has not touched the queue, the part and the retired channels. -/
theorem keep_eq {s t : State} (h1 : t.pending = s.pending) (h2 : t.part = s.part) (h3 : t.flash.retired = s.flash.retired) : keep s t = t := by
  unfold keep
  rw [← h1, ← h2, ← h3]

@[simp] theorem keep_pending (s t : State) : (keep s t).pending = s.pending := rfl
@[simp] theorem keep_part (s t : State) : (keep s t).part = s.part := rfl
@[simp] theorem keep_retired (s t : State) : (keep s t).flash.retired = s.flash.retired := rfl

/-- The active command is served. -/
theorem onStarted_eq {s : State} {q : Nat} {inner : Bool} {c : Cmd} {want : Cmd → Bool} {f : Nat → Cmd → State → State}
    (h : activeCmd (queueOf s q) = some (inner, c)) (hp : c.phase = .started) (hw : want c = true) :
    onStarted q want f s = f (queueFn s q) c s := by
  unfold onStarted
  rw [h]
  exact if_pos ⟨hp, hw⟩

theorem isOp_eq {op : Nat} {c : Cmd} (h : Cmd.opcode c = op) : isOp op c = true := by simpa [isOp] using h

/-- A row of Table 11-2. -/
theorem onStarted_serving {s : State} {q op : Nat} {inner : Bool} {c : Cmd} {f : Nat → Cmd → State → State} (h : Serving s q op inner c) :
    onStarted q (isOp op) f s = f (queueFn s q) c s := onStarted_eq h.2.1 h.2.2.1 (isOp_eq h.2.2.2)

/-- An operation on a context, in a state that Table 11-10 lists for it. -/
theorem ctxOp_eq {s : State} {q o : Nat} {inner : Bool} {c : Cmd} {g : Nat} {f : Nat → Cmd → Nat → Ctx → State → State}
    (h : ServingContext s q o inner c g) : ctxOp q o f s = f (queueFn s q) c g (ctxOf s g) s := by
  obtain ⟨⟨_, h1, h2, h3⟩, h4, h5, h6⟩ := h
  unfold ctxOp
  rw [onStarted_eq h1 h2 (by unfold isCtxOp; rw [h3, h4]; simp), h5]
  exact if_pos h6

/-- A stage row where the run stands at the stage. -/
theorem stageOn_eq {s : State} {q kind : Nat} {inner : Bool} {c : Cmd} {r : Run} {f : Nat → Run → State → State}
    (h : Serving s q opRun inner c) (hr : atStage s q kind = some r) : stageOn q kind f s = f (queueFn s q) r s := by
  unfold stageOn
  rw [onStarted_serving h, hr]

/-- A tensor row whose descriptor reads well, is of the opcode and runs. -/
theorem tensorOn_eq {s u v : State} {q op : Nat} {corrected : List Nat} {inner : Bool} {cmd : Cmd} {r : Run} {ch : Chain} {b : List Byte} {next : Nat}
    {t : Tally} {f : TEnv → List TDesc → Nat → Nat → TDesc → Act Step'}
    (h : Serving s q opRun inner cmd) (hc : chainAt s q = some (r, ch)) (hb : (chainBytes (queueFn s q) ch).run s = (.ok b, u))
    (ho : TDesc.op (chainDesc ch b) = op)
    (hf : (f { q, fn := queueFn s q, spans := r.spans } (chainSoFar ch b) ch.len ch.next (chainDesc ch b)).run (countLocal u (chainDesc ch b) corrected)
      = (.ok (some (next, t)), v)) :
    tensorOn q op corrected f s = stepChain v q (queueFn s q) (chainDesc ch b) next t := by
  unfold tensorOn
  rw [onStarted_serving h, hc]
  dsimp only
  rw [hb]
  dsimp only
  rw [if_neg (not_not_intro ho), hf]

end Sys2Proof.Machine
end

