-- ==== Sys2Proof/Tests/Slice0.lean ====
section
/-! SUPPORT. Tests.  First the commands that are refused as ill-formed; then, for every statement with hypotheses, states and operands
that meet them (theorems witness_…); then small tests of single rules on values worked out by hand from the manual (theorems
test_…). -/

namespace Sys2Proof.Tests

open Sys2Proof Sys2Proof.Machine

set_option Elab.async false

/-! ### Ill-formed commands -/

theorem test_wf_queues : [Instr.nop 4096, .bindPlan 4096, .releasePlan 4096, .run 4096, .execBuffer 4096, .patch 4096, .copy 4096, .fill 4096,
    .create 4096, .makeResident 4096, .park 4096, .free 4096, .readState 4096, .writeState 4096, .query 4096, .randomFill 4096, .timestamp 4096,
    .syncClear 4096, .waitSatisfied 4096, .completionWrite 4096, .cqRoom 4096, .resourceGrant 4096, .prefetch 4096, .waitTimeout 4096,
    .queueTimeout 4096, .verifyReadFail 4096 0, .hostReadFail 4096 0, .sqFetchRetry 4096 true, .build 4096, .load 4096, .anneal 4096,
    .rescore 4096, .select 4096, .exportRecord 4096, .starfieldOffer 4096 0 none, .epochClose 4096 0, .gemm ⟨4096, []⟩, .gemvSpx ⟨4096, []⟩, .gather ⟨4096, []⟩,
    .scatter ⟨4096, []⟩, .segmentSum ⟨4096, []⟩, .elementwise ⟨4096, []⟩, .reduce ⟨4096, []⟩, .softmax ⟨4096, []⟩, .route ⟨4096, []⟩, .exitChain ⟨4096, []⟩, .join 4096,
    .seedDraw 4096].any Instr.wf = false := by decide

theorem test_wf_functions : [Instr.doorbellWrite 16 0 none none [], .enable 16, .disable 16, .reset 16, .resume 16, .feFnQueuesWrite 16 0,
    .feSyncValueHiWrite 16 0, .clearError 16, .ttClear 16 0 0, .lowWordRead 16 ⟨0, false⟩, .fetch 16, .rnData15Read 16, .mcInjectWrite 16 0 0,
    .mcSealEnable 16, .mcSealDisable 16, .rekey 16, .ppRequest 16 0, .glPowerLimitWrite 16 0, .parkRequest 16 .east false, .unpark 16,
    .twLwClear 16, .bar0BadAccess 16 0 4 true, .bar2Read 16 0 4 0, .bar2Write 16 0 [] false 0, .configRequest 16 (.read 0), .resizeBar 16 35,
    .msixUnmask 16 (.unmask 0), .atsInvalidate 16 0, .flr 16, .seSelftest 16, .commit 16 false, .generate 16, .uploadKeyReady 16 true, .discard 16, .go 16,
    .unwrapDone 16, .present 16 none, .getVersion (.doe 16), .getDigests (.doe 16), .getCertificate (.doe 16) 0 0 0, .challenge (.doe 16) 0,
    .getMeasurements (.doe 16) 1 0, .keyExchange (.doe 16), .finish (.doe 16) 1, .heartbeat (.doe 16) 1, .endSession (.doe 16) 1,
    .ideKm (.doe 16) 1 0 0, .plClearSurface 16, .plClearDeep 16, .plRselSeqWrite (.function 16) 0 false, .plLatchDone (.function 16),
    .constellationWrite 16 0 0 0, .constellationRead 16 0 0, .glIrqCtrlWrite 16 0, .registerWrite 16 0 ⟨0, none⟩].any Instr.wf = false := by decide

theorem test_wf_engines : [Instr.decision 96 ⟨0, 0⟩, .decision 0 ⟨16, 0⟩, .maskDelivery 96 0 false false, .maskDelivery 0 16 false false,
    .constraintTimeout 96 0, .constraintTimeout 0 16, .replay 96 0, .replay 0 16, .engineFault .anneal 96 0 0 0, .engineFault .tensor 24 0 0 0,
    .engineFault .constraint 48 0 0 0, .foldSwitch .anneal 96, .foldSwitch .constraint 48, .coreFailover 4].any Instr.wf = false := by decide

theorem test_wf_memories : [Instr.scrub 48 0, .rowRepairDone 48, .mcInjectWrite 0 48 0, .sealRewriteDone 17, .sliceAccess 128 none none,
    .marchWindow 128, .marchPreempt 128 (.read 0 4 0) false, .marchWindowDone 128 []].any Instr.wf = false := by decide

theorem test_wf_others : [Instr.commandStart 4, .frameWrite 0 4 0 [], .countedBarrier 4 0 0 0, .resend 4 0 0 0, .credit 4 0 0,
    .barrierDeadlineMiss 4 0 0, .loose 4 0 0, .endRun 4 0, .abort 4 0 0, .timeComparatorMatch 4, .analogComparator 4, .analogLevelClear 4,
    .constellationWrite 0 16 0 0, .constellationRead 0 16 0, .plRselSeqWrite (.management 2) 0 false, .plLatchDone (.management 2)].any Instr.wf
      = false := by decide

/-! ### Small states -/

/-- A command answers a next state. -/
def runs (r : Result) : Bool := match r with
  | .next _ => true
  | _ => false

/-- A check that passes has a value and a state. -/
theorem passed {ε α σ : Type} {x : Except ε α × σ} (h : x.1.toBool = true) : ∃ a u, x = (.ok a, u) := by
  obtain ⟨e | a, u⟩ := x
  · exact absurd h (by simp [Except.toBool])
  · exact ⟨a, u, rfl⟩

theorem stopped {ε α σ : Type} {x : Except ε α × σ} (h : x.1.toBool = false) : ∃ e u, x = (.error e, u) := by
  obtain ⟨e | a, u⟩ := x
  · exact ⟨e, u, rfl⟩
  · exact absurd h (by simp [Except.toBool])

/-- A read without bad words. -/
theorem readsWell {α β σ : Type} {x : α × List β × σ} (h : x.2.1.isEmpty = true) : ∃ b u, x = (b, [], u) := by
  obtain ⟨b, l, u⟩ := x
  cases l with
  | nil => exact ⟨b, u, rfl⟩
  | cons _ _ => exact absurd h (by simp)

/-- A device whose start has ended, with one GiB, eight queues and sixteen contexts for the physical function. -/
def up : State :=
  { setFld (setFld State.reset 0x40 0 4 8) 0x40 4 1 1 with
    fns := [(0, { qCount := 8, memLimit := 0x3FFFFFFF#64, htSize := 16, syncCount := 15, ctxCount := 16, planLimit := 8 })] }

/-- The bytes of a command: its opcode, and fields at their offsets. -/
def cmdBytes (op : Nat) (fields : List (Nat × List Byte)) : List Byte :=
  BitVec.ofNat 8 op :: (List.range 63).map (fun i =>
    ((fields.find? (fun e => decide (e.1 ≤ i + 1) && decide (i + 1 < e.1 + e.2.length))).map (fun e => e.2.getD (i + 1 - e.1) 0)).getD 0)

/-- A started command. -/
def started (op : Nat) (fields : List (Nat × List Byte)) (spans : List (Nat × Span)) : Cmd :=
  { bytes := cmdBytes op fields, spans, phase := .started }

/-- Queue 0 running with command c in progress. -/
def busy (s : State) (c : Cmd) : State := setQueue s 0 { state := .running, sqTail := 1, cur := some c }

def devSpan (a n : Nat) : Span := { addr := a, len := n, read := true, write := true }
def hostSpan (a n : Nat) : Span := { host := true, addr := a, len := n, read := true, write := true }

/-! ### The queue of commands and the channels -/

theorem witness_RestWaits : let s := { up with pending := [Instr.timerTrim, .nop 0] }; s.pending = .timerTrim :: [.nop 0] ∧ runs (step s) = true := by decide
theorem witness_WellFormedCompletes : (Instr.nop 4095).wf = true ∧ (Instr.nop 4096).wf = false := by decide
theorem witness_IdleStep : up.pending = [] := by decide

/-- Two channels of the West half and two of the East half are retired. -/
def lessFour : State := { up with flash := { up.flash with retired := [3, 30, 5, 41] } }

theorem witness_Inv : ChannelInv lessFour ∧ runs (step lessFour) = true := by unfold ChannelInv RetiredOk; decide +kernel
theorem witness_PlaceBijective : 0 < 48 ∧ 44 * 18 * 2 ^ 30 - 1 < 44 * 18 * 2 ^ 30 ∧ place 0 48 = place 0 48 ∧ place 0xFFFFFFFF 44 = place 0xFFFFFFFF 44 ∧ 47 < 48 := by decide

/-! ### Commands of a queue -/

def aNop : Cmd := started opNop [] []
def anInner : State := setQueue up 0 { queueOf (busy up (started opExecBuffer [] [])) 0 with buffer := some { addr := 0, count := 2, next := 1 }, innerCur := some aNop }

theorem witness_CommandCompletes : activeCmd (queueOf (busy up aNop) 0) = some (false, aNop) ∧ activeCmd (queueOf anInner 0) = some (true, aNop) := by decide +kernel
theorem witness_Nop : Serving (busy up aNop) 0 opNop false aNop ∧ Serving anInner 0 opNop true aNop := by decide +kernel

def aTime : Cmd := started opTimestamp [(0x20, toLE 4 1)] [(0x20, hostSpan 0x1000 8)]
theorem witness_Timestamp : Serving (busy up aTime) 0 opTimestamp false aTime := by decide +kernel
def aClear : Cmd := started opSyncClear [(0x20, toLE 2 3)] []
theorem witness_SyncClear : Serving (busy up aClear) 0 opSyncClear false aClear ∧ globalSync (busy up aClear) (queueFn (busy up aClear) 0) (Cmd.fld aClear 0x20 2) = some 3 := by
  decide +kernel
def aBuffer : Cmd := started opExecBuffer [(0x24, toLE 4 2)] [(0x20, devSpan 0x1000 128)]
theorem witness_ExecBuffer : Serving (busy up aBuffer) 0 opExecBuffer false aBuffer ∧ aBuffer.progress = 0 := by decide +kernel
def aPatch : Cmd := started opPatch [(0x24, [16])] [(0x20, devSpan 0x1000 128)]
def aFill : Cmd := started opFill [(0x28, toLE 8 64)] [(0x20, devSpan 0x1000 128)]
theorem witness_PatchFill : Serving (busy up aPatch) 0 opPatch false aPatch ∧ Serving (busy up aFill) 0 opFill false aFill := by decide +kernel
def aCopy : Cmd := started opCopy [(0x28, toLE 8 64)] [(0x20, devSpan 0x2000 64), (0x24, devSpan 0x1000 128)]
theorem witness_Copy : Serving (busy up aCopy) 0 opCopy false aCopy ∧ ∃ b u, readSpan (busy up aCopy) (queueFn (busy up aCopy) 0)
    (Cmd.span aCopy 0x20) (Cmd.fld aCopy 0x30 8) (Cmd.fld aCopy 0x28 8) = (b, [], u) :=
  ⟨by decide +kernel, readsWell (by decide +kernel)⟩

/-- A device whose words are all plain. -/
theorem plain_up : Plain up := fun w => by
  refine ⟨by unfold errOf; exact Eq.refl _, ?_⟩
  show (implicitTag up (w * 32)).md = 0
  unfold implicitTag
  split
  · decide
  · rfl

theorem witness_StoreFrame : Plain (busy up aPatch) ∧ runs (exec (.patch 0) (busy up aPatch)) = true ∧ runs (exec (.fill 0) (busy up aFill)) = true
    ∧ runs (exec (.copy 0) (busy up aCopy)) = true ∧ runs (exec (.timestamp 0) (busy up aTime)) = true :=
  ⟨plain_up, by decide +kernel⟩
theorem witness_DeviceBytes : 0x20 + 64 ≤ capacity up ∧ capacity up ≤ capacity up - 32 + 32 ∧ capacity up < capacity up - 31 + 32
    ∧ errOf up 1 = 0 ∧ metaOf up 1 = 0 := by decide +kernel

/-! ### Contexts -/

/-- Memory cells of fields at rising addresses. -/
def cells (base : Nat) (fields : List (Nat × List Byte)) : List Host.Cell :=
  fields.flatMap (fun f => (f.2.zipIdx.filter (fun e => e.1 != 0)).map (fun e => (base + f.1 + e.2, e.1)))

/-- Host memory holding at 0x1000 the sparse image of one variable with a linear term (Tables 2-3 and 2-5): N 1, N_P 64, E_MAX -15,
E_H -30, no entry, mantissa 2^30. -/
def imageFields : List (Nat × List Byte) :=
  [(0, [1]), (4, [64]), (8, [2]), (0xA, [0xF1]), (0xB, [0xE2]), (0x30, toLE 8 0x40000000), (1024, toLE 4 0x40000000)]
def imageUp : State := { up with hostMem := cells 0x1000 imageFields }

def ctxCmd (op : Nat) (spans : List (Nat × Span)) : Cmd := started opContext [(0x20, toLE 1 op), (0x24, toLE 4 3)] spans
def aCreate : Cmd := ctxCmd 0 [(0x28, hostSpan 0x1000 0x500), (0x30, devSpan 0x20000 512)]

theorem witness_Create : ServingContext (busy imageUp aCreate) 0 0 false aCreate 3
    ∧ ∃ e u, createChecks (busy imageUp aCreate) (queueFn (busy imageUp aCreate) 0) aCreate = (.ok e, u) :=
  ⟨by decide +kernel, passed (by decide +kernel)⟩

/-- Context 3 as CREATE leaves it, in a state. -/
def aCtx (st : CtxState) : Ctx :=
  { state := st, n := 1, np := 64, eMax := -15, eH := -30, width := 2, imageAddr := 0x1000, imageHost := true, imageBytes := 0x500, stateAddr := 0x20000
    tile := if st = .resident then 0 else 0xFFFF }
def inCtx (st : CtxState) (c : Cmd) : State := busy (setCtx imageUp 3 (aCtx st)) c

def aResident : Cmd := ctxCmd 1 []
theorem witness_MakeResident : ServingContext (inCtx .parked aResident) 0 1 false aResident 3
    ∧ ∃ t l f u, chooseFrame (inCtx .parked aResident) (widthMode 2) 0 0 false = some ((t, l, f), u) ∧ ∃ st v, fillFrame u (aCtx .parked) = (.ok st, v) := by
  refine ⟨by decide +kernel, _, _, _, _, Option.some_get (show (chooseFrame _ _ _ _ _).isSome = true by decide +kernel) |>.symm, passed (by decide +kernel)⟩

theorem witness_ParkFree : ServingContext (inCtx .resident (ctxCmd 2 [])) 0 2 false (ctxCmd 2 []) 3 ∧ ServingContext (inCtx .parked (ctxCmd 2 [])) 0 2 false (ctxCmd 2 []) 3
    ∧ ServingContext (inCtx .faulted (ctxCmd 3 [])) 0 3 false (ctxCmd 3 []) 3 ∧ ServingContext (inCtx .resident (ctxCmd 3 [])) 0 3 false (ctxCmd 3 []) 3 := by decide +kernel

def aRead : Cmd := ctxCmd 4 [(0x28, devSpan 0x30000 8)]
theorem witness_ReadState : ServingContext (inCtx .running aRead) 0 4 false aRead 3
    ∧ ∃ b u, readDev (inCtx .running aRead) (queueFn (inCtx .running aRead) 0) 0x20000 (stateBytes 2) = (b, [], u) :=
  ⟨by decide +kernel, readsWell (by decide +kernel)⟩
def aWrite : Cmd := ctxCmd 5 [(0x28, hostSpan 0x30000 8)]
theorem witness_WriteState : ServingContext (inCtx .faulted aWrite) 0 5 false aWrite 3
    ∧ ∃ b u, fetchSpan (inCtx .faulted aWrite) (queueFn (inCtx .faulted aWrite) 0) (Cmd.span aWrite 0x28) 0 (stateBytes 2) = (.ok b, u) :=
  ⟨by decide +kernel, passed (by decide +kernel)⟩
def aQuery : Cmd := ctxCmd 6 [(0x28, hostSpan 0x30000 128)]
theorem witness_Query : ServingContext (inCtx .free aQuery) 0 6 false aQuery 3 := by decide +kernel
theorem witness_WrongState : Serving (inCtx .running aResident) 0 opContext false aResident ∧ globalCtx (inCtx .running aResident) 0 3 = some 3
    ∧ ctxFrom 1 .running = false ∧ ctxFrom 1 .faulted = false := by decide +kernel

/-! ### Plans -/

/-- A plan of one problem: its stages LOAD, ANNEAL, SELECT and EXPORT; every buffer lies in the plan's scratch part. -/
def planFields : List (Nat × List Byte) :=
  [ (0, toLE 4 0x4E504C4E), (4, toLE 2 1), (8, toLE 8 0x480), (0x10, toLE 2 4), (0x12, toLE 2 1), (0x14, toLE 4 4), (0x18, toLE 8 0x100), (0x20, toLE 8 0x200)
  , (0x28, toLE 8 0x300), (0x30, toLE 8 0xE0), (0x38, toLE 8 0x400), (0x48, toLE 8 0x400), (0x58, toLE 8 0x4000), (0x60, toLE 4 4)
  , (0x100, [1]), (0x108, [1]), (0x120, [2]), (0x128, [1]), (0x140, [4]), (0x148, [1]), (0x160, [5]), (0x168, [1])
  , (0x202, toLE 2 1), (0x208, toLE 8 0x300), (0x218, toLE 8 0x340), (0x220, toLE 8 0x380), (0x24C, toLE 4 0xFFFFFFFF)
  , (0x300, toLE 4 1), (0x305, [2]), (0x310, toLE 4 1), (0x338, toLE 4 2)
  , (0x340, toLE 4 64), (0x344, toLE 2 1), (0x350, toLE 4 1)
  , (0x380, toLE 2 1), (0x382, [1]), (0x386, toLE 2 1), (0x388, toLE 4 3), (0x3A0, toLE 2 256), (0x3C4, toLE 4 1)
  , (0x400, [1, 3]), (0x408, toLE 8 0x2800), (0x410, toLE 8 12), (0x420, [1, 3]), (0x430, toLE 8 0x2000)
  , (0x440, [1, 3]), (0x448, toLE 8 0x2000), (0x450, toLE 8 320), (0x460, [1, 3]), (0x468, toLE 8 0x3000), (0x470, toLE 8 0x400) ]

def planUp : State := { up with hostMem := cells 0x10000 planFields }
def aBind : Cmd := started opBindPlan [] [(0x20, hostSpan 0x10000 0x480), (0x24, devSpan 0 0x4500), (0x28, hostSpan 0x30000 96)]

theorem witness_BindPlan : Serving (busy planUp aBind) 0 opBindPlan false aBind ∧ boundPlans (busy planUp aBind) 0 < (fnOf (busy planUp aBind) 0).planLimit
    ∧ (freeSlot (busy planUp aBind)).isSome = true ∧ fld (busy planUp aBind) (reg 3072 0x40) 7 1 = 0 ∧ queueFn (busy planUp aBind) 0 = 0 := by decide +kernel
theorem witness_BindPasses : ∃ d u, (bindSteps 0 aBind).run (busy planUp aBind) = (.ok d, u) := passed (by decide +kernel)

/-- The plan bound in slot 0, its copy at address 0. -/
def aPlan : Plan := { gen := 1, base := 0, imageBytes := 0x480, sum := 283701083919391#64 }
def bound : State := setPlan { up with mem := cells 0 planFields } 0 aPlan
def aRelease : Cmd := started opReleasePlan [(0x20, toLE 4 0x10000)] []
theorem witness_ReleasePlan : Serving (busy bound aRelease) 0 opReleasePlan false aRelease
    ∧ planById (busy bound aRelease) 0 (Cmd.fld aRelease 0x20 4) = some (0, aPlan) ∧ aPlan.running = none := by decide +kernel

def aRun : Cmd := started opRun [(0x20, toLE 4 0x10000), (0x28, toLE 8 7)] []
theorem witness_Run : Serving (busy bound aRun) 0 opRun false aRun ∧ runOf (busy bound aRun) 0 = none
    ∧ planById (busy bound aRun) 0 (Cmd.fld aRun 0x20 4) = some (0, aPlan) := by decide +kernel
theorem witness_RunPasses : let x := (runLists 0 aRun).run (busy bound aRun)
    let g := (readGroup 0 aRun).run x.2
    let y := (runSteps aRun.stale 0 aPlan aPlan.args [] 1).run g.2
    x.1.toOption = some ([], []) ∧ g.1.toOption = some none ∧ y.1.toBool = true ∧ sourceFailed y.2 = false := by decide +kernel

/-! ### Front ends -/

def queueUp (Q : Queue) : State := setQueue up 0 Q

theorem witness_Doorbell : isReady up = true ∧ globalQueue up 0 8 = none ∧ globalQueue up 0 7 = some 7 ∧ (queueOf up 7).state = .disabled
    ∧ globalQueue (busy up aNop) 0 0 = some 0 ∧ (queueOf (busy up aNop) 0).state ≠ .disabled ∧ globalQueue up 15 0 = none
    ∧ isReady State.reset = false := by decide +kernel

/-- A ring of queue 0 in host memory with a NOP at its first entry. -/
def ringUp : State := { queueUp { state := .running, sqBase := 0x5000, sqTail := 1 } with hostMem := [(0x5000, 1)] }
theorem witness_CommandStart : arbitrate ringUp 0 = some (0, { turn := 0, taken := 1 }) ∧ isReady ringUp = true ∧ (queueOf ringUp 0).buffer = none
    ∧ activeCmd (queueOf ringUp 0) = none ∧ (readEntry ringUp 0 (queueOf ringUp 0).sqHead).2.1 = none := by decide +kernel
def openBuffer : State := setQueue up 0 { queueOf (busy up aBuffer) 0 with buffer := some { addr := 0x1000, count := 2 } }
theorem witness_InnerStart : arbitrate openBuffer 0 = some (0, { turn := 0, taken := 1 }) ∧ (queueOf openBuffer 0).buffer = some { addr := 0x1000, count := 2 }
    ∧ activeCmd (queueOf openBuffer 0) = none ∧ (readInner openBuffer 0 (0x1000 + 64 * 0)).2.1 = none := by decide +kernel

def waitingCmd (op : Nat) : Cmd := { bytes := cmdBytes op [] }
theorem witness_Begin : activeCmd (queueOf (busy up (waitingCmd 1)) 0) = some (false, waitingCmd 1)
    ∧ (∃ d u, checkCommand (busy up (waitingCmd 1)) 0 { waitingCmd 1 with stale := staleFor (busy up (waitingCmd 1)) 0 } = (.ok d, u))
    ∧ (∃ o u, checkCommand (busy up (waitingCmd 13)) 0 { waitingCmd 13 with stale := staleFor (busy up (waitingCmd 13)) 0 } = (.error o, u)) :=
  ⟨by decide +kernel, passed (by decide +kernel), stopped (by decide +kernel)⟩
def innerOf (op : Nat) : State := setQueue openBuffer 0 { queueOf openBuffer 0 with innerCur := some (waitingCmd op) }
theorem witness_InnerBegin : activeCmd (queueOf (innerOf 5) 0) = some (true, waitingCmd 5) ∧ Cmd.opcode (waitingCmd 5) = opExecBuffer
    ∧ Cmd.opcode (waitingCmd 1) ≠ opExecBuffer ∧ Cmd.opcode (waitingCmd 13) ≠ opExecBuffer
    ∧ (let w := fun op => setQueue (innerOf op) 0 { queueOf (innerOf op) 0 with buffer := some { addr := 0x1000, count := 2, started := 1 } }
       (queueOf (innerOf 1) 0).buffer = some { addr := 0x1000, count := 2 } ∧ staleFor (w 1) 0 = []
       ∧ (checkCommand (w 1) 0 (waitingCmd 1)).1.toBool = true ∧ (checkCommand (w 13) 0 (waitingCmd 13)).1.toBool = false) := by decide +kernel

/-- A handle table at address 0 whose entry 1 grants a buffer that ends with the partition. -/
def tableUp : State := { up with mem := [(0x22, 0xF0), (0x23, 0x3F), (0x2A, 0x10), (0x30, 0x0D)] }
def lastFill : Cmd := { bytes := cmdBytes opFill [(0x20, toLE 4 1), (0x28, toLE 8 64)] }
theorem witness_RelocationSafe : lastFill.spans = [] ∧ (checkCommand tableUp 0 lastFill).1.toOption.map (fun d => d.spans) =
    some [(0x20, { host := false, addr := 0x3FF00000, len := 0x100000, read := true, write := true })] := by decide +kernel

/-- A command that waits for object 3 to reach 5; the object stands at v. -/
def waitCmd : Cmd := { bytes := cmdBytes 1 [(1, [4]), (2, toLE 2 3), (0x10, toLE 8 5)] }
def waitUp (v : U64) (err : Bool) (us : Nat) : State :=
  { setSync (queueUp { state := .running, sqTail := 1, cur := some waitCmd, waitTimeout := 100, timeout := 100 }) 3 { value := v, error := err } with us := us }
theorem witness_Wait : activeCmd (queueOf (waitUp 5 true 0) 0) = some (false, waitCmd) ∧ waitCmd.phase = .waiting ∧ waitHolds (waitUp 5 true 0) 0 waitCmd = true
    ∧ waitErrored (waitUp 5 true 0) 0 waitCmd = true ∧ waitErrored (waitUp 5 false 0) 0 waitCmd = false
    ∧ arbitrate (waitUp 5 true 0) 0 = some (0, { turn := 0, taken := 1 }) ∧ arbitrate (waitUp 5 false 0) 0 = some (0, { turn := 0, taken := 1 })
    ∧ arbitrate (waitUp 4 false 0) 0 = none ∧ earlierExpired (waitUp 4 false 98) 0 (0, 100) = false
    ∧ earlierExpired (setQueue (waitUp 4 false 98) 1 (queueOf (waitUp 4 false 98) 0)) 1 (0, 100) = true
    ∧ waitHolds (waitUp 4 false 98) 0 waitCmd = false ∧ expired (waitUp 4 false 98) 100 0 = true ∧ expired (waitUp 4 false 97) 100 0 = false := by decide +kernel
def heldCmd (op : Nat) (fields : List (Nat × List Byte)) (h : Hold) : Cmd := { started op fields [] with phase := .held h }
def heldPlan : Cmd := heldCmd opReleasePlan [(0x20, toLE 4 0x10000)] .plan
def heldCtx : Cmd := heldCmd opContext [(0x20, [2]), (0x24, toLE 4 3)] .context
theorem witness_Timeout : (queueOf { queueUp { state := .running, timeout := 50, sqTail := 1, cur := some aNop } with us := 49 } 0).cur = some aNop
    ∧ aNop.phase ≠ .waiting ∧ expired { queueUp { state := .running, timeout := 50, sqTail := 1, cur := some aNop } with us := 49 } 50 0 = true
    ∧ earlierExpired { queueUp { state := .running, timeout := 50, sqTail := 1, cur := some aNop } with us := 49 } 0 (0, 50) = false := by decide +kernel
theorem witness_Grant : activeCmd (queueOf (busy bound heldPlan) 0) = some (false, heldPlan) ∧ heldPlan.phase = .held .plan
    ∧ (planById (busy bound heldPlan) 0 (Cmd.fld heldPlan 0x20 4)).map (fun e => e.2.running) = some none
    ∧ activeCmd (queueOf (inCtx .parked heldCtx) 0) = some (false, heldCtx) ∧ heldCtx.phase = .held .context
    ∧ globalCtx (inCtx .parked heldCtx) 0 (Cmd.fld heldCtx 0x24 4) = some 3 ∧ (ctxOf (inCtx .parked heldCtx) 3).state ≠ .running := by decide +kernel

theorem witness_GuiltyQueue : (queueOf (busy up aNop) 0).cur.isSome = true ∧ (queueOf (busy up aNop) 0).sqHead ≠ (queueOf (busy up aNop) 0).sqTail := by decide +kernel

def aRecord (quiet : Bool) : OutRec := { tag := 9, out := { result := 3 }, quiet, signal := some (2, 8) }
def lastInner : OutRec := { tag := 9, out := {}, inner := true }
theorem witness_Records : let Q : Queue := { state := .running, log2Size := 6, out := [aRecord false, aRecord true] }
    (queueOf (queueUp Q) 0).out = aRecord false :: [aRecord true] ∧ Q.undelivered = [] ∧ Q.recordHeld = false ∧ (aRecord false).quiet = false
    ∧ Queue.records Q < Queue.size Q ∧ Queue.size Q ≤ Queue.records { Q with cqTail := 64 } ∧ Queue.records { Q with cqTail := 63 } < Queue.size Q
    ∧ Q.buffer = none ∧ (aRecord true).quiet = true ∧ (aRecord false).signal = some (2, 8) ∧ (aRecord false).signalled = false := by decide +kernel
theorem witness_LastInner : let Q : Queue := { state := .running, out := [lastInner], buffer := some { addr := 0, count := 2, next := 2 }, cur := some aBuffer }
    (queueOf (queueUp Q) 0).out = lastInner :: [] ∧ Q.recordHeld = false ∧ lastInner.quiet = false ∧ Queue.records Q < Queue.size Q
    ∧ Q.innerCur = none := by decide +kernel

theorem witness_QueueControl : Answers up 0 ∧ selectedQueue up 0 = some 0 ∧ (queueOf up 0).state = .disabled ∧ ((sealOf up 0).zeroing && (sealOf up 0).byFlr) = false
    ∧ enableChecks up 0 (queueOf up 0) = true ∧ enableChecks up 0 { sqDev := true, sqBase := 0x40000000 } = false
    ∧ enableChecks up 0 { sqDev := true, sqBase := 0x3FFFF000 } = true ∧ enableChecks up 0 { sqDev := true, sqBase := 0x3FFFF040 } = false
    ∧ selectedQueue (busy up aNop) 0 = some 0 ∧ (queueOf (busy up aNop) 0).state ≠ .disabled ∧ Queue.idle (queueOf (busy up aNop) 0) = false
    ∧ Queue.idle (queueOf (queueUp { state := .stopped }) 0) = true ∧ (queueOf (queueUp { state := .stopped }) 0).state = .stopped
    ∧ fnQuiet up (selectedFn up) = true ∧ blockFits up (selectedFn up) 0 1024 = true ∧ blockFits up (selectedFn up) 4095 1 = true
    ∧ blockFits up (selectedFn up) 4095 2 = false ∧ runs (exec (.feFnQueuesWrite 0 0x400000) up) = true := by decide +kernel
theorem witness_Apart : ∀ f < 16, ∀ g < 16, f ≠ g → (fnOf up f).qCount = 0 ∨ (fnOf up g).qCount = 0 := by decide +kernel

theorem witness_Sync : Answers up 0 ∧ selectedSync up 0 = some 0 := by decide +kernel

/-- Three commands wait in a ring that wraps: counters 0x3F to 0x41 of 64 slots. -/
def wrapped : State := queueUp { state := .running, sqHead := 0x3F, sqTail := 0x42, cur := some aNop, sqBase := 0x5000 }
theorem witness_Prefetch : (queueOf wrapped 0).state = .running ∧ (queueOf wrapped 0).cur = some aNop ∧ (queueOf wrapped 0).sqDev = false
    ∧ 1 + 1 < Queue.waiting (queueOf wrapped 0) := by decide +kernel

/-- A run of the bound plan in queue 0, with stages, at stage `done`. -/
def aStages : List Stage := [{ kind := 1, mask := 1, chainOff := 0, chainLen := 0 }, { kind := 2, mask := 1, chainOff := 0, chainLen := 0 },
  { kind := 4, mask := 1, chainOff := 0, chainLen := 0 }, { kind := 5, mask := 1, chainOff := 0, chainLen := 0 }]
def theRun (done : Nat) (probs : List Prob) : Run :=
  { slot := 0, stages := aStages, done, seed := some 7, problems := probs, spans := [hostSpan 0x9000 64], result := hostSpan 0x9000 0x400 }
def running (r : Run) : State := setRun (busy bound aRun) 0 r

/-- A RUN, not yet begun, whose argument list lies in host memory. -/
def hostRun : Cmd := started opRun [(0x20, toLE 4 0x10000), (0x28, toLE 8 7), (0x36, [1])] [(0x24, hostSpan 0x40000 8)]
theorem witness_HostFailures : (queueOf (running (theRun 1 [])) 0).out = [] ∧ (runWrites (running (theRun 1 [])) 0).any (fun p => spanHolds p 0x9000) = true
    ∧ (let Q : Queue := { state := .running, cqBase := 0x6000, out := [{ aRecord false with hostDest := some (2, hostSpan 0x7000 8) }] }
       inRecordSlot Q 0x601F = true ∧ inRecordSlot Q 0x6020 = false ∧ isError (aRecord false).out = false ∧ beingWritten Q (aRecord false) = true
       ∧ spanHolds (hostSpan 0x7000 8) 0x7007 = true ∧ spanHolds (hostSpan 0x7000 8) 0x601F = false ∧ (aRecord false).signalled = false)
    ∧ runOf (busy up aTime) 0 = none ∧ Cmd.opcode aTime ≠ opRun ∧ activeCmd (queueOf (running (theRun 1 [])) 0) = some (false, aRun) ∧ aRun.phase = .started
    ∧ (failedField (running (theRun 1 [])) 0 aRun 0x9000).isSome = true ∧ Cmd.opcode aRun = opRun ∧ runOf (busy bound hostRun) 0 = none
    ∧ (failedField (busy bound hostRun) 0 hostRun 0x40007).isSome = true
    ∧ activeCmd (queueOf (busy up aTime) 0) = some (false, aTime) ∧ aTime.phase = .started ∧ (failedField (busy up aTime) 0 aTime 0x1007).isSome = true
    ∧ (failedField (busy up aTime) 0 aTime 0x1008).isNone = true
    ∧ activeCmd (queueOf ringUp 0) = none ∧ nextReady ringUp 0 = true ∧ (queueOf ringUp 0).sqDev = false ∧ Queue.sqSlot (queueOf ringUp 0) 0 ≤ 0x503F
    ∧ 0x503F < Queue.sqSlot (queueOf ringUp 0) 0 + 64 ∧ (queueOf (queueUp { fetchFailed := true }) 0).fetchFailed = true := by decide +kernel

/-! ### Stages of a run -/

/-- One variable with a linear term, its image in device memory; one lane, one segment of one decision. -/
def aProb : Prob :=
  { index := 0, n := 1, np := 64, eMax := -15, eH := -30, image := devSpan 0x1000 0x500, starSpan := devSpan 0x2000 320
    segments := [{ kind := 0, halve := false, length := 1, tStart := 0, tParam := 0, wStep := 0, wMax := 0 }], sets := [[{ start := 0, count := 64 }]] }
def stageUp (r : Run) : State := { running r with mem := cells 0 planFields ++ cells 0x1000 imageFields }

/-- The spans of the bound plan's four relocations. -/
def planSpans : List Span := [devSpan 0x2D00 12, devSpan 0x500 0x2000, devSpan 0x2500 320, devSpan 0x3500 0x400]
def loadRun : Run := { theRun 0 [{ aProb with image := devSpan 0x500 0x2000 }] with spans := planSpans }
theorem witness_Load : Serving (stageUp loadRun) 0 opRun false aRun ∧ atStage (stageUp loadRun) 0 1 = some loadRun
    ∧ ∃ r u, (loadSteps 0 0 (Run.enter (stageUp loadRun) loadRun)).run (setRun (stageUp loadRun) 0 (Run.enter (stageUp loadRun) loadRun)) = (.ok r, u) :=
  ⟨by decide +kernel, by decide +kernel, passed (by decide +kernel)⟩

def annealRun : Run := theRun 1 [aProb]
theorem witness_Anneal : atStage (stageUp annealRun) 0 2 = some annealRun ∧ annealRun.entered = false
    ∧ (let x := (annealSets 0 (Run.inStage annealRun 2)).run (stageUp annealRun)
       let ps := x.1.toOption.getD []
       x.1.toBool = true ∧ (placeAll x.2 0 (Run.position annealRun) (placeOrder ps)).isSome = true
       ∧ (let y := (placeAll x.2 0 (Run.position annealRun) (placeOrder ps)).getD ([], x.2)
          let r := holdLanes (Run.enter y.2 annealRun) y.1
          ((beginAll 0 r y.1 ps).run (setRun y.2 0 r)).1.toBool = true)) := by decide +kernel

def selectRun : Run := theRun 2 [{ aProb with stars := [{ energy := 0, bits := 0, firstSeen := 1, hash := 0 }] }]
def exportRun : Run := { selectRun with done := 3 }
theorem witness_SelectExport : atStage (running selectRun) 0 4 = some selectRun ∧ atStage (running exportRun) 0 5 = some exportRun
    ∧ exportRun.stages.any (·.kind == 4) = true ∧ recordSize (Run.inStage exportRun 5) 1024 ≤ exportRun.result.len := by decide +kernel

/-- A run whose only stage besides ANNEAL is a chain of one descriptor at 0x800; its operands lie in host memory. -/
def chainRun (kind : Nat) (entered : Bool) (probs : List Prob) : Run :=
  { slot := 0, stages := [{ kind, mask := 1, chainOff := 0x800, chainLen := 1 }], entered, seed := some 7, problems := probs
    spans := [hostSpan 0x20000 64, hostSpan 0x20100 64, hostSpan 0x20200 64, hostSpan 0x20300 256, hostSpan 0x1000 0x500]
    chain := if entered then some { addr := 0x800, len := 1 } else none }
theorem witness_Build : atStage (running (chainRun 0 false [])) 0 0 = some (chainRun 0 false []) ∧ (chainRun 0 false []).entered = false := by decide +kernel
def scoredProb : Prob := { aProb with feature := hostSpan 0x20000 4, features := 1, rsIn := hostSpan 0x20100 2, rsEnergy := hostSpan 0x20200 4
                                      rsScore := hostSpan 0x20300 4, stars := [{ energy := -3, bits := 1, firstSeen := 1, hash := 0 }] }
theorem witness_Rescore : let r := chainRun 3 false [scoredProb]
    atStage (running r) 0 3 = some r ∧ r.entered = false
    ∧ ((rescoreAll 0 (Run.enter (running r) r)).run (setRun (running r) 0 (Run.enter (running r) r))).1.toBool = true := by decide +kernel

/-! ### Tensor chains -/

def chainUp (fields : List (Nat × List Byte)) : State :=
  { running (chainRun 0 true []) with mem := cells 0x800 fields, hostMem := cells 0x1000 imageFields }

def answered (x : Except (Nat × Outcome3) (Option (Nat × Tally)) × State) : Bool := match x with
  | (.ok (some _), _) => true
  | _ => false

/-- The chain stands at a descriptor with these fields, which reads well, has this opcode, and answers. -/
def opRuns (op : Nat) (fields : List (Nat × List Byte)) (f : List TDesc → TDesc → Act (Option (Nat × Tally))) : Bool :=
  let s := chainUp ((0, [BitVec.ofNat 8 op]) :: (1, [1]) :: fields)
  let ch : Chain := { addr := 0x800, len := 1 }
  let x := (chainBytes 0 ch).run s
  let b := x.1.toOption.getD []
  decide (Serving s 0 opRun false aRun) && decide (chainAt s 0 = some (chainRun 0 true [], ch)) && x.1.toBool && TDesc.op (chainDesc ch b) == op
    && answered ((f (chainSoFar ch b) (chainDesc ch b)).run x.2)

def tEnv : TEnv := { q := 0, fn := 0, spans := (chainRun 0 true []).spans }
/-- Operand references: A entry 1, B entry 2, D entry 4. -/
def refs : List (Nat × List Byte) := [(8, [1]), (0xC, [2]), (0x14, [4])]

theorem witness_Gemm : opRuns tGemm (refs ++ [(0x20, [1]), (0x24, [1]), (0x28, [1]), (0x2E, [0xFF]), (0x30, [4]), (0x34, [4]), (0x38, [4])])
    (fun ds d => gemmOp tEnv ds 0 d) = true := by decide +kernel
theorem witness_GemvSpx : opRuns tGemvSpx [(8, [1]), (0xC, [5]), (0x14, [4]), (0x19, [10]), (0x1A, [9]), (0x20, [1]), (0x24, [3]), (0x30, [2])]
    (fun _ d => gemvRow tEnv 0 d) = true := by decide +kernel
theorem witness_Gather : opRuns tGather (refs ++ [(0x20, [2]), (0x24, [1]), (0x28, [1])]) (fun _ d => gatherOp tEnv 0 d) = true := by decide +kernel
theorem witness_Scatter : opRuns tScatter (refs ++ [(0x20, [2]), (0x24, [1]), (0x28, [1]), (0x2C, [1])]) (fun _ d => scatterOp tEnv 0 d) = true := by decide +kernel
theorem witness_SegmentSum : opRuns tSegmentSum (refs ++ [(0x20, [2]), (0x24, [1]), (0x28, [1]), (0x2C, [1])]) (fun _ d => segmentSumOp tEnv 0 d) = true := by decide +kernel
theorem witness_Elementwise : opRuns tElementwise (refs ++ [(0x20, [2]), (0x24, [6])]) (fun _ d => elementwiseOp tEnv 0 d) = true := by decide +kernel
theorem witness_Reduce : opRuns tReduce (refs ++ [(0x20, [2]), (0x24, [2])]) (fun ds d => reduceOp tEnv ds 0 d) = true := by decide +kernel
theorem witness_Softmax : opRuns tSoftmax (refs ++ [(0x20, [1]), (0x24, [2])]) (fun _ d => softmaxOp tEnv 0 d) = true := by decide +kernel
theorem witness_Route : opRuns tRoute (refs ++ [(0x20, [2]), (0x24, [2]), (0x25, [1]), (0x28, [1])]) (fun _ d => routeOp tEnv 0 d) = true := by decide +kernel
theorem witness_Exit : opRuns tExit ([(8, [1]), (0x26, [0xFF, 0xFF])]) (fun _ d => exitOp tEnv 1 0 d) = true := by decide +kernel
theorem witness_RouteCapacity : 0 < 1 ∧ ∀ e ∈ [(0, 1), (0, 1), (254, 1)], e.1 < 0xFF := by decide

/-! ### Decisions -/

/-- A lane of one variable with field f, which a linear record may name. -/
def aLane (f : Int) (touch : Bool) : Lane :=
  { running := true, np := 64, x := [false], field := [f], frozen := [false], touch := [touch], mask := [false], pen := [0], gens := [5] }
def laneUp (l : Lane) : State := setLane (running annealRun) 0 l

theorem witness_DecisionNone : probOf (laneUp (aLane 9 false)) 0 0 = some aProb ∧ mayDecide (laneUp (aLane 9 false)) 0 0 = true
    ∧ (decide' aProb (aLane 9 false)).2.2.isNone = true := by decide +kernel
theorem witness_Pace : (paceStep up (engineKey .anneal 0)).1 = true ∧ 256 ≤ rho up
    ∧ (let s := setRho up 32
       rho s ≤ 256 ∧ (paceStep s (engineKey .anneal 0)).1 = false ∧ paceOf s (engineKey .anneal 0) < 256
       ∧ (paceStep (setPace s (engineKey .anneal 0) 224) (engineKey .anneal 0)).1 = true) := by decide +kernel
theorem witness_DecisionSome : mayDecide (laneUp (aLane (-9) true)) 0 0 = true
    ∧ ((decide' aProb (aLane (-9) false)).2.2.map (touches (aLane (-9) false))) = some false
    ∧ ((decide' aProb (aLane (-9) true)).2.2.map (touches (aLane (-9) true))) = some true := by decide +kernel
theorem witness_MaskDelivery : let l := { aLane (-9) true with waiting := true, moved := [0] }
    probOf (laneUp l) (laneOf (laneUp l) 0).queue (laneOf (laneUp l) 0).problem = some aProb ∧ l.running = true ∧ l.waiting = true
    ∧ (decide' aProb l).2.2.isSome = true := by decide +kernel
theorem witness_WinnerRule : (decide' aProb (aLane 9 false)).2.2 = none ∧ (decide' aProb (aLane (-9) false)).2.2.isSome = true := by decide +kernel
theorem witness_GroupRepair : let x := [true, true, false]
    let g : Group := { members := [0, 1, 2], k := 1 }
    g.members.Pairwise (· < ·) ∧ (∀ i ∈ g.members, i < x.length) ∧ g.k ≤ g.members.length := by decide
theorem witness_GroupRepairAll : let x := [false, true, false]
    let g : Group := { members := [0, 2], k := 2 }
    g.members.Pairwise (· < ·) ∧ (∀ i ∈ g.members, i < x.length) ∧ g.k ≤ g.members.length := by decide
def aStar (e : Int) (b : Nat) : Star := { energy := e, bits := b, firstSeen := 1, hash := 0 }
theorem witness_Admit : 0 < 2 ∧ [aStar (-4) 1, aStar 0 2].length ≤ 2 ∧ [aStar (-4) 1, aStar 0 2].Pairwise (fun a b => starBefore a b = true)
    ∧ ([aStar (-4) 1, aStar 0 2].map (·.bits)).Nodup ∧ [aStar (-4) 1, aStar 0 2].any (fun y => y.bits == 3) = false
    ∧ [aStar (-4) 1, aStar 0 2].any (fun y => y.bits == 2) = true ∧ [aStar (-4) 1].length < 2 ∧ [aStar (-4) 1, aStar 0 2].getLast? = some (aStar 0 2)
    ∧ starBefore (aStar (-1) 3) (aStar 0 2) = true ∧ starBefore (aStar 0 3) (aStar 0 2) = false := by decide
theorem witness_AnyOrder : 0 < 2 ∧ [aStar 0 2, aStar (-4) 1, aStar 1 3].Perm [aStar (-4) 1, aStar 0 2, aStar 1 3]
    ∧ (∀ a ∈ [aStar 0 2, aStar (-4) 1, aStar 1 3], ∀ b ∈ [aStar 0 2, aStar (-4) 1, aStar 1 3], a.bits = b.bits → a.energy = b.energy)
    ∧ aStar 1 3 ∈ [aStar 0 2, aStar (-4) 1, aStar 1 3]
    ∧ (aStar 1 3).bits ∉ ([aStar 0 2, aStar (-4) 1, aStar 1 3].foldl (offerTo 2) []).map (·.bits) := by decide +kernel
def offering : Run := theRun 1 [{ aProb with offers := [aStar (-1) 1] }]
theorem witness_Offer : (probOf (running offering) 0 0).map (·.offers) = some [aStar (-1) 1] := by decide +kernel
def keeperRun : Run :=
  { theRun 1 [{ aProb with n := 2, sets := [[{ start := 0, count := 64, pos := 1 }]] }] with
    entered := true, group := some { size := 2, position := 0, frame := 2, test := true, tag := 5, joinDeadline := 0, recoveryDeadline := 0, members := [], joinDone := true } }
theorem witness_RemoteOffer : atStage (running keeperRun) 0 2 = some keeperRun
    ∧ (probOf (running keeperRun) 0 0).map (fun p => takesBatch keeperRun p { sender := 1, states := [(-3, 3, 7), (1, 0, 9)] }) = some true
    ∧ (probOf (running keeperRun) 0 0).map (fun p => takesBatch keeperRun p { sender := 1, states := [(-3, 4, 7)] }) = some false := by decide +kernel
/-- A member at position 1 whose problem without epochs has finished. -/
def memberRun : Run :=
  { keeperRun with
    problems := [{ aProb with lanes := [0], finished := true, offers := [aStar (-1) 1], sets := [[{ start := 0, count := 64, pos := 1 }]] }]
    group := some { size := 2, position := 1, frame := 2, test := true, tag := 5, joinDeadline := 0, recoveryDeadline := 0, members := [{ frameAddr := 0x80000000, requester := 0x100 }], joinDone := true } }
theorem witness_SendBatch : atStage (running memberRun) 0 2 = some memberRun ∧ memberRun.group.any (fun g => g.position == 1) = true
    ∧ (probOf (running memberRun) 0 0).map (fun p => (p.epochs, p.finished, p.lanes.isEmpty, p.sentAll, p.offers.length)) = some (false, true, false, false, 1) := by
  decide +kernel
theorem witness_LargestCap : let ps := [{ aProb with kReq := 3, stars := [aStar (-4) 1, aStar 0 2, aStar 1 3] }]
    fitCap ps (recordSize ps 1) 1023 = some 1 := by decide +kernel

/-! ### Engine faults and epochs -/

theorem witness_EngineFault : 95 < EngineClass.logical .anneal ∧ faultPossible up .anneal 95 1 127 0 = true ∧ faultPossible up .anneal 95 1 128 0 = false
    ∧ faultPossible { up with laneModes := [(95, 2)] } .anneal 95 1 127 15 = true ∧ faultPossible { up with laneModes := [(95, 2)] } .anneal 95 1 127 14 = false
    ∧ 47 < EngineClass.logical .constraint ∧ faultPossible up .constraint 47 1 0 31 = true ∧ faultPossible up .constraint 47 2 0 0 = false
    ∧ faultPossible (laneUp { aLane 0 false with finished := true }) .constraint 0 2 0 0 = true ∧ faultPossible (laneUp { aLane 0 false with finished := true }) .anneal 0 6 0 0 = true
    ∧ 23 < EngineClass.logical .tensor ∧ faultPossible up .tensor 23 4 0 0 = true ∧ faultPossible up .tensor 23 3 0 0 = false := by decide +kernel
theorem witness_ConstraintTimeout : (laneOf (laneUp { aLane 0 true with waiting := true, moved := [0] }) (laneKey 0 0)).running = true
    ∧ (laneOf (laneUp { aLane 0 true with waiting := true, moved := [0] }) (laneKey 0 0)).waiting = true := by decide +kernel
theorem witness_Replay : let l := { aLane 0 false with replaying := true }
    let s := setLane (stageUp annealRun) 0 l
    (laneOf s (laneKey 0 0)).running = true ∧ (laneOf s (laneKey 0 0)).replaying = true ∧ probOf s 0 0 = some aProb
    ∧ ((replayLoad (queueFn s 0) aProb l).run s).1.toBool = true := by decide +kernel
/-- Tile 0 is folded onto tile 1, and its epoch is over. -/
def foldedUp : State :=
  setLane (setMap (setMap (laneUp { aLane 0 false with stopped := true }) .anneal 0 { phys := 1, folded := true, partner := 1, guest := true, turn := true })
    .anneal 1 { phys := 1, folded := true, partner := 0, turn := false }) 16 (aLane 0 false)
theorem witness_FoldSwitch : (mapOf foldedUp .anneal 0).folded = true ∧ (mapOf foldedUp .anneal 0).turn = true ∧ (mapOf foldedUp .anneal 0).partner = 1
    ∧ tileRested foldedUp 0 = true ∧ tileEager foldedUp 1 = true := by decide +kernel
theorem witness_CoreFailover : up.cores.findIdx? (· == 1) = some 1 ∧ up.spareCores = 2 :: [3]
    ∧ (let s := { up with cores := [0, 3], spareCores := [] }
       s.cores = [0, 3] ∧ (3 : Nat) ≠ 0)
    ∧ (let s := { up with cores := [3, 3], spareCores := [] }
       s.cores ≠ [] ∧ ∀ c ∈ s.cores, c = 3) := by decide

def epochProb : Prob := { aProb with epochs := true, epochLen := 256, lanes := [0], bits := [0], ePrev := [0], segments := [{ kind := 0, halve := false, length := 512, tStart := 0, tParam := 0, wStep := 0, wMax := 0 }] }
def epochRun : Run := { theRun 1 [epochProb] with entered := true }
theorem witness_EpochClose : let s := setLane (stageUp epochRun) 0 { aLane 0 false with stopped := true }
    Serving s 0 opRun false aRun ∧ atStage s 0 2 = some epochRun ∧ (Run.inStage epochRun 2).find? (fun p => p.index == 0) = some epochProb
    ∧ epochRun.entered = true ∧ epochProb.epochs = true ∧ epochRun.group = none ∧ epochProb.finished = false ∧ lanesStopped s epochProb = true
    ∧ (closeFault s epochProb).isNone = true
    ∧ closeFault (setLane s 0 { laneOf s 0 with energy := 1 }) epochProb = some (0, .anneal, 6, 0)
    ∧ closeFault (setLane s 0 { laneOf s 0 with records := [{ eq := true, soft := false, bound := 1, terms := [(0, 1)], tag := 0, number := 4, sum := 1 }] }) epochProb
        = some (0, .constraint, 2, 4)
    ∧ ((closeAlone (queueFn s 0) epochRun epochProb).run s).1.toBool = true := by decide +kernel

/-! ### Run groups -/

/-- A group of two whose position 1 is this device, on frame 2. -/
def aGroup : GroupRun :=
  { size := 2, position := 1, frame := 2, test := true, tag := 5, joinDeadline := 5000, recoveryDeadline := 50000
    members := [{ frameAddr := 0x80000000, requester := 0x100 }, { frameAddr := 0, requester := 0 }] }
def groupRun (g : GroupRun) : Run := { theRun 1 [] with group := some g }
def groupUp (g : GroupRun) : State := running (groupRun g)
theorem witness_Join : Serving (groupUp aGroup) 0 opRun false aRun ∧ runOf (groupUp aGroup) 0 = some (groupRun aGroup) ∧ (groupRun aGroup).group = some aGroup
    ∧ aGroup.joinDone = false ∧ aGroup.joinSent = false ∧ aGroup.position ≠ 0
    ∧ (let g := { aGroup with joinSent := true, members := [{ frameAddr := 0, requester := 0, joined := true }, { frameAddr := 0, requester := 0 }] }
       (GroupRun.peers g).all (fun e => e.2.joined) = true ∧ g.claimed = [])
    ∧ sortNats ({ aGroup with claimed := [1, 0] } : GroupRun).claimed = [0, 1] := by decide +kernel
theorem witness_FrameWrite : (frameRun (groupUp aGroup) 2).isSome = true ∧ (GroupRun.peers aGroup).any (fun e => e.2.requester == 0x100) = true
    ∧ areaOf 0 0 32 = some 1 ∧ areaOf 1 (0x1000 + 3 * 2 ^ 20 - 8) 8 = some 1 ∧ areaOf 0 0x3FF000 32 = some 4 ∧ areaOf 0 0x20 8 = none
    ∧ (GroupRun.peers aGroup).any (fun e => e.2.requester == 0) = false ∧ areaOf 1 0x3FE000 8 = none := by decide +kernel

/-- A DELTA barrier of epoch 1 from position 0 over n bytes whose words sum to v. -/
def barrier (n v : Nat) : List Byte := toLE 2 0x4252 ++ toLE 1 1 ++ toLE 1 0 ++ toLE 4 n ++ toLE 8 1 ++ toLE 8 v ++ toLE 8 5
def barrierUp (n v : Nat) : GroupRun := { aGroup with barriers := [(0, 1, barrier n v)] }
theorem witness_Barrier : (barrierUp 32 0).barriers.find? (isBarrier (barrierUp 32 0) 0 1 1) = some (0, 1, barrier 32 0) ∧ 0 ≠ aGroup.position ∧ 0 < aGroup.size ∧ 1 ≤ 2
    ∧ (let k := countKey 2 0 1 1
       areaCount (groupUp (barrierUp 32 0)) k < leAt (barrier 32 0) 4 4
       ∧ areaCount (setCount (groupUp (barrierUp 32 0)) k 32) k = leAt (barrier 32 0) 4 4
       ∧ sumWords (areaBytes (setCount (groupUp (barrierUp 32 0)) k 32) 2 0 1 1 32) = leAt (barrier 32 0) 0x10 8
       ∧ sumWords (areaBytes (setCount (groupUp (barrierUp 32 1)) k 32) 2 0 1 1 32) ≠ leAt (barrier 32 1) 0x10 8
       ∧ leAt (barrier 32 0) 4 4 < areaCount (setCount (groupUp (barrierUp 32 0)) k 40) k) := by decide +kernel
theorem witness_EndBarrier : let b := toLE 2 0x4252 ++ toLE 1 3 ++ toLE 1 0 ++ toLE 4 0 ++ toLE 8 0 ++ toLE 8 0 ++ toLE 8 5
    let g := { aGroup with barriers := [(0, 0, b)] }
    g.barriers.find? (isBarrier g 0 3 0) = some (0, 0, b) := by decide +kernel
theorem witness_Resend : let g := { aGroup with sent := [{ phase := 1, bank := 1, epoch := 1, parts := [] }] }
    (g.sent.find? (fun x => x.phase == 1 && x.epoch == 1)).isSome = true ∧ (g.members[0]?).isSome = true ∧ 0 ≠ g.position := by decide +kernel
theorem witness_Deadline : let g := { aGroup with deltaSent := 1 }
    frameRun { groupUp g with us := 4900 } 2 = some (0, groupRun g, g) ∧ awaits (groupRun g) g 0 1 = some 1 ∧ missCase { groupUp g with us := 4900 } g 0 1 = some 1
    ∧ GroupRun.isLoose g 1 = false ∧ missCase { groupUp g with us := 4899 } g 0 1 = none ∧ awaits (groupRun g) g 1 1 = none := by decide +kernel
theorem witness_EndRun : aGroup.position ≠ 0 ∧ (({ aGroup with members := [{ frameAddr := 0, requester := 0, ended := true }] } : GroupRun).members.head?.any (·.ended)) = true ∧ ({ groupRun aGroup with done := 4 } : Run).stages.length ≤ 4 ∧ (0x0F : Byte).toNat < 0x10
    ∧ 0 < aGroup.size ∧ 0 ≠ aGroup.position ∧ 0x10 ≤ (0x10 : Byte).toNat ∧ runOf (groupUp aGroup) 0 = some (groupRun aGroup) := by decide +kernel

/-! ### Device memory and shared slices -/

theorem witness_SymbolErrors : (List.replicate 32 (0xA5 : Byte)).length = 32 ∧ 35 < 36 ∧ (0x80 : Byte) ≠ 0 ∧ (0 : Nat) ≠ 35
    ∧ (let c := (List.replicate 36 (0 : Byte)).set 5 7
       syndrome 0 c ≠ 0 ∧ syndrome 1 c = gfShift (syndrome 0 c) 5 ∧ syndrome 2 c = gfShift (syndrome 1 c) 5) := by decide +kernel
theorem witness_Pin : 11 < 12 ∧ 2 < 3 ∧ ∀ b ∈ [16, 19, 23], b / 8 = 2 := by decide
theorem witness_Counted : let s := { up with memErr := [(0, upsetSymbol 7 0x10)] }
    (match checkWord s 0 with
      | .corrected p v => p == 7 && v == 0x10
      | _ => false) = true := by decide +kernel
/-- The first and the last channel are in service. -/
def trained : State := setFld (setFld up (reg 1024 0x40) 0 2 0) (reg 1071 0x40) 0 2 0
theorem witness_Memory : memoryUp trained = true ∧ capacity trained - 32 < capacity trained ∧ errOf trained ((capacity trained - 32) / 32) = 0
    ∧ metaOf trained ((capacity trained - 32) / 32) = 0 ∧ capacity trained ≤ capacity trained ∧ trained.unfixedDev = []
    ∧ sliceAt sliceBase = some (0, 0) ∧ sliceAt (sliceBase + sliceSpace - 1) = some (127, sliceBytes - 1) ∧ sliceAt (sliceBase + sliceSpace) = none
    ∧ sliceAt (capacity trained) = none ∧ sliceErrOf trained 127 (sliceBytes / 32 - 1) = 0 ∧ capacity trained < sliceBase := by decide +kernel
theorem witness_Scrub : let s := setFld trained (mcWide 0x10C) 8 1 1
    47 < channels s ∧ memoryUp s = true ∧ channelState s 47 = 0 ∧ fld s (mcWide 0x10C) 8 1 = 1 := by decide +kernel
theorem witness_Inject : Answers up 0 ∧ pageParked up (channelPage 47) = false ∧ (35 : U32).toNat % 64 < 36 ∧ 36 ≤ (36 : U32).toNat % 64 := by decide +kernel
def faulty : State := { trained with faultyRows := [rowKey trained 0] }
theorem witness_RowRepair : 0 < capacity faulty ∧ memoryUp faulty = true ∧ faulty.faultyRows.contains (rowKey faulty 0) = true
    ∧ faulty.repairs.any (fun e => e.1 == (wordPlace faulty 0).1) = false
    ∧ ({ faulty with repairs := [(47, 3)] }).repairs.find? (fun e => e.1 == 47) = some (47, 3) := by decide +kernel

def sealUp (v : Seal) : State := setSeal { up with enclave := { up.enclave with drbgSeed := some 1 } } 0 v
theorem witness_Seal : Answers (sealUp {}) 0 ∧ sealSel (sealUp {}) = 0 ∧ (sealOf (sealUp {}) 0).enabled = false ∧ fnQuiet (sealUp {}) 0 = true
    ∧ approved (setFld (sealUp {}) (reg 3072 0x40) 0 3 1) = true := by decide +kernel
theorem witness_Rekey : let s := setFld (sealUp { enabled := true, version := 3, key := 1 }) (reg 3072 0x40) 0 3 1
    Answers s 0 ∧ (sealOf s (sealSel s)).enabled = true ∧ (sealOf s (sealSel s)).version ≠ 0 ∧ (sealOf s (sealSel s)).rekeyBusy = false
    ∧ (sealOf s (sealSel s)).zeroing = false ∧ fnQuiet s (sealSel s) = true ∧ approved s = true := by decide +kernel
theorem witness_SealDisable : let s := sealUp { enabled := true, version := 3, key := 1 }
    Answers s 0 ∧ sealSel s = 0 ∧ (sealOf s 0).enabled = true ∧ fnQuiet s 0 = true
    ∧ (let t := busy (sealUp {}) aNop
       sealSel t = 0 ∧ fnQuiet t 0 = false ∧ Answers t 0) := by decide +kernel
theorem witness_SealRewrite : approved { setFld (sealUp {}) (reg 3072 0x40) 0 3 1 with areaSealed := false } = true ∧
    phaseOf (setFld (sealUp {}) (reg 3072 0x40) 0 3 1) = 8 ∧ (sealOf (sealUp {}) 15).zeroing = false ∧ (sealOf (sealUp {}) 15).rekeyBusy = false ∧ (sealUp {}).rng.pool = [] ∧ (sealOf (sealUp { zeroing := true }) 0).zeroing = true ∧ (sealOf (sealUp { rekeyBusy := true }) 0).zeroing = false
    ∧ (sealOf (sealUp { rekeyBusy := true }) 0).rekeyBusy = true ∧ phaseOf (sealUp {}) = 8 ∧ (sealUp {}).areaSealed = false
    ∧ (sealUp {}).enclave.drbgSeed.isSome = true ∧ Answers (sealUp { zeroing := true }) 0 := by decide +kernel

theorem witness_Slice : awake up = true ∧ (marchOf up 127).testing = false ∧ sliceBytes - 32 < sliceBytes ∧ sliceErrOf up 127 65535 = 0 := by decide +kernel
theorem witness_March : fld (setFld up (reg (slicePage 127) 0x44) 0 1 1) (reg (slicePage 127) 0x44) 0 1 = 1 ∧ (marchOf up 127).testing = false
    ∧ fld (setFld up (reg (slicePage 127) 0x44) 0 1 1) (reg 4 0x70) 0 2 = 0 ∧ (marchOf (setMarch up 0 { testing := true, window := 511 }) 0).testing = true
    ∧ inWindow { testing := true, window := 511 } (PortAccess.word (.read (sliceBytes - 1) 1 0)) = true ∧ up.sliceErr = [] := by decide +kernel

/-! ### Random numbers -/

def sourceUp (n : Nat) : State := setFld up (reg 3100 0x40) 0 2 n
def aRandom : Cmd := started opRandomFill [(0x28, toLE 8 64)] [(0x20, hostSpan 0x1000 64)]
theorem witness_Random : Serving (busy (sourceUp 1) aRandom) 0 opRandomFill false aRandom ∧ rnSource (busy (sourceUp 1) aRandom) ≠ 3
    ∧ Serving (busy (sourceUp 3) aRandom) 0 opRandomFill false aRandom ∧ rnSource (busy (sourceUp 3) aRandom) = 3
    ∧ ([{ rank := 2, queue := true, who := 0 }] : List Waiter).any (fun w => w.rank == 2 && w.who == 0) = true
    ∧ Answers (sourceUp 2) 15 ∧ holdOf (sourceUp 2) 15 = 0 ∧ rnSource (sourceUp 2) = 2 ∧ rnSource (sourceUp 0) = 0 ∧ rnSource (sourceUp 1) = 1
    ∧ holdOf (setHold up 15 2 9) 15 = 2 ∧ holdOf up 15 ≠ 2 := by decide +kernel
/-- Samples 0101…: no run is longer than one, and half of any window is equal to its first. -/
def alternating : BitVec 2048 := BitVec.ofNat 2048 (2 ^ 2048 / 3)
theorem witness_Block : ∃ b r, makeBlock alternating {} = .ok (b, r) := by
  have h : (makeBlock alternating {}).toBool = true := by decide +kernel
  match hm : makeBlock alternating {} with
  | .ok (b, r) => exact ⟨b, r, rfl⟩
  | .error e => rw [hm] at h; exact absurd h (by simp [Except.toBool])
theorem witness_BlockFails : (makeBlock 0 {}).toBool = false ∧ rnSource (sourceUp 0) = 0 ∧ phaseOf (setFld (sourceUp 0) 0x40 0 4 7) = 7 := by decide +kernel
theorem witness_NextWaiter : (nextWaiter { up with rng := { up.rng with pool := [1, 2, 3], waiters := [{ rank := 3, queue := false, who := 0 }] } }).isSome = true := by
  decide +kernel
theorem witness_SourceFailures : let s := { up with rng := { up.rng with samples := 2 ^ 20 + 5, failures := [4, 5, 6] } }
    2 ≤ (s.rng.failures.filter (fun f => decide (s.rng.samples ≤ f + 2 ^ 20))).length
    ∧ (up.rng.failures.filter (fun f => decide (up.rng.samples ≤ f + 2 ^ 20))).length < 2 := by decide +kernel
theorem witness_Repetition : 1987 + 61 ≤ 2048 := by decide

/-! ### Power, parking and the twilight domain -/

theorem witness_Power : Answers up 0 ∧ halfParked up .east = false ∧ halfParked up .west = false ∧ rampOf (setRamp up .east (some 5)) .east = some 5
    ∧ halfParked (setFld up parkStatus 0 2 2) .east = true := by decide +kernel
/-- Both halves stand at t degrees. -/
def warm (t : Nat) : State := setReg (setReg up 0 (beatReg .west) (2 ^ 16 * t)) 0 (beatReg .east) (2 ^ 16 * t)
theorem witness_Limit : let s := setFld (setReg up 0 (reg 4 0x54) 300) powerStatus 0 10 301
    powerLimit s < fld s powerStatus 0 10 ∧ 32 < rho s ∧ awake s = true ∧ fld up powerStatus 0 10 ≤ powerLimit up ∧ fld up powerStatus 20 1 = 0 := by decide +kernel
theorem witness_Thermal : throttleAt (warm 100) ≤ junction (warm 100) .west
    ∧ (let s := setFld (warm 92) powerStatus 20 1 1
       fld s powerStatus 20 1 = 1 ∧ junction s .west + 3 ≤ throttleAt s ∧ junction s .east + 3 ≤ throttleAt s) := by decide +kernel
def parkUp (n : Nat) : State := setFld up parkStatus 0 2 n
theorem witness_Park : Answers up 0 ∧ eastBusy up true = true ∧ eastBusy up false = false ∧ fld up parkStatus 0 2 = 0 ∧ fld (parkUp 1) parkStatus 0 2 = 1
    ∧ Answers (parkUp 2) 0 ∧ fld (parkUp 2) parkStatus 0 2 = 2 ∧ fld (parkUp 3) parkStatus 0 2 = 3 ∧ awake up = true
    ∧ ({ up with board := { up.board with power := .d3hot } }).board.power = .d3hot ∧ phaseOf { up with board := { up.board with power := .d3hot } } = 8 := by decide +kernel
theorem witness_Twilight : up.board.auxOk = true ∧ up.tw.matched.getD 3 false = false ∧ up.tw.level.getLsbD 3 = false
    ∧ (let s := { up with tw := { up.tw with count := 7, cmp := [7, 8, 0, 0xFFFFFFFFFFFFFFFE] } }
       (compareValue s 0).toNat ≤ s.tw.count.toNat ∧ compareValue s 0 ≠ 0xFFFFFFFFFFFFFFFF) ∧ 0x10 ≤ 0x10 ∧ 0x3F < 0x40 := by decide +kernel

/-! ### PCI Express -/

theorem witness_Bar0 : awake up = true ∧ ¬ ((4 = 4 ∨ 4 = 8) ∧ 0x42 % 4 = 0) ∧ ¬ ((2 = 4 ∨ 2 = 8) ∧ 0 % 2 = 0) := by decide +kernel
theorem witness_Bar2 : isReady up = true ∧ 0x100 + 4096 ≤ bar2Size up 0 - 2 ^ 31 ∧ windowBase up 0 + 0x100 + 4096 ≤ windowEnd up 0
    ∧ beingZeroed up (windowBase up 0 + 0x100) = false ∧ isReady State.reset = false ∧ 2 ^ 31 - 4 + 4 ≤ 2 ^ 31 ∧ 2 ^ 31 ≤ bar2Size up 0 := by decide +kernel
theorem witness_Bar2Read : ∃ b u, readDev up 0 (windowBase up 0 + 0x100) 8 = (b, [], u) := readsWell (by decide +kernel)
theorem witness_Config : up.board.mainOk = true ∧ up.board.perst = false ∧ phaseOf State.reset < 3 ∧ 3 ≤ phaseOf up ∧ fnPresent up 1 = false ∧ fnPresent up 0 = true
    ∧ up.pcie.memEnable = false ∧ up.pcie.vfMemEnable = false ∧ 2047 < tableSize 0 ∧ 63 < tableSize 15
    ∧ 16 * 2047 + 12 < bar4Size up 0 ∧ 16 * 63 + 8 < bar4Size up 15 ∧ (16 * 2047 + 12) / 16 < tableSize 0 ∧ up.board.l1 = none := by decide +kernel
def linkedUp : State := setFld (setFld (setFld up (reg 3500 0x40) 0 3 6) (reg 3500 0x40) 3 5 16) (reg 3500 0x40) 8 1 1
theorem witness_Link : fld linkedUp (reg 3500 0x40) 0 3 ≠ 0 ∧ linkedUp.board.l1 = none ∧ fld linkedUp (reg 3500 0x40) 8 1 = 1 ∧ 16 ≤ fld linkedUp (reg 3500 0x40) 3 5
    ∧ ({ up with board := { up.board with l1 := some .l12 } }).board.l1.isSome = true ∧ linkedUp.board.mainOk = true ∧ linkedUp.board.perst = false
    ∧ 4 ∈ [4, 8, 16] ∧ ({ linkedUp with board := { linkedUp.board with power := .d3hot } }).board.power = .d3hot := by decide +kernel

/-! ### Starts and resets -/

def inPhaseUp (n : Nat) : State := setFld State.reset 0x40 0 4 n
theorem witness_Boot : awake (inPhaseUp 1) = true ∧ isReady (inPhaseUp 1) = false ∧ phaseOf (inPhaseUp 1) = 1 ∧ bootSlot (inPhaseUp 1) = some 0
    ∧ (inPhaseUp 1).flash.cfgValid = true ∧ (inPhaseUp 1).flash.cfgMin ≤ (inPhaseUp 1).flash.cfgSvn
    ∧ bootSlot { inPhaseUp 1 with flash := { slotA := {} } } = none ∧ phaseOf { inPhaseUp 1 with flash := { slotA := {} } } = 1 := by decide +kernel
theorem witness_Phases : phaseOf (inPhaseUp 2) = 2 ∧ phaseOf (inPhaseUp 3) = 3 ∧ tooFew (badOf [] [] []) [] = false ∧ tooFew (badOf [] [] []) [0, 1, 2] = true
    ∧ tooFew (badOf [] [] []) [2, 3] = false ∧ phaseOf (inPhaseUp 4) = 4 ∧ phaseOf (inPhaseUp 5) = 5 ∧ phaseOf (inPhaseUp 6) = 6
    ∧ [48].any (fun c => decide (c < channels (inPhaseUp 6))) = false ∧ phaseOf (inPhaseUp 7) = 7 ∧ rnSource (inPhaseUp 7) = 0 := by decide +kernel
theorem witness_Training : let new := fun failed : List Nat => (List.range 48).filter (fun c => decide (c < physChannels (inPhaseUp 4).part)
      && !(inPhaseUp 4).flash.retired.contains c && (failed.contains c || (inPhaseUp 4).flash.retireMarks.contains c))
    ((new [0, 1, 24, 47]).filter (westPhys (inPhaseUp 4).part)).length ≤ 2 ∧ ((new [0, 1, 24, 47]).filter (fun c => !westPhys (inPhaseUp 4).part c)).length ≤ 2
    ∧ 2 < ((new [0, 1, 23]).filter (westPhys (inPhaseUp 4).part)).length := by decide +kernel
theorem witness_RngTest : ∃ b r, makeBlock alternating { (inPhaseUp 7).rng with samples := (inPhaseUp 7).rng.samples + (2 ^ 20 - 2048) } = .ok (b, r) := by
  have h : (makeBlock alternating { (inPhaseUp 7).rng with samples := (inPhaseUp 7).rng.samples + (2 ^ 20 - 2048) }).toBool = true := by decide +kernel
  match hm : makeBlock alternating { (inPhaseUp 7).rng with samples := (inPhaseUp 7).rng.samples + (2 ^ 20 - 2048) } with
  | .ok (b, r) => exact ⟨b, r, rfl⟩
  | .error e => rw [hm] at h; exact absurd h (by simp [Except.toBool])
theorem witness_Ready : let s := setFld (inPhaseUp 8) (reg 3500 0x40) 0 3 5
    phaseOf s = 8 ∧ s.enclave.drbgSeed.isNone = true ∧ isReady s = false ∧ awake s = true ∧ fld s (reg 3500 0x40) 0 3 ≠ 0 := by decide +kernel
theorem witness_Rails : up.board.perst = false ∧ ({ up.board with perst := true }).perst = true ∧ up.board.mainIn = true ∧ ({ up.board with mainIn := false }).mainIn = false
    ∧ up.board.auxOk = true ∧ ({ up.board with auxOk := false }).auxOk = false ∧ up.board.mainOk = true := by decide
theorem witness_Flr : up.board.mainOk = true ∧ isReady up = true ∧ fnPresent { up with pcie := { up.pcie with vfEnable := true, numVfs := 15, ari := true } } 15 = true
    ∧ fnPresent { up with pcie := { up.pcie with vfEnable := true, numVfs := 15 } } 7 = true ∧ fnPresent { up with pcie := { up.pcie with vfEnable := true, numVfs := 15 } } 8 = false
    ∧ fnPresent { up with pcie := { up.pcie with vfEnable := true, numVfs := 14 } } 15 = false ∧ (planOf bound 0).isSome = true := by decide +kernel
theorem witness_Update : awake up = true ∧ isReady up = true ∧ ({ up.flash with update := 3 }).update = 3 := by decide +kernel

/-! ### The enclave -/

def enclaveUp (n : Nat) : State := setFld up seStatus 0 3 n
theorem witness_Enclave : Answers (enclaveUp 1) 0 ∧ enclaveServes (enclaveUp 1) = true ∧ selftestBusy (setFld (enclaveUp 1) seStatus 7 1 1) = true ∧ 1 % 256 ≠ 0
    ∧ unwrapState (enclaveUp 1) (seView (enclaveUp 1) 0) ≠ 1 ∧ uploadState (enclaveUp 1) (seView (enclaveUp 1) 0) ≠ 1 ∧ approved (enclaveUp 1) = true
    ∧ (uploadOf (enclaveUp 1) (seView (enclaveUp 1) 0)).heldGo = false ∧ selftestBusy (enclaveUp 1) = false := by decide +kernel
theorem witness_UploadKey : uploadState (setUploadState (enclaveUp 1) 0 1) 0 = 1 ∧ approved (setUploadState (enclaveUp 1) 0 1) = true
    ∧ inPartition (setUploadState (enclaveUp 1) 0 1) 0 (dec64 (setUploadState (enclaveUp 1) 0 1) 0 0x48) 1184 = true := by decide +kernel
/-- An unwrap in progress over an empty package; whether its tag holds is AES-GCM's, which the model leaves uninterpreted: one of the
two clauses speaks of it. -/
def unwrapping : State := setUpload (setUnwrapState (enclaveUp 1) 0 1) 0 { keySeed := some 3, src := 0, dst := 0x1000 }
theorem witness_Unwrap : unwrapState unwrapping 0 = 1 ∧ (uploadOf unwrapping 0).keySeed = some 3
    ∧ (readDev unwrapping 0 0 16).1 = List.replicate 16 0 ∧ (readDev (readDev unwrapping 0 0 16).2.2 0 0 (0x490 + 0)).2.1 = [] := by decide +kernel
theorem witness_UnwrapOpens (pkg : List Byte) : openPackage 0 3 pkg 0 [] = none ∨ ∃ p, openPackage 0 3 pkg 0 [] = some p := by
  cases openPackage 0 3 pkg 0 [] with
  | none => exact .inl rfl
  | some p => exact .inr ⟨p, rfl⟩
theorem witness_Token : dbgState (setFld up dbgStatus 0 2 1) = 1 ∧ selftestBusy (setFld up dbgStatus 0 2 1) = false := by decide +kernel
theorem witness_TokenRefused : tokenLevel up = none := by
  unfold tokenLevel
  exact if_neg (fun h => absurd h.2.2.2.2 (by decide))
/-- A token that the uninterpreted primitives accept unlocks its level. -/
theorem witness_TokenAccepted (s : State) (h : (Config.tokenRead (s.enclave.token.take 64)).serial = Config.serial
    ∧ (Config.tokenRead (s.enclave.token.take 64)).nonce = dbgNonce s
    ∧ ((Config.tokenRead (s.enclave.token.take 64)).level = 1 ∨ (Config.tokenRead (s.enclave.token.take 64)).level = 2)
    ∧ (Config.tokenRead (s.enclave.token.take 64)).zeros = true
    ∧ s.flash.debugKeys.any (fun k => Config.mldsaVerify k (s.enclave.token.take 64) (s.enclave.token.drop 64)) = true) :
    tokenLevel s = some (Config.tokenRead (s.enclave.token.take 64)).level := if_pos h
theorem witness_Spdm : transportUp (enclaveUp 1) (.doe 0) = true ∧ transportUp (enclaveUp 1) .mctp = true ∧ Transport.fn (.doe 0) < 16
    ∧ selftestBusy (setFld up seStatus 7 1 1) = true ∧ selftestBusy (enclaveUp 1) = false ∧ enclaveState (enclaveUp 1) ≠ 3 ∧ enclaveState (enclaveUp 3) = 3
    ∧ debugOpen (enclaveUp 1) = false ∧ approved (enclaveUp 1) = true ∧ (enclaveUp 1).enclave.sessions.length < 8
    ∧ 8 ≤ (List.replicate 8 ({ id := 1, transport := .mctp } : Session)).length ∧ ({ (enclaveUp 1).enclave with identity := some 3 }).identity = some 3 := by decide +kernel
theorem witness_Session : let s := { enclaveUp 1 with enclave := { (enclaveUp 1).enclave with sessions := [{ id := 1, transport := .doe 0, finished := true }, { id := 2, transport := .mctp }] } }
    sessionOf s (.doe 0) 1 = some { id := 1, transport := .doe 0, finished := true } ∧ sessionOf s .mctp 2 = some { id := 2, transport := .mctp }
    ∧ approved s = true := by decide +kernel

/-! ### Management, logs and registers -/

theorem witness_Pldm : endpointUp up = true := by decide +kernel
def aLog (code n : Nat) : LogRec := { seq := BitVec.ofNat 32 n, block := 0, time := 0, code, severity := 0, flags := 0, storm := 0, fn := 0, payload := [] }
theorem witness_Logs : up.peat.surface.length ≤ 8192 ∧ 512 ≤ (List.replicate 512 (aLog 1 1)).length ∧ Answers up 15 ∧ up.peat.direct = false
    ∧ [aLog 1 1, aLog 2 7].find? (fun r => r.seq.toNat == (7 : U32).toNat) = some (aLog 2 7)
    ∧ tget (fun _ => 0) ({ up.peat with viewState := [(3, 2)] }).viewState 3 = 2 ∧ [(3, 0, 7)].find? (fun e => e.1 == 3) = some (3, 0, 7)
    ∧ ([(0x101, { count := 4, last := aLog 0x101 9, since := 0 })] : Table Storm).find? (fun e => e.1 == 0x101) = some (0x101, { count := 4, last := aLog 0x101 9, since := 0 })
    ∧ 98000 ≤ (980 - 0) * 100 ∧ up.peat.lastDirect + 1000 ≤ 1000 := by decide +kernel
theorem witness_Pairs : awake up = true ∧ pageServed up 4 = true ∧ hiddenPage 0 4 = false ∧ pageParked up 4 = false ∧ memoryOwn 4 0x64 = false ∧ pairLow 4 0x64 = true
    ∧ pageServed up 351 = true ∧ pairLow 351 0x98 = true ∧ pageParked up 351 = false ∧ memoryOwn 351 0x98 = false := by decide +kernel
theorem witness_IrqCtrl : let s := setErrStat up 4 0
    isReady s = true ∧ irqEnabled up 0 = false ∧ irqEnabled (setReg up 0 (reg 2 0x40) 1) 0 = true := by decide +kernel
theorem witness_Constellation : let s := setFld up (reg 3 0x100) 0 1 1
    isReady s = true ∧ members up 0 = [] ∧ members s 0 ≠ [] ∧ (members s 0).all (fun p => (rangeOf p).2 == (rangeOf ((members s 0).headD 0)).2) = true
    ∧ members up 15 = [] := by decide +kernel
theorem witness_TtClear : isReady up = true ∧ pageParked up (512 + 23) = false ∧ (1 : U32).getLsbD 0 = true := by decide +kernel

/-! ### Values of the manual's worked examples

Each expected number stands in the text or table named, or is worked out from it by hand. -/

/-- The placement example beside R286: the granule at 2^34 + 256 on 48 and on 24 channels. -/
theorem test_place : place (2 ^ 34 + 256) 48 = (37, 0x15555500) ∧ (place (2 ^ 34 + 256) 24).2 = 0x2AAAAA00 := by decide +kernel

/-- Table 2-5: block (3, 7) has the exponent -2 and these mantissas. -/
theorem test_quantize : (fp32Exact 0x41960000).map (fun v => (leastExp v.natAbs 255, roundAt v (-2))) = some (-2, 75)
    ∧ (fp32Exact 0x40E33333).map (fun v => roundAt v (-2)) = some 28 ∧ (fp32Exact 0xC0266666).map (fun v => roundAt v (-2)) = some (-10)
    ∧ (fp32Exact 0x3EC00000).map (fun v => roundAt v (-2)) = some 2 ∧ (fp32Exact 0x3E000000).map (fun v => roundAt v (-2)) = some 0 := by decide +kernel

/-- The raw exponent of block (3, 9), whose largest value is 0.0004. -/
theorem test_rawExponent : (fp32Exact 0x39D1B717).map (fun v => leastExp v.natAbs 255) = some (-18) := by decide +kernel

/-- Table 3-7: L of three values of u, and the swap energy 1,100 - 900 + 400. -/
theorem test_noise : noiseL 32767 = 177 ∧ noiseL 60000 = 23 ∧ noiseL 6553 = 589 := by decide +kernel
theorem test_swapEnergy : moveEnergy { x := [true, false], field := [900, 1100], groups := [{ members := [0, 1], k := 1, cache := [(0, 0), (-400, 0)] }] } 1
    (candidate [true, false] [{ members := [0, 1], k := 1 }] 1) = 600 := by decide

/-- Beat 3 of that decision: f_17 = 300 + 12 × 2^4. -/
theorem test_column : addColumn [300] 1 [(12, 4)] = [492] := by decide

/-- Table 7-9: one block to MXFP8_E4M3; the first element saturates. -/
theorem test_mxBlock : encodeBlock 2 [0x406CCCCD, 0x40533333, 0x3F333333, 0xBA902DE0, 0x360637BD] = (0x78, [0x7E, 0x7D, 0x6B, 0xA1, 0x00], 1, false) := by
  decide +kernel

/-- Tables 5-7 and 5-8: two bays of four cranes; crane c does 34 moves in the first bay and 6 in the second. -/
def crane (c : Nat) (sum : Int) : List Record :=
  [ { eq := false, soft := false, bound := 180, terms := [(c, 34), (4 + c, 6)], tag := 0, number := 2 * c, sum }
  , { eq := false, soft := true, bound := 150, weight := fieldWeight (-1) 5 1, terms := [(c, 34), (4 + c, 6)], tag := 0, number := 2 * c + 1, sum } ]
def cranes : List Record := crane 0 155 ++ crane 1 146 ++ crane 2 172 ++ crane 3 141
def bays (x : List Bool) (k : Nat) : Bool × Int := maskPen x cranes [{ members := [0, 1, 2, 3], k := 1 }, { members := [4, 5, 6, 7], k := 1 }] k
theorem test_fieldWeight : fieldWeight (-1) 5 1 = 512 := by decide
theorem test_penaltySum : penaltySum cranes = 13824 := by decide
theorem test_masks : let x := [false, true, false, false, false, false, false, true]
    (bays x 0).1 = true ∧ (bays x 2).1 = true ∧ bays x 3 = (false, 12800) ∧ bays x 4 = (false, 3072) ∧ bays x 5 = (false, 1024) ∧ bays x 6 = (false, 3072) := by decide

/-- R70: of members 0, 1, 2 with two at 1, a one-hot group keeps the lower; with none, it sets the lowest. -/
theorem test_repairGroup : repairGroup [false, true, true] { members := [0, 1, 2], k := 1 } = ([false, true, false], true)
    ∧ repairGroup [false, false, false] { members := [0, 1, 2], k := 1 } = ([true, false, false], true)
    ∧ repairGroup [false, false, true] { members := [0, 1, 2], k := 1 } = ([false, false, true], false) := by decide

/-- R95: W halves on a move, and otherwise rises by W_STEP up to W_MAX. -/
theorem test_wisp : let g : Segment := { kind := 0, halve := true, length := 1, tStart := 0, tParam := 0, wStep := 64, wMax := 16384 }
    nextWisp g 2304 true = 1152 ∧ nextWisp g 2240 false = 2304 ∧ nextWisp g 16380 false = 16384 ∧ nextWisp { g with halve := false } 2304 true = 0 := by decide

/-- Table 8-11: the record sizes by cap, and K′ = 62. -/
def pellmoss : List Prob := [ { index := 0, n := 2560, kReq := 64, stars := List.replicate 256 (aStar 0 0) }
  , { index := 1, n := 3200, kReq := 128, stars := List.replicate 256 (aStar 0 0) } ]
theorem test_recordSize : (recordSize pellmoss 1024, recordSize pellmoss 64, recordSize pellmoss 63, recordSize pellmoss 62) = (78208, 50560, 49856, 49024) := by
  decide +kernel
theorem test_fitCap : fitCap pellmoss 49152 1024 = some 62 := by decide +kernel

/-! ### Single steps -/

def after (r : Result) (p : State → Bool) : Bool := match r with
  | .next s => p s
  | _ => false

/-- Table 11-3: FILL writes its pattern over the bytes named and nothing beside them. -/
def fillEight : Cmd := started opFill [(0x28, toLE 8 8), (0x38, [1, 2, 3, 4, 5, 6, 7, 8])] [(0x20, hostSpan 0x1000 128)]
theorem test_fill : after (exec (.fill 0) (busy up fillEight)) (fun s => s.hostMem == [(0x1000, 1), (0x1001, 2), (0x1002, 3), (0x1003, 4), (0x1004, 5), (0x1005, 6), (0x1006, 7), (0x1007, 8)])
    = true := by decide +kernel

/-- R253: a NOP completes with status OK; its record then enters slot 0 with the phase bit at 1 (R272). -/
theorem test_nop : after (exec (.nop 0) (busy up (started opNop [(8, toLE 4 9)] []))) (fun s => (queueOf s 0).out.map (fun r => (r.tag, r.out.status)) == [(9, 0)]) = true := by
  decide +kernel
theorem test_recordWritten : after (exec (.completionWrite 0) (queueUp { state := .running, cqBase := 0x6000, out := [aRecord false] }))
    (fun s => s.hostMem == [(0x6004, 9), (0x600D, 1), (0x6018, 3)]) = true := by decide +kernel

/-- R247: a doorbell value that moves the tail by more than the ring's 64 slots is ignored; one of exactly 64 counts. -/
theorem test_doorbell : let s := queueUp { state := .running, log2Size := 6 }
    after (exec (.doorbellWrite 0 0 (some 64) none []) s) (fun t => (queueOf t 0).sqTail == 64) = true
    ∧ after (exec (.doorbellWrite 0 0 (some 65) none []) s) (fun t => (queueOf t 0).sqTail == 0) = true := by decide +kernel

end Sys2Proof.Tests
end

/-! # Which commands complete (O3)

The device checks the operands that Table 1-1, Table 3-2, R242, R340 and their like bound, and answers a fault for any other; but it does not
check the tiles that a tensor row names as having read a corrected word, while `Instr.wf` does. -/
namespace Sys2Proof

/-- The commands whose operands the device checks.  It is `Instr.wf` but for the tensor rows: of those it checks the queue, not the tiles
said to have read a corrected word. -/
def Instr.checked : Instr → Bool
  | .gemm turn | .gemvSpx turn | .gather turn | .scatter turn | .segmentSum turn | .elementwise turn | .reduce turn | .softmax turn
  | .route turn | .exitChain turn => decide (turn.q < 4096)
  | i => i.wf

end Sys2Proof

namespace Sys2Proof.Machine

/-- r is a next state when b holds, and otherwise a fault. -/
def Settles (b : Bool) (r : Result) : Prop := (b = true → ∃ t, r = .next t) ∧ (b = false → ∃ f, r = .fault f)

theorem settles_next (t : State) : Settles true (.next t) := ⟨fun _ => ⟨t, rfl⟩, nofun⟩

theorem settles_fault (f : Fault) : Settles false (.fault f) := ⟨nofun, fun _ => ⟨f, rfl⟩⟩

/-- A check of an operand in front of an outcome that goes by the rest of the check. -/
theorem settles_ite {p q : Prop} [Decidable p] [Decidable q] {r : Result} {f : Fault} (h : Settles (decide q) r) :
    Settles (decide (q ∧ p)) (if p then r else .fault f) := by
  by_cases hp : p
  · simpa [hp] using h
  · simpa [hp] using settles_fault f

theorem settles_guard {p : Prop} [Decidable p] {t : State} {f : Fault} : Settles (decide p) (if p then .next t else .fault f) := by
  by_cases hp : p
  · simpa [hp] using settles_next t
  · simpa [hp] using settles_fault f

theorem settles_always (s : State) (g : State → State) : Settles true (always s g) := settles_next _
theorem settles_onQueue (q : Nat) (s : State) (g : State → State) : Settles (decide (q < 4096)) (onQueue q s g) := settles_guard
theorem settles_onFn (fn : Nat) (s : State) (g : State → State) : Settles (decide (fn < 16)) (onFn fn s g) := settles_guard
theorem settles_onBar0 (fn : Nat) (s : State) (g : State → State) : Settles (decide (fn < 16)) (onBar0 fn s g) := settles_onFn ..
theorem settles_onEngine (n count : Nat) (s : State) (g : State → State) : Settles (decide (n < count)) (onEngine n count s g) := settles_guard
theorem settles_onLane (tile lane : Nat) (s : State) (g : State → State) :
    Settles (decide (tile < 96 ∧ lane < 16)) (onLane tile lane s g) := settles_guard
theorem settles_onMemory (n count : Nat) (s : State) (g : State → State) : Settles (decide (n < count)) (onMemory n count s g) := settles_guard
theorem settles_onIndex (n count : Nat) (s : State) (g : State → State) : Settles (decide (n < count)) (onIndex n count s g) := settles_guard

theorem logical_eq_count (c : EngineClass) : EngineClass.logical c = c.count := by cases c <;> rfl

/-- A class of engines has the same number for the device as for the sender. -/
theorem settles_onEngineClass (c : EngineClass) (n : Nat) (s : State) (g : State → State) :
    Settles (decide (n < c.count)) (onEngine n (EngineClass.logical c) s g) := logical_eq_count c ▸ settles_onEngine ..

theorem settles_onTransport (t : Transport) (s : State) (g : State → State) : Settles t.wf (onTransport t s g) := by
  cases t with
  | doe fn => exact settles_onFn fn s g
  | mctp => exact settles_always s g

theorem settles_commit (fn : Nat) (management : Bool) (s : State) : Settles (decide (fn < 16)) (execCommit fn management s) := by
  cases management with
  | true => exact settles_onFn ..
  | false => exact settles_onBar0 ..

theorem settles_present (fn : Nat) (mctp : Option (List Byte)) (s : State) : Settles (decide (fn < 16)) (execPresent fn mctp s) := by
  cases mctp with
  | some b => exact settles_onFn ..
  | none => exact settles_onBar0 ..

theorem settles_plRselSeqWrite (reader : LogReader) (seq : U32) (bad : Bool) (s : State) :
    Settles reader.wf (execPlRselSeqWrite reader seq bad s) := by
  cases reader with
  | function fn => exact settles_onBar0 ..
  | management layer => exact settles_onIndex ..

theorem settles_plLatchDone (reader : LogReader) (s : State) : Settles reader.wf (execPlLatchDone reader s) := by
  cases reader with
  | function fn => exact settles_onFn ..
  | management layer => exact settles_onIndex ..

/-- Every command answers a next state or, when an operand that the device checks names nothing it has, a fault; none is refused. -/
theorem exec_settles (i : Instr) (s : State) : Settles i.checked (exec i s) := by
  cases i with
  | nop | bindPlan | releasePlan | run | execBuffer | patch | copy | fill | create | makeResident | park | free | readState | writeState | query
  | randomFill | timestamp | syncClear | waitSatisfied | completionWrite | cqRoom | resourceGrant | prefetch | waitTimeout | queueTimeout
  | verifyReadFail | hostReadFail | sqFetchRetry | build | load | anneal | rescore | select | exportRecord | starfieldOffer | epochClose | join
  | seedDraw | gemm | gemvSpx | gather | scatter | segmentSum | elementwise | reduce | softmax | route | exitChain => exact settles_onQueue ..
  | doorbellWrite | lowWordRead | rnData15Read | bar0BadAccess | bar2Read | bar2Write | configRequest | resizeBar | msixUnmask | atsInvalidate
  | flr | uploadKeyReady | unwrapDone | registerWrite => exact settles_onFn ..
  | enable | disable | reset | resume | feFnQueuesWrite | feSyncValueHiWrite | clearError | ttClear | fetch | mcSealEnable | mcSealDisable
  | rekey | ppRequest | glPowerLimitWrite | parkRequest | unpark | twLwClear | seSelftest | generate | discard | go | plClearSurface
  | plClearDeep | glIrqCtrlWrite => exact settles_onBar0 ..
  | decision | maskDelivery | constraintTimeout | replay => exact settles_onLane ..
  | engineFault | foldSwitch => exact settles_onEngineClass ..
  | scrub | rowRepairDone | sliceAccess | marchWindow | marchPreempt | marchWindowDone => exact settles_onMemory ..
  | commandStart | coreFailover | frameWrite | countedBarrier | resend | credit | barrierDeadlineMiss | loose | endRun | abort
  | sealRewriteDone | timeComparatorMatch | analogComparator | analogLevelClear => exact settles_onIndex ..
  | rngBlockComplete | rngTestFail | rngRestartDone | memRead | memWrite | rowRepair | ppRampDone | beatWindow | powerSample | rhoCorrection
  | thermalPacingStep | parkDone | unparkDone | d3hotEntry | d3hotExit | timerTrim | twilightTargetAccess | linkUp | linkReplay | l1Entry
  | l1Exit | l0pWidthChange | hotReset | perstAssert | perstDeassert | boot | identity | selftest | calibration | meminit | rngTest | ready
  | mainLost | mainPowerReturn | auxPowerOn | auxLost | thermtrip | firmwareUpdate | seSelftestDone | unlockTokenChecked | pldmEffecterSet
  | pldmSensorRead | surfaceFlush | stormSummary | lifetimeFlush | lifetimeMinute => exact settles_always ..
  | training => exact settles_next _
  | getVersion | getDigests | getCertificate | challenge | getMeasurements | keyExchange | finish | heartbeat | endSession | ideKm =>
    exact settles_onTransport ..
  | mcInjectWrite | constellationWrite => exact settles_ite (settles_onBar0 ..)
  | constellationRead => exact settles_ite (settles_onFn ..)
  | commit => exact settles_commit ..
  | present => exact settles_present ..
  | plRselSeqWrite => exact settles_plRselSeqWrite ..
  | plLatchDone => exact settles_plLatchDone ..

theorem checked_of_wf {i : Instr} (h : i.wf = true) : i.checked = true := by
  cases i with
  | gemm | gemvSpx | gather | scatter | segmentSum | elementwise | reduce | softmax | route | exitChain =>
    exact (Bool.and_eq_true_iff.mp h).1
  | _ => exact h

/-- The half of O3 that holds: every well-formed command completes in every state. -/
theorem exec_next_of_wf {i : Instr} (h : i.wf = true) (s : State) : ∃ t, exec i s = .next t := (exec_settles i s).1 (checked_of_wf h)

/-- Refutes O3: GEMM names tile 24 of 24 among those that read a corrected word.  The command is ill-formed, and the device answers a next
state all the same: it checks the command's queue alone (`exec_settles`). -/
theorem not_wellFormedCompletes : ¬ Obligations.WellFormedCompletes := by
  unfold Obligations.WellFormedCompletes
  intro h
  obtain ⟨f, hf⟩ := (h (.gemm ⟨0, [24]⟩) State.reset).2 (by decide)
  obtain ⟨t, ht⟩ := (exec_settles (.gemm ⟨0, [24]⟩) State.reset).1 (by decide)
  rw [ht] at hf
  cases hf

end Sys2Proof.Machine

/-! # Folded pairs of tiles (O36)

What FOLD_SWITCH changes (R422), and a state in which it changes the map of an engine outside the pair: one table holds the maps of all
classes, 256 numbers to a class, and nothing bounds the partner that a map names. -/

namespace Sys2Proof.Machine


/-- Resting a tile changes counters of its lanes at most. -/
theorem restTurn_frame (s : State) (tile : Nat) : ∃ ls, restTurn s tile = { s with lanes := ls } := by
  unfold restTurn
  generalize runningLanes s tile = keys
  induction keys generalizing s with
  | nil => exact ⟨_, rfl⟩
  | cons k keys ih =>
    dsimp only [List.foldl_cons] at ih ⊢
    split
    · exact ih s
    · exact ih (setLane s k _)

@[simp] theorem mapOf_restTurn (s : State) (tile : Nat) (c : EngineClass) (k : Nat) : mapOf (restTurn s tile) c k = mapOf s c k := by
  obtain ⟨ls, h⟩ := restTurn_frame s tile
  rw [h]
  rfl

/-- A folded pair of anneal tiles changes turns: l, whose turn is over, rests, and its partner h runs. -/
def turnPassed (s : State) (l h : Nat) : State :=
  setMap (setMap (restTurn s l) .anneal l { mapOf s .anneal l with turn := false }) .anneal h { mapOf s .anneal h with turn := true }

theorem foldSwitch_passes {s : State} {l h : Nat} (hl : l < 96) (hf : (mapOf s .anneal l).folded = true)
    (ht : (mapOf s .anneal l).turn = true) (hp : (mapOf s .anneal l).partner = h) (hr : tileRested s l = true) (he : tileEager s h = true) :
    exec (.foldSwitch .anneal l) s = .next (keep s (turnPassed s l h)) := by
  have hs : foldSwitchOn .anneal l s = turnPassed s l h := by
    simp [foldSwitchOn, turnTiles, turnPassed, hf, ht, hp, hr, he]
  rw [← hs]
  exact onEngine_eq hl

theorem mapOf_turnPassed (s : State) (l h : Nat) (c : EngineClass) (k : Nat) : mapOf (turnPassed s l h) c k =
    if engineKey c k = engineKey .anneal h then { mapOf s .anneal h with turn := true }
    else if engineKey c k = engineKey .anneal l then { mapOf s .anneal l with turn := false } else mapOf s c k := by
  simp [turnPassed]

theorem EngineClass.no_inj {c d : EngineClass} (h : EngineClass.no c = EngineClass.no d) : c = d := by
  cases c <;> cases d <;> simp [EngineClass.no] at h ⊢

/-- Engines below 256 have keys of their own. -/
theorem engineKey_inj {c d : EngineClass} {k l : Nat} (hk : k < 256) (hl : l < 256) (h : engineKey c k = engineKey d l) : (c, k) = (d, l) := by
  unfold engineKey at h
  rw [EngineClass.no_inj (c := c) (d := d) (by omega), show k = l by omega]

/-- When the partner's number is in range, the turn goes from l to it, and every other engine is mapped as before. -/
theorem foldSwitch_frame {s : State} {l h : Nat} (hl : l < 96) (hh : h < 256) (hf : (mapOf s .anneal l).folded = true)
    (ht : (mapOf s .anneal l).turn = true) (hp : (mapOf s .anneal l).partner = h) (hne : l ≠ h) (hr : tileRested s l = true)
    (he : tileEager s h = true) :
    ∃ t, exec (.foldSwitch .anneal l) s = .next t ∧ (mapOf t .anneal l).turn = false ∧ (mapOf t .anneal h).turn = true
      ∧ (∀ c k, (c, k) ≠ (EngineClass.anneal, l) → (c, k) ≠ (.anneal, h) → k < 256 → mapOf t c k = mapOf s c k) ∧ t.regs = s.regs ∧ t.mem = s.mem := by
  obtain ⟨ls, hu⟩ := restTurn_frame s l
  refine ⟨_, foldSwitch_passes hl hf ht hp hr he, ?_, ?_, ?_, ?_, ?_⟩
  · change (mapOf (turnPassed s l h) .anneal l).turn = false
    rw [mapOf_turnPassed, if_neg (fun e => hne (congrArg Prod.snd (engineKey_inj (by omega) hh e))), if_pos rfl]
  · change (mapOf (turnPassed s l h) .anneal h).turn = true
    rw [mapOf_turnPassed, if_pos rfl]
  · intro c k h1 h2 hk
    change mapOf (turnPassed s l h) c k = mapOf s c k
    rw [mapOf_turnPassed, if_neg (fun e => h2 (engineKey_inj hk hh e)), if_neg (fun e => h1 (engineKey_inj hk (by omega) e))]
  · change (restTurn s l).regs = s.regs
    rw [hu]
  · change (restTurn s l).mem = s.mem
    rw [hu]

/-- Tile 0 is folded onto a tile 256 that the device does not have: no field of a state keeps a partner below 96, though every fold that the
device makes does (`foldOnto`).  A lane of that number runs,
and tensor tile 0, whose key the partner has, is not in its turn. -/
def strayFold : State :=
  { State.reset with
    maps := [(engineKey .anneal 0, { phys := 0, folded := true, partner := 256 }), (engineKey .tensor 0, { phys := 0, turn := false })]
    lanes := [(laneKey 256 0, { running := true, gens := [1] })] }

/-- Refutes O36: FOLD_SWITCH of a tile whose partner is beyond the class writes the map of an engine of another class.  In `strayFold` the
turn of tensor tile 0 changes from 0 to 1, and the statement has every engine but the pair as it was.  With the partner in range the clause
holds (`foldSwitch_frame`). -/
theorem not_faultRows : ¬ Obligations.FaultRows := by
  unfold Obligations.FaultRows
  intro hrows
  obtain ⟨-, -, -, -, hfold, -⟩ := hrows strayFold
  obtain ⟨t, ht, -, -, hrest, -⟩ := hfold 0 (by decide) (by decide) (by decide) (by decide) (by decide) (by decide)
  have hpass : exec (.foldSwitch .anneal 0) strayFold = .next (keep strayFold (turnPassed strayFold 0 256)) :=
    foldSwitch_passes (by decide) (by decide) (by decide) (by decide) (by decide) (by decide)
  rw [hpass] at ht
  cases ht
  have hkept : mapOf (turnPassed strayFold 0 256) .tensor 0 = mapOf strayFold .tensor 0 := hrest .tensor 0 (by decide) (by decide) (by decide)
  rw [mapOf_turnPassed] at hkept
  exact absurd hkept (by decide)
end Sys2Proof.Machine

/-! # Performance points, the beat monitor and the power limiter (O48)

What the operations of chapter 13 on registers and rails change, said once for each (`OnlyRail`, `OnlyPace`), and then one lemma for each
row. -/

namespace Sys2Proof.Machine

/-! ### Common registers -/

/-- A register that all functions share changes in the table of common registers alone. -/
theorem setReg_frame {a : Nat} (h : isPerFn a = false) (s : State) (fn v : Nat) : ∃ r, setReg s fn a v = { s with regs := r } := by
  unfold setReg
  rw [h]
  exact ⟨_, rfl⟩

theorem setFld_frame {a : Nat} (h : isPerFn a = false) (s : State) (lo len v : Nat) : ∃ r, setFld s a lo len v = { s with regs := r } :=
  setReg_frame h ..

/-! ### The lifetime store -/

/-- An event is recorded in the peat log alone. -/
theorem logEvent_frame (s : State) (block code fn : Nat) (payload : List Byte) : ∃ p, logEvent s block code fn payload = { s with peat := p } := by
  unfold logEvent
  dsimp only
  generalize ((_ : Bool) && _) = limited
  cases limited
  · exact ⟨_, rfl⟩
  · exact ⟨_, rfl⟩

/-- t differs from s in GL_HEALTH and GL_LIFETIME_CAUSE, the twilight domain, flash and the peat log at most. -/
def OnlyHealth (s t : State) : Prop :=
  ∃ r tw fl p, t = { s with regs := r, tw := tw, flash := fl, peat := p }
    ∧ ∀ fn a, a ≠ reg 1 0x40 → a ≠ reg 1 0x48 → getReg t fn a = getReg s fn a

theorem OnlyHealth.refl (s : State) : OnlyHealth s s := ⟨_, _, _, _, rfl, fun _ _ _ _ => rfl⟩
theorem OnlyHealth.trans {s t u : State} (h : OnlyHealth s t) (k : OnlyHealth t u) : OnlyHealth s u := by
  obtain ⟨_, _, _, _, rfl, h⟩ := h
  obtain ⟨_, _, _, _, rfl, k⟩ := k
  exact ⟨_, _, _, _, rfl, fun fn a h1 h2 => (k fn a h1 h2).trans (h fn a h1 h2)⟩

theorem OnlyHealth.getReg {s t : State} (h : OnlyHealth s t) {fn a : Nat} (h1 : a ≠ reg 1 0x40) (h2 : a ≠ reg 1 0x48) :
    getReg t fn a = getReg s fn a := by
  obtain ⟨_, _, _, _, _, h⟩ := h
  exact h fn a h1 h2

theorem OnlyHealth.lifetime {s t : State} (h : OnlyHealth s t) : t.lifetime = s.lifetime := by
  obtain ⟨_, _, _, _, rfl, _⟩ := h
  rfl

theorem setHealthBits_only {s : State} {lo len v : Nat} : OnlyHealth s (setFld s (reg 1 0x40) lo len v) := by
  obtain ⟨r, h⟩ := setFld_frame (a := reg 1 0x40) (by decide) s lo len v
  exact ⟨r, _, _, _, h, fun _ _ h1 _ => getReg_setFld_ne (by decide) h1⟩

theorem setLifetimeCause_only {s : State} {v : Nat} : OnlyHealth s (setReg s 0 (reg 1 0x48) v) := by
  obtain ⟨r, h⟩ := setReg_frame (a := reg 1 0x48) (by decide) s 0 v
  refine ⟨r, _, _, _, h, fun _ _ _ h2 => ?_⟩
  rw [getReg_setReg (by decide), if_neg h2]

theorem logEvent_health (s : State) (block code fn : Nat) (payload : List Byte) : OnlyHealth s (logEvent s block code fn payload) := by
  obtain ⟨p, h⟩ := logEvent_frame s block code fn payload
  rw [h]
  exact ⟨_, _, _, p, rfl, fun _ _ _ _ => rfl⟩

theorem raiseReplace_health (s : State) (bit : Nat) : OnlyHealth s (raiseReplace s bit) := by
  unfold raiseReplace
  split
  · exact .refl s
  · extract_lets s1 f1 t1 s2 s3
    have h1 : OnlyHealth s s1 := setHealthBits_only.trans setHealthBits_only
    have h2 : OnlyHealth s1 s2 := ⟨_, _, _, _, rfl, fun _ _ _ _ => rfl⟩
    have h3 : OnlyHealth s2 s3 := logEvent_health ..
    exact h1.trans (h2.trans (h3.trans ⟨_, _, _, _, rfl, fun _ _ _ _ => rfl⟩))

theorem checkLifetime_health (s : State) : OnlyHealth s (checkLifetime s) := by
  unfold checkLifetime
  dsimp only
  split
  · exact .refl s
  · exact setLifetimeCause_only.trans (raiseReplace_health ..)

/-- A count enters its lifetime entry. -/
theorem lifeOf_addLife (s : State) (i n j : Nat) : lifeOf (addLife s i n) j = if j = i then (lifeOf s i + n) % 2 ^ 64 else lifeOf s j := by
  unfold lifeOf addLife
  rw [(checkLifetime_health _).lifetime, tget_tset]
  split
  · exact BitVec.toNat_ofNat ..
  · rfl

/-- Of the registers only those of page 1 show a lifetime count. -/
theorem getReg_addLife {s : State} {i n fn a : Nat} (h1 : a ≠ reg 1 0x40) (h2 : a ≠ reg 1 0x48) :
    getReg (addLife s i n) fn a = getReg s fn a := (checkLifetime_health _).getReg h1 h2

/-! ### Performance points (R314, R315) -/

/-- t differs from s in common registers and the limiter's rails and samples at most. -/
def OnlyRail (s t : State) : Prop := ∃ r l, t = { s with regs := r, limiter := l }

theorem OnlyRail.trans {s t u : State} (h : OnlyRail s t) (k : OnlyRail t u) : OnlyRail s u := by
  obtain ⟨_, _, rfl⟩ := h
  obtain ⟨_, _, rfl⟩ := k
  exact ⟨_, _, rfl⟩

theorem OnlyRail.eq {s t : State} (h : OnlyRail s t) : t = { s with regs := t.regs, limiter := t.limiter } := by
  obtain ⟨_, _, rfl⟩ := h
  rfl

theorem OnlyRail.keep {s t : State} (h : OnlyRail s t) : keep s t = t := by
  obtain ⟨_, _, rfl⟩ := h
  rfl

theorem setFld_rail {a : Nat} (h : isPerFn a = false) (s : State) (lo len v : Nat) : OnlyRail s (setFld s a lo len v) := by
  obtain ⟨r, h⟩ := setFld_frame h s lo len v
  exact ⟨r, _, h⟩

theorem setRamp_rail (s : State) (h : Half) (p : Option Nat) : OnlyRail s (setRamp s h p) := by
  cases h
  · exact .trans ⟨_, _, rfl⟩ (setFld_rail (by decide) ..)
  · exact .trans ⟨_, _, rfl⟩ (setFld_rail (by decide) ..)

theorem putPoint_rail {off : Nat} (h : isPerFn (reg 4 off) = false) (s : State) (k : Half) (v : Nat) : OnlyRail s (putPoint s off k v) := by
  unfold putPoint
  split
  · exact setFld_rail h ..
  · exact ⟨_, _, rfl⟩

theorem retarget_rail (s : State) (h : Half) : OnlyRail s (retarget s h) := by
  unfold retarget
  split_ifs
  · exact ⟨_, _, rfl⟩
  · exact ⟨_, _, rfl⟩
  · exact setRamp_rail ..

/-- A field of GL_PP_REQ after a request for its half: five is the last point (R314). -/
theorem fld_putPoint_same {s : State} {h : Half} {v : Nat} :
    fld (putPoint s 0x40 h v) (reg 4 0x40) (Half.lo h) 3 = if v ≤ 5 then v else fld s (reg 4 0x40) (Half.lo h) 3 := by
  unfold putPoint
  split
  · rw [fld_setFld (by decide) (by cases h <;> decide)]
    exact Nat.mod_eq_of_lt (by omega)
  · rfl

theorem lo_apart {h k : Half} (hk : k ≠ h) : Half.lo k + 3 ≤ Half.lo h ∨ Half.lo h + 3 ≤ Half.lo k := by
  cases h <;> cases k <;> simp [Half.lo] at hk ⊢

/-- After a request for the other half. -/
theorem fld_putPoint_other {s : State} {h k : Half} {v : Nat} (hk : k ≠ h) :
    fld (putPoint s 0x40 h v) (reg 4 0x40) (Half.lo k) 3 = fld s (reg 4 0x40) (Half.lo k) 3 := by
  unfold putPoint
  split
  · exact fld_setFld_other (by decide) (by cases h <;> decide) (lo_apart hk)
  · rfl

/-- A request touches no other register. -/
theorem fld_putPoint_ne {s : State} {h : Half} {v a lo len : Nat} (ha : a ≠ reg 4 0x40) : fld (putPoint s 0x40 h v) a lo len = fld s a lo len := by
  unfold putPoint
  split
  · exact fld_setFld_ne (by decide) ha
  · rfl

/-- Where a half's rail is bound for. -/
def aimOf (s : State) (h : Half) : Nat := (rampOf s h).getD (fld s (reg 4 0x48) (Half.lo h) 3)

theorem rampOf_setRamp (s : State) (h k : Half) (p : Option Nat) : rampOf (setRamp s h p) k = if k = h then p else rampOf s k := by
  have hp : isPerFn (reg 4 0x48) = false := by decide
  cases h with
  | west =>
    obtain ⟨r, e⟩ := setFld_frame hp { s with limiter := { s.limiter with rampWest := p } } (Half.lo .west + 3) 1 (if p.isSome then 1 else 0)
    unfold setRamp
    rw [e]
    cases k <;> rfl
  | east =>
    obtain ⟨r, e⟩ := setFld_frame hp { s with limiter := { s.limiter with rampEast := p } } (Half.lo .east + 3) 1 (if p.isSome then 1 else 0)
    unfold setRamp
    rw [e]
    cases k <;> rfl

/-- A ramp in progress shows in one bit of GL_PP_STATUS, and the points in effect stay. -/
theorem fld_setRamp (s : State) (h k : Half) (p : Option Nat) :
    fld (setRamp s h p) (reg 4 0x48) (Half.lo k) 3 = fld s (reg 4 0x48) (Half.lo k) 3 := by
  have hp : isPerFn (reg 4 0x48) = false := by decide
  cases h with
  | west => exact fld_setFld_other hp (by decide) (by cases k <;> decide)
  | east => exact fld_setFld_other hp (by decide) (by cases k <;> decide)

theorem fld_setRamp_ne {s : State} {h : Half} {p : Option Nat} {a lo len : Nat} (ha : a ≠ reg 4 0x48) :
    fld (setRamp s h p) a lo len = fld s a lo len := by
  cases h with
  | west => exact fld_setFld_ne (by decide) ha
  | east => exact fld_setFld_ne (by decide) ha

/-- A new aim leaves the points in effect, and every other register. -/
theorem fld_retarget (s : State) (h k : Half) : fld (retarget s h) (reg 4 0x48) (Half.lo k) 3 = fld s (reg 4 0x48) (Half.lo k) 3 := by
  unfold retarget
  split_ifs
  · rfl
  · rfl
  · exact fld_setRamp ..

theorem fld_retarget_ne {s : State} {h : Half} {a lo len : Nat} (ha : a ≠ reg 4 0x48) : fld (retarget s h) a lo len = fld s a lo len := by
  unfold retarget
  split_ifs
  · rfl
  · rfl
  · exact fld_setRamp_ne ha

theorem wantedPoint_retarget (s : State) (h k : Half) : wantedPoint (retarget s h) k = wantedPoint s k := by
  unfold wantedPoint
  rw [fld_retarget_ne (by decide), fld_retarget_ne (by decide)]

theorem halfParked_retarget (s : State) (h k : Half) : halfParked (retarget s h) k = halfParked s k := by
  unfold halfParked eastDown
  rw [fld_retarget_ne (by decide)]

/-- The rail of a half that is not parked is then bound for the wanted point; the other half's for where it was. -/
theorem aimOf_retarget {s : State} {h : Half} (hp : halfParked s h = false) : aimOf (retarget s h) h = wantedPoint s h := by
  unfold retarget
  rw [if_neg (by simp [hp])]
  split
  case isTrue he => exact he.symm
  case isFalse he => simp [aimOf, rampOf_setRamp]

theorem aimOf_retarget_ne {s : State} {h k : Half} (hk : k ≠ h) : aimOf (retarget s h) k = aimOf s k := by
  unfold retarget
  split_ifs
  · rfl
  · rfl
  · simp only [aimOf, rampOf_setRamp, if_neg hk, fld_setRamp]

/-- Both halves in turn. -/
theorem aimOf_retargetBoth {s : State} {h : Half} (hp : halfParked s h = false) :
    aimOf (retarget (retarget s .west) .east) h = wantedPoint s h := by
  cases h with
  | west => rw [aimOf_retarget_ne (by decide), aimOf_retarget hp]
  | east => rw [aimOf_retarget (by rw [halfParked_retarget, hp]), wantedPoint_retarget]

/-- The requests of both halves, before their rails follow. -/
def requested (s : State) (v : U32) : State := putPoint (putPoint s 0x40 .west (bits v.toNat 0 3)) 0x40 .east (bits v.toNat 4 3)

theorem ppRequestOn_eq (s : State) (v : U32) : ppRequestOn 0 v s = retarget (retarget (requested s v) .west) .east := rfl

theorem ppRequestOn_rail (s : State) (v : U32) : OnlyRail s (ppRequestOn 0 v s) :=
  ((putPoint_rail (by decide) ..).trans (putPoint_rail (by decide) ..)).trans ((retarget_rail ..).trans (retarget_rail ..))

theorem fld_ppRequestOn {s : State} {v : U32} {a lo len : Nat} (h1 : a ≠ reg 4 0x48) :
    fld (ppRequestOn 0 v s) a lo len = fld (requested s v) a lo len := by
  rw [ppRequestOn_eq, fld_retarget_ne h1, fld_retarget_ne h1]

theorem fld_requested (s : State) (v : U32) (h : Half) : fld (requested s v) (reg 4 0x40) (Half.lo h) 3 =
    if bits v.toNat (Half.lo h) 3 ≤ 5 then bits v.toNat (Half.lo h) 3 else fld s (reg 4 0x40) (Half.lo h) 3 := by
  unfold requested
  cases h with
  | west => rw [fld_putPoint_other (by decide), fld_putPoint_same]; rfl
  | east => rw [fld_putPoint_same, fld_putPoint_other (by decide)]; rfl

/-- PP_REQUEST (R314, R315): the requests are stored, and the rail of a half in service is bound for its wanted point. -/
theorem ppRequest_row {s : State} (v : U32) (hs : Answers s 0) : ∃ t, exec (.ppRequest 0 v) s = .next t
    ∧ (∀ h, fld t (reg 4 0x40) (Half.lo h) 3 =
        if bits v.toNat (Half.lo h) 3 ≤ 5 then bits v.toNat (Half.lo h) 3 else fld s (reg 4 0x40) (Half.lo h) 3)
    ∧ (∀ h, halfParked s h = false → aimOf t h = wantedPoint t h)
    ∧ (∀ h, fld t (reg 4 0x48) (Half.lo h) 3 = fld s (reg 4 0x48) (Half.lo h) 3)
    ∧ OnlyRail s t := by
  have hrail := ppRequestOn_rail s v
  refine ⟨ppRequestOn 0 v s, ?_, fun h => ?_, fun h hp => ?_, fun h => ?_, hrail⟩
  · rw [← hrail.keep]
    exact onBar0_eq hs
  · rw [fld_ppRequestOn (by decide), fld_requested]
  · have hp' : halfParked (requested s v) h = false := by
      rw [← hp]
      unfold halfParked eastDown requested
      rw [fld_putPoint_ne (by decide), fld_putPoint_ne (by decide)]
    rw [ppRequestOn_eq, aimOf_retargetBoth hp', wantedPoint_retarget, wantedPoint_retarget]
  · rw [ppRequestOn_eq, fld_retarget, fld_retarget, requested, fld_putPoint_ne (by decide), fld_putPoint_ne (by decide)]

theorem rampOf_setFld {a : Nat} (hp : isPerFn a = false) (s : State) (lo len v : Nat) (h : Half) : rampOf (setFld s a lo len v) h = rampOf s h := by
  obtain ⟨r, e⟩ := setFld_frame hp s lo len v
  rw [e]
  rfl

/-- PP_RAMP_DONE: the ramp's target takes effect. -/
theorem ppRampDone_row {s : State} {h : Half} {p : Nat} (hr : rampOf s h = some p) (hp : p ≤ 5) : ∃ t, exec (.ppRampDone h) s = .next t
    ∧ rampOf t h = none ∧ fld t (reg 4 0x48) (Half.lo h) 3 = p ∧ OnlyRail s t := by
  have hdone : ppRampDoneOn h s = setFld (setRamp s h none) (reg 4 0x48) (Half.lo h) 3 p := by
    unfold ppRampDoneOn
    rw [hr]
  have hrail : OnlyRail s (ppRampDoneOn h s) := hdone ▸ (setRamp_rail ..).trans (setFld_rail (by decide) ..)
  refine ⟨ppRampDoneOn h s, ?_, ?_, ?_, hrail⟩
  · rw [← hrail.keep]
    rfl
  · rw [hdone, rampOf_setFld (by decide), rampOf_setRamp, if_pos rfl]
  · rw [hdone, fld_setFld (by decide) (by cases h <;> decide)]
    exact Nat.mod_eq_of_lt (by omega)

/-! ### The beat monitor (R316, R434) -/

/-- The first lifetime entry of a half's beat histogram (R434). -/
def beatLife : Half → Nat
  | .west => 46
  | .east => 78

theorem beatWindowOn_eq {s : State} {h : Half} (ha : awake s = true) (hp : halfParked s h = false) (mean : U16) (temp : Byte) :
    beatWindowOn h mean temp s = addLife (setReg s 0 (beatReg h) (mean.toNat + 2 ^ 16 * temp.toNat)) (beatLife h + beatBin mean.toNat) 1 := by
  unfold beatWindowOn
  rw [if_neg (by simp [ha, hp])]
  cases h <;> rfl

/-- BEAT_WINDOW: mean and temperature stand in the half's register, and the bin of the mean counts one more. -/
theorem beatWindow_row {s : State} {h : Half} (ha : awake s = true) (hp : halfParked s h = false) (mean : U16) (temp : Byte) :
    ∃ t, exec (.beatWindow h mean temp) s = .next t ∧ getReg t 0 (beatReg h) = mean.toNat + 2 ^ 16 * temp.toNat
      ∧ ∀ j, lifeOf t j = if j = beatLife h + beatBin mean.toNat then (lifeOf s j + 1) % 2 ^ 64 else lifeOf s j := by
  have hreg : isPerFn (beatReg h) = false := by cases h <;> decide
  refine ⟨keep s (beatWindowOn h mean temp s), rfl, ?_, fun j => ?_⟩
  · change getReg (beatWindowOn h mean temp s) 0 (beatReg h) = _
    rw [beatWindowOn_eq ha hp, getReg_addLife (by cases h <;> decide) (by cases h <;> decide), getReg_setReg hreg, if_pos rfl]
    have hm := mean.isLt
    have ht := temp.isLt
    exact Nat.mod_eq_of_lt (by omega)
  · change lifeOf (beatWindowOn h mean temp s) j = _
    obtain ⟨r, e⟩ := setReg_frame hreg s 0 (mean.toNat + 2 ^ 16 * temp.toNat)
    rw [beatWindowOn_eq ha hp, e, lifeOf_addLife]
    split
    case isTrue hj => rw [hj]; rfl
    case isFalse => rfl

/-! ### Pacing: GL_POWER_STATUS (R318 to R322) -/

/-- t differs from s in common registers and the peat log at most. -/
def OnlyPace (s t : State) : Prop := ∃ r p, t = { s with regs := r, peat := p }

theorem OnlyPace.refl (s : State) : OnlyPace s s := ⟨_, _, rfl⟩

theorem OnlyPace.trans {s t u : State} (h : OnlyPace s t) (k : OnlyPace t u) : OnlyPace s u := by
  obtain ⟨_, _, rfl⟩ := h
  obtain ⟨_, _, rfl⟩ := k
  exact ⟨_, _, rfl⟩

theorem OnlyPace.eq {s t : State} (h : OnlyPace s t) : t = { s with regs := t.regs, peat := t.peat } := by
  obtain ⟨_, _, rfl⟩ := h
  rfl

theorem OnlyPace.keep {s t : State} (h : OnlyPace s t) : keep s t = t := by
  obtain ⟨_, _, rfl⟩ := h
  rfl

theorem isPerFn_powerStatus : isPerFn powerStatus = false := by decide

theorem setStatus_pace (s : State) (lo len v : Nat) : OnlyPace s (setFld s powerStatus lo len v) := by
  obtain ⟨r, h⟩ := setFld_frame isPerFn_powerStatus s lo len v
  exact ⟨r, _, h⟩

theorem checkReach_pace (s : State) : OnlyPace s (checkReach s) := by
  unfold checkReach
  dsimp only
  split_ifs
  · exact .refl s
  · obtain ⟨p, h⟩ := logEvent_frame (setFld s powerStatus 21 1 1) (blockId 0x01 4 4) 0x501 noFn
      (toLE 2 (powerLimit s) ++ toLE 2 (fld s powerStatus 0 10))
    exact (setStatus_pace ..).trans ⟨_, p, h⟩
  · exact setStatus_pace ..

theorem getReg_logEvent (s : State) (block code fn : Nat) (payload : List Byte) (g a : Nat) :
    getReg (logEvent s block code fn payload) g a = getReg s g a := by
  obtain ⟨p, h⟩ := logEvent_frame s block code fn payload
  rw [h]
  rfl

/-- Of GL_POWER_STATUS the check of R322 writes UNREACHABLE alone. -/
theorem fld_checkReach {s : State} {lo len : Nat} (h : lo + len ≤ 21 ∨ 22 ≤ lo) :
    fld (checkReach s) powerStatus lo len = fld s powerStatus lo len := by
  unfold checkReach
  dsimp only
  split_ifs
  · rfl
  · unfold fld
    rw [getReg_logEvent]
    exact fld_setFld_other isPerFn_powerStatus (by decide) h
  · exact fld_setFld_other isPerFn_powerStatus (by decide) h

theorem getReg_checkReach {s : State} {a : Nat} (h : a ≠ powerStatus) : getReg (checkReach s) 0 a = getReg s 0 a := by
  unfold checkReach
  dsimp only
  split_ifs
  · rfl
  · rw [getReg_logEvent, getReg_setFld_ne isPerFn_powerStatus h]
  · rw [getReg_setFld_ne isPerFn_powerStatus h]

theorem rho_checkReach (s : State) : rho (checkReach s) = rho s := fld_checkReach (.inl (by decide))

theorem rho_lt (s : State) : rho s < 512 := bits_lt ..

theorem rho_setRho {s : State} {v : Nat} (h : v < 512) : rho (setRho s v) = v :=
  (fld_setFld isPerFn_powerStatus (by decide)).trans (Nat.mod_eq_of_lt h)

/-- A field above ρ leaves it. -/
theorem rho_setFld {s : State} {lo len v : Nat} (h : 19 ≤ lo) (hw : lo + len ≤ 32) : rho (setFld s powerStatus lo len v) = rho s :=
  fld_setFld_other isPerFn_powerStatus hw (.inl h)

/-! #### Power samples -/

/-- The average of the last 100 samples stands in DRAW. -/
def averaged (s : State) (watts mainMv : Nat) : State :=
  let l := (watts :: s.limiter.samples).take 100
  setFld { s with limiter := { s.limiter with samples := l, mainMv } } powerStatus 0 10 (min (l.sum / l.length) 1023)

/-- The paced time of a sample, 10 us while ρ is below 1. -/
def countPaced (s : State) : State := if rho s < 256 then add64 s (reg 4 0x64) 10 else s

theorem noteRail_frame (s : State) (i mv : Nat) : ∃ l, noteRail s i mv = { s with lifetime := l } := by
  unfold noteRail
  dsimp only
  split_ifs
  · exact ⟨_, rfl⟩
  · exact ⟨_, rfl⟩

/-- The rails' lowest voltages are kept in the lifetime store alone. -/
theorem noteRails_frame (s : State) (m a we ea : Nat) :
    ∃ l, (if eastDown (noteRail (noteRail (noteRail s 164 m) 165 a) 166 we) then noteRail (noteRail (noteRail s 164 m) 165 a) 166 we
      else noteRail (noteRail (noteRail (noteRail s 164 m) 165 a) 166 we) 167 ea) = { s with lifetime := l } := by
  obtain ⟨_, h1⟩ := noteRail_frame s 164 m
  rw [h1]
  obtain ⟨_, h2⟩ := noteRail_frame { s with lifetime := _ } 165 a
  rw [h2]
  obtain ⟨_, h3⟩ := noteRail_frame { s with lifetime := _ } 166 we
  rw [h3]
  split
  · exact ⟨_, rfl⟩
  · exact noteRail_frame { s with lifetime := _ } 167 ea

theorem powerSampleOn_eq {s : State} (h : awake s = true) (w m a we ea : Nat) :
    ∃ l, powerSampleOn w m a we ea s = checkReach { countPaced (averaged s w m) with lifetime := l } := by
  obtain ⟨l, hl⟩ := noteRails_frame (countPaced (averaged s w m)) m a we ea
  unfold powerSampleOn
  rw [if_neg (by simp [h])]
  exact ⟨l, congrArg checkReach hl⟩

theorem averaged_frame (s : State) (w m : Nat) :
    ∃ r, averaged s w m = { s with regs := r, limiter := { s.limiter with samples := (w :: s.limiter.samples).take 100, mainMv := m } } := by
  obtain ⟨r, h⟩ := setFld_frame isPerFn_powerStatus
    { s with limiter := { s.limiter with samples := (w :: s.limiter.samples).take 100, mainMv := m } } 0 10
    (min (((w :: s.limiter.samples).take 100).sum / ((w :: s.limiter.samples).take 100).length) 1023)
  exact ⟨r, h⟩

theorem draw_averaged (s : State) (w m : Nat) : fld (averaged s w m) powerStatus 0 10 =
    min (((w :: s.limiter.samples).take 100).sum / ((w :: s.limiter.samples).take 100).length) 1023 :=
  (fld_setFld isPerFn_powerStatus (by decide)).trans (Nat.mod_eq_of_lt (by omega))

theorem rho_averaged (s : State) (w m : Nat) : rho (averaged s w m) = rho s :=
  fld_setFld_other isPerFn_powerStatus (by decide) (.inr (by decide))

theorem get64_averaged (s : State) (w m : Nat) : get64 (averaged s w m) (reg 4 0x64) = get64 s (reg 4 0x64) := by
  unfold get64 averaged
  dsimp only
  rw [getReg_setFld_ne isPerFn_powerStatus (by decide), getReg_setFld_ne isPerFn_powerStatus (by decide)]
  rfl

theorem get64_lt (s : State) (a : Nat) : get64 s a < 2 ^ 64 := by
  have h1 := getReg_lt s 0 a
  have h2 := getReg_lt s 0 (a + 4)
  unfold get64
  omega

theorem get64_countPaced (s : State) :
    get64 (countPaced s) (reg 4 0x64) = (get64 s (reg 4 0x64) + (if rho s < 256 then 10 else 0)) % 2 ^ 64 := by
  unfold countPaced
  split
  · exact get64_add64 (by decide) (by decide)
  · exact (Nat.mod_eq_of_lt (get64_lt ..)).symm

theorem fld_countPaced (s : State) (lo len : Nat) : fld (countPaced s) powerStatus lo len = fld s powerStatus lo len := by
  unfold countPaced
  split
  · exact (fld_setReg_ne (by decide) (by decide)).trans (fld_setReg_ne (by decide) (by decide))
  · rfl

theorem countPaced_limiter (s : State) : (countPaced s).limiter = s.limiter := by
  unfold countPaced
  split
  · obtain ⟨r, f, h⟩ := add64_only s (reg 4 0x64) 10
    rw [h]
  · rfl

/-- POWER_SAMPLE: the average of the last 100 samples, and the time spent paced; ρ stays. -/
theorem powerSample_row {s : State} (h : awake s = true) (w m a we ea : Nat) : ∃ t, exec (.powerSample w m a we ea) s = .next t
    ∧ t.limiter.samples = (w :: s.limiter.samples).take 100 ∧ fld t powerStatus 0 10 = fld (averaged s w m) powerStatus 0 10
    ∧ get64 t (reg 4 0x64) = (get64 s (reg 4 0x64) + (if rho s < 256 then 10 else 0)) % 2 ^ 64 ∧ rho t = rho s := by
  obtain ⟨l, hl⟩ := powerSampleOn_eq h w m a we ea
  refine ⟨keep s (checkReach { countPaced (averaged s w m) with lifetime := l }), ?_, ?_, ?_, ?_, ?_⟩
  · rw [← hl]
    rfl
  · obtain ⟨r, p, hc⟩ := checkReach_pace { countPaced (averaged s w m) with lifetime := l }
    obtain ⟨_, ha⟩ := averaged_frame s w m
    rw [hc]
    change (countPaced (averaged s w m)).limiter.samples = _
    rw [countPaced_limiter, ha]
  · exact (fld_checkReach (.inl (by decide))).trans (fld_countPaced ..)
  · rw [← get64_averaged s w m, ← rho_averaged s w m, ← get64_countPaced]
    exact congrArg₂ (fun lo hi => lo + 2 ^ 32 * hi) (getReg_checkReach (by decide)) (getReg_checkReach (by decide))
  · exact (rho_checkReach _).trans ((fld_countPaced ..).trans (rho_averaged ..))

/-! #### Corrections of ρ and thermal pacing -/

theorem newRho_lt (s : State) (target : Nat) (est : Bool) : newRho s target est < 512 := by
  have h := rho_lt s
  unfold newRho
  dsimp only
  split_ifs <;> omega

/-- Above the limit the measured draw lowers ρ, unless it stands at its least. -/
theorem newRho_lt_rho {s : State} (target : Nat) (hd : powerLimit s < fld s powerStatus 0 10) (hr : 32 < rho s) : newRho s target false < rho s := by
  unfold newRho
  dsimp only
  rw [if_neg Bool.false_ne_true, if_pos hd]
  split <;> omega

/-- Within the limit, and without thermal pacing, it does not. -/
theorem rho_le_newRho {s : State} (target : Nat) (hd : fld s powerStatus 0 10 ≤ powerLimit s) (ht : fld s powerStatus 20 1 = 0) :
    rho s ≤ newRho s target false := by
  unfold newRho
  dsimp only
  rw [if_neg Bool.false_ne_true, if_neg (by omega), if_neg (by omega)]
  omega

/-- RHO_CORRECTION gives ρ its new value (R320). -/
theorem rhoCorrection_row {s : State} (h : awake s = true) (target : Nat) (est : Bool) :
    ∃ t, exec (.rhoCorrection target est) s = .next t ∧ rho t = newRho s target est ∧ OnlyPace s t := by
  have hon : ∃ v, rhoCorrectionOn target est s = checkReach (setFld (setRho s (newRho s target est)) powerStatus 19 1 v) := by
    unfold rhoCorrectionOn
    rw [if_neg (by simp [h])]
    exact ⟨_, rfl⟩
  obtain ⟨v, hv⟩ := hon
  have hpace : OnlyPace s (rhoCorrectionOn target est s) := hv ▸ (setStatus_pace ..).trans ((setStatus_pace ..).trans (checkReach_pace _))
  refine ⟨rhoCorrectionOn target est s, ?_, ?_, hpace⟩
  · rw [← hpace.keep]
    rfl
  · rw [hv, rho_checkReach, rho_setFld (by decide) (by decide), rho_setRho (newRho_lt ..)]

/-- A thermal step sets ρ and the bit THERMAL_PACING. -/
theorem thermalStep_row {s : State} {v b : Nat} (hv : v < 512) (hb : b < 2)
    (h : thermalPacingStepOn s = checkReach (setFld (setRho s v) powerStatus 20 1 b)) :
    ∃ t, exec .thermalPacingStep s = .next t ∧ rho t = v ∧ fld t powerStatus 20 1 = b ∧ OnlyPace s t := by
  have hpace : OnlyPace s (thermalPacingStepOn s) := h ▸ (setStatus_pace ..).trans ((setStatus_pace ..).trans (checkReach_pace _))
  refine ⟨thermalPacingStepOn s, ?_, ?_, ?_, hpace⟩
  · rw [← hpace.keep]
    rfl
  · rw [h, rho_checkReach, rho_setFld (by decide) (by decide), rho_setRho hv]
  · rw [h, fld_checkReach (.inl (by decide)), fld_setFld isPerFn_powerStatus (by decide)]
    exact Nat.mod_eq_of_lt hb

/-- Too hot: ρ falls (R321). -/
theorem thermalPacingStepOn_hot {s : State} (ha : awake s = true) (h : throttleAt s ≤ junction s .west ∨ throttleAt s ≤ junction s .east) :
    thermalPacingStepOn s = checkReach (setFld (setRho s (max 32 (rho s - 8))) powerStatus 20 1 1) := by
  unfold thermalPacingStepOn
  rw [if_neg (by simp [ha]), if_pos h]

/-- Three degrees below T_THROTTLE: ρ rises, and pacing ends when it is 1 again. -/
theorem thermalPacingStepOn_cool {s : State} (ha : awake s = true) (ht : fld s powerStatus 20 1 = 1) (hw : junction s .west + 3 ≤ throttleAt s)
    (he : junction s .east + 3 ≤ throttleAt s) :
    thermalPacingStepOn s = checkReach (setFld (setRho s (min 256 (rho s + 8))) powerStatus 20 1 (if min 256 (rho s + 8) < 256 then 1 else 0)) := by
  unfold thermalPacingStepOn
  rw [if_neg (by simp [ha]), if_neg (by omega), if_pos ⟨ht, hw, he⟩]

/-! #### The power limit -/

/-- GL_POWER_LIMIT is held between 200 and 750 W, and no other register changes. -/
theorem powerLimit_row {s : State} (v : U32) (hs : Answers s 0) : ∃ t, exec (.glPowerLimitWrite 0 v) s = .next t
    ∧ getReg t 0 (reg 4 0x54) = clampWatts (v.toNat % 1024) ∧ (∀ a, a ≠ reg 4 0x54 → getReg t 0 a = getReg s 0 a)
    ∧ ∃ r, t = { s with regs := r } := by
  have hp : isPerFn (reg 4 0x54) = false := by decide
  obtain ⟨r, hr⟩ := setReg_frame hp s 0 (clampWatts (v.toNat % 1024))
  refine ⟨setReg s 0 (reg 4 0x54) (clampWatts (v.toNat % 1024)), ?_, ?_, fun a ha => ?_, r, hr⟩
  · rw [← keep_eq (s := s) (t := setReg ..) (by rw [hr]) (by rw [hr]) (by rw [hr])]
    exact onBar0_eq hs
  · rw [getReg_setReg hp, if_pos rfl]
    unfold clampWatts
    exact Nat.mod_eq_of_lt (by omega)
  · rw [getReg_setReg hp, if_neg ha]

/-- Settles O48: one lemma for each row, on the registers and on all that the row leaves alone. -/
theorem powerRows : Obligations.PowerRows := by
  unfold Obligations.PowerRows
  intro s
  refine ⟨fun v hs => ?_, fun h p hr hp => ?_, fun h mean temp ha hp => ?_, fun w m a we ea h => ?_, fun target est h => ?_,
    fun ha hot => ?_, fun ha ht hw he => ?_, fun v hs => ?_⟩
  · obtain ⟨t, ht, hreq, haim, hpoint, hrail⟩ := ppRequest_row v hs
    exact ⟨t, ht, hreq .west, hreq .east, haim, hpoint, hrail.eq⟩
  · obtain ⟨t, ht, hramp, hpoint, hrail⟩ := ppRampDone_row hr hp
    exact ⟨t, ht, hramp, hpoint, hrail.eq⟩
  · obtain ⟨t, ht, hreg, hlife⟩ := beatWindow_row ha hp mean temp
    refine ⟨t, ht, hreg, ?_⟩
    change lifeOf t (beatLife h + beatBin mean.toNat) = _ ∧ ∀ j, j ≠ beatLife h + beatBin mean.toNat → _
    exact ⟨(hlife _).trans (if_pos rfl), fun j hj => (hlife j).trans (if_neg hj)⟩
  · obtain ⟨t, ht, hsamples, hdraw, hpaced, hrho⟩ := powerSample_row h w m a we ea
    exact ⟨t, ht, ⟨hsamples, hdraw.trans (draw_averaged ..)⟩, hpaced, hrho⟩
  · obtain ⟨t, ht, hrho, hpace⟩ := rhoCorrection_row h target est
    refine ⟨t, ht, hrho, fun he hd hr => ?_, fun he hd hc => ?_, hpace.eq⟩
    · subst he
      exact hrho ▸ newRho_lt_rho target hd hr
    · subst he
      exact hrho ▸ rho_le_newRho target hd hc
  · obtain ⟨t, ht, hrho, hbit, hpace⟩ := thermalStep_row (by have := rho_lt s; omega) (by decide) (thermalPacingStepOn_hot ha hot)
    exact ⟨t, ht, hrho, hbit, hpace.eq⟩
  · obtain ⟨t, ht', hrho, hbit, hpace⟩ := thermalStep_row (by omega) (by split <;> decide) (thermalPacingStepOn_cool ha ht hw he)
    refine ⟨t, ht', hrho, ?_, hpace.eq⟩
    rw [hbit]
    congr 1
    exact propext (by omega)
  · obtain ⟨t, ht, hlimit, hrest, r, hr⟩ := powerLimit_row v hs
    exact ⟨t, ht, hlimit, hrest, by rw [hr]⟩

end Sys2Proof.Machine

/-! # Decisions of a problem lane (O28 to O31)

What reads of state bits return after writes, the winner as an invariant of the scan over the lanes (R75), what a committed decision
changes, what group repair leaves at 1 (R70), and then a lemma for each outcome of DECISION and MASK_DELIVERY. -/

namespace Sys2Proof.Machine

/-! ### State bits -/

theorem bitAt_set (x : List Bool) (i v : Nat) (b : Bool) :
    bitAt (x.set i b) v = if i = v ∧ i < x.length then b else bitAt x v := by
  unfold bitAt
  rw [List.getD_eq_getElem?_getD, List.getD_eq_getElem?_getD, List.getElem?_set]
  by_cases hv : i = v
  · subst hv
    by_cases hi : i < x.length <;> simp [hi]
  · simp [hv]

theorem bitAt_set_ne {x : List Bool} {i v : Nat} (b : Bool) (h : v ≠ i) : bitAt (x.set i b) v = bitAt x v := by
  rw [bitAt_set, if_neg (fun e => h e.1.symm)]

/-- A move writes the bits of its own variables alone (R76). -/
theorem bitAt_moveBits {x : List Bool} {m : Move} {v : Nat} (h : v ∉ Move.vars m) : bitAt (moveBits x m) v = bitAt x v := by
  unfold Move.vars at h
  unfold moveBits
  cases hc : m.cand with
  | none => rfl
  | flip =>
    simp only [hc, List.mem_singleton] at h
    exact bitAt_set_ne _ h
  | swap i =>
    simp only [hc, List.mem_cons, List.not_mem_nil, or_false, not_or] at h
    exact (bitAt_set_ne _ h.2).trans (bitAt_set_ne _ h.1)

/-! ### The winner (R74, R75) -/

/-- Lane j draws g among gens and accepts its candidate. -/
def Takes (l : Lane) (gens : List U64) (j : Nat) (g : U64) : Prop :=
  gens[j]? = some g ∧ accepts l j (candidate l.x l.groups j) g = true

theorem Takes.lt {l : Lane} {gens : List U64} {j : Nat} {g : U64} (h : Takes l gens j g) : j < gens.length :=
  (List.getElem?_eq_some_iff.mp h.1).1

/-- One lane more: its own draw is the only new one. -/
theorem takes_concat {l : Lane} {gens : List U64} {j : Nat} {g g' : U64} :
    Takes l (gens ++ [g]) j g' ↔ Takes l gens j g' ∨ (j = gens.length ∧ g' = g ∧ accepts l j (candidate l.x l.groups j) g = true) := by
  unfold Takes
  rcases lt_trichotomy j gens.length with hj | hj | hj
  · rw [List.getElem?_append_left hj]
    simp [hj.ne]
  · subst hj
    simp only [List.getElem?_concat_length, List.getElem?_eq_none le_rfl, Option.some.injEq, reduceCtorEq, false_and, false_or, true_and]
    exact ⟨fun ⟨e, h⟩ => ⟨e.symm, e ▸ h⟩, fun ⟨e, h⟩ => ⟨e.symm, e ▸ h⟩⟩
  · have h1 : (gens ++ [g])[j]? = none := List.getElem?_eq_none (by simpa using hj)
    have h2 : gens[j]? = none := List.getElem?_eq_none hj.le
    simp [h1, h2, hj.ne']

/-- What the scan holds after the lanes of gens: nothing when none accepts, else key and lane of the accepting lane of smallest key, of equal
keys the lowest. -/
def IsBest (l : Lane) (gens : List U64) : Option (Nat × Nat) → Prop
  | none => ∀ j g, ¬ Takes l gens j g
  | some b => ∃ g, Takes l gens b.2 g ∧ b.1 = keyOf g
      ∧ ∀ j g', Takes l gens j g' → keyOf g < keyOf g' ∨ (keyOf g = keyOf g' ∧ b.2 ≤ j)

/-- The scan's step: what it holds once lane k has drawn g. -/
def scanLane (l : Lane) (k : Nat) (best : Option (Nat × Nat)) (g : U64) : Option (Nat × Nat) :=
  if accepts l k (candidate l.x l.groups k) g then
    match best with
    | some b => if keyOf g < b.1 then some (keyOf g, k) else best
    | none => some (keyOf g, k)
  else best

theorem bestLane_cons (l : Lane) (k : Nat) (best : Option (Nat × Nat)) (g : U64) (gens : List U64) :
    bestLane l k best (g :: gens) = bestLane l (k + 1) (scanLane l k best g) gens := rfl

/-- A lane that does not accept changes nothing. -/
theorem IsBest.concat_idle {l : Lane} {gens : List U64} {best : Option (Nat × Nat)} {g : U64} (h : IsBest l gens best)
    (ha : accepts l gens.length (candidate l.x l.groups gens.length) g = false) : IsBest l (gens ++ [g]) best := by
  have hsame : ∀ j g', Takes l (gens ++ [g]) j g' ↔ Takes l gens j g' := by
    intro j g'
    rw [takes_concat]
    refine or_iff_left ?_
    rintro ⟨rfl, -, h⟩
    exact absurd (ha.symm.trans h) Bool.false_ne_true
  cases best <;> simpa only [IsBest, hsame] using h

/-- A lane that accepts with a smaller key than all before it is the best. -/
theorem isBest_concat_new {l : Lane} {gens : List U64} {g : U64}
    (ha : accepts l gens.length (candidate l.x l.groups gens.length) g = true)
    (hless : ∀ j g', Takes l gens j g' → keyOf g < keyOf g') : IsBest l (gens ++ [g]) (some (keyOf g, gens.length)) := by
  refine ⟨g, takes_concat.mpr (.inr ⟨rfl, rfl, ha⟩), rfl, fun j g' h => ?_⟩
  rcases takes_concat.mp h with h | ⟨rfl, rfl, -⟩
  · exact .inl (hless j g' h)
  · exact .inr ⟨rfl, le_rfl⟩

theorem IsBest.scanLane {l : Lane} {gens : List U64} {best : Option (Nat × Nat)} (g : U64) (h : IsBest l gens best) :
    IsBest l (gens ++ [g]) (scanLane l gens.length best g) := by
  unfold Machine.scanLane
  split
  case isFalse ha => exact h.concat_idle (Bool.eq_false_iff.mpr ha)
  case isTrue ha =>
    cases best with
    | none => exact isBest_concat_new ha (fun j g' ht => absurd ht (h j g'))
    | some b =>
      obtain ⟨gb, hb, hkey, hmin⟩ := h
      dsimp only
      split
      case isTrue hlt =>
        refine isBest_concat_new ha (fun j g' ht => ?_)
        rcases hmin j g' ht with hj | ⟨hj, -⟩ <;> omega
      case isFalse hle =>
        refine ⟨gb, takes_concat.mpr (.inl hb), hkey, fun j g' ht => ?_⟩
        rcases takes_concat.mp ht with ht | ⟨rfl, rfl, -⟩
        · exact hmin j g' ht
        · have := hb.lt
          omega

/-- The scan over the lanes from the first one that is left. -/
theorem IsBest.bestLane {l : Lane} {pre : List U64} {best : Option (Nat × Nat)} (gens : List U64) (h : IsBest l pre best) :
    IsBest l (pre ++ gens) (bestLane l pre.length best gens) := by
  induction gens generalizing pre best with
  | nil => exact (List.append_nil pre).symm ▸ h
  | cons g gens ih =>
    have hnext := ih (h.scanLane g)
    rw [List.append_assoc, List.length_append] at hnext
    exact hnext

theorem isBest_bestLane (l : Lane) (gens : List U64) : IsBest l gens (bestLane l 0 none gens) :=
  IsBest.bestLane (pre := []) gens (fun _ _ h => absurd h.lt (Nat.not_lt_zero _))

theorem winner_none {l : Lane} {gens : List U64} (h : winner l gens = none) : ∀ j g, ¬ Takes l gens j g := by
  have hbest := isBest_bestLane l gens
  rw [Option.map_eq_none_iff.mp h] at hbest
  exact hbest

/-- The winner's move is its lane's candidate with the energy of Table 3-4. -/
theorem winner_some {l : Lane} {gens : List U64} {m : Move} (h : winner l gens = some m) :
    (∃ g, Takes l gens m.k g ∧ ∀ j g', Takes l gens j g' → keyOf g < keyOf g' ∨ (keyOf g = keyOf g' ∧ m.k ≤ j))
      ∧ m.cand = candidate l.x l.groups m.k := by
  obtain ⟨b, hb, rfl⟩ := Option.map_eq_some_iff.mp h
  have hbest := isBest_bestLane l gens
  rw [hb] at hbest
  obtain ⟨g, ht, -, hmin⟩ := hbest
  exact ⟨⟨g, ht, hmin⟩, rfl⟩

/-! ### What a committed decision changes (R75 to R77) -/

/-- What a decision counts and moves. -/
structure LaneTally where
  decisions : Nat
  moves : Nat
  idle : Nat
  x : List Bool
  field : List Int
  energy : Int

def Lane.tally (l : Lane) : LaneTally :=
  { decisions := l.decisions, moves := l.moves, idle := l.idle, x := l.x, field := l.field, energy := l.energy }

/-- A decision's arming sets temperatures and the wisp offset alone. -/
theorem armLane_frame (p : Prob) (l : Lane) : ∃ tx w base te, armLane p l = { l with tx, wisp := w, base, te } := by
  unfold armLane
  dsimp only
  split <;> exact ⟨_, _, _, _, rfl⟩

theorem tally_armLane (p : Prob) (l : Lane) : (armLane p l).tally = l.tally := by
  obtain ⟨_, _, _, _, h⟩ := armLane_frame p l
  rw [h]
  rfl

theorem armLane_x (p : Prob) (l : Lane) : (armLane p l).x = l.x := congrArg LaneTally.x (tally_armLane p l)

theorem armLane_groups (p : Prob) (l : Lane) : (armLane p l).groups = l.groups := by
  obtain ⟨_, _, _, _, h⟩ := armLane_frame p l
  rw [h]

/-- The schedule's advance moves the schedule position alone. -/
theorem tally_nextPlace (p : Prob) (l : Lane) : (nextPlace p l).tally = l.tally := by
  unfold nextPlace
  split
  · rfl
  · split <;> rfl

/-- Masks and penalties are delivered beside it. -/
theorem tally_deliver_ite (l : Lane) (touched : Bool) (w : Nat) :
    Lane.tally { (if touched then deliver l else l) with wisp := w } = l.tally := by
  cases touched <;> rfl

theorem decide'_eq (p : Prob) (l : Lane) :
    decide' p l = (armLane p l, (armLane p l).gens.map advance, winner (armLane p l) ((armLane p l).gens.map advance)) := rfl

/-- An idle decision. -/
theorem commit_idle {p : Prob} {l : Lane} (h : (decide' p l).2.2 = none) :
    (commit p l).tally = { l.tally with decisions := l.decisions + 1, idle := l.idle + 1 } := by
  rw [decide'_eq] at h
  dsimp only at h
  unfold commit
  rw [decide'_eq]
  dsimp only
  rw [h, tally_nextPlace]
  change { (armLane p l).tally with decisions := (armLane p l).tally.decisions + 1, idle := (armLane p l).tally.idle + 1 } = _
  rw [tally_armLane]
  rfl

/-- A decision with a move, whether or not the constraint engine answers it. -/
theorem commit_move {p : Prob} {l : Lane} {m : Move} (h : (decide' p l).2.2 = some m) :
    (commit p l).tally =
      { l.tally with decisions := l.decisions + 1, moves := l.moves + 1, x := moveBits l.x m, field := moveFields (armLane p l) m
                     energy := l.energy + m.delta } := by
  rw [decide'_eq] at h
  dsimp only at h
  unfold commit
  rw [decide'_eq]
  dsimp only
  rw [h, tally_nextPlace]
  refine (tally_deliver_ite ..).trans ?_
  change { (armLane p l).tally with
    decisions := (armLane p l).tally.decisions + 1, moves := (armLane p l).tally.moves + 1, x := moveBits (armLane p l).tally.x m
    field := moveFields (armLane p l) m, energy := (armLane p l).tally.energy + m.delta } = _
  rw [tally_armLane]
  rfl

theorem commit_decisions (p : Prob) (l : Lane) : (commit p l).decisions = l.decisions + 1 := by
  cases h : (decide' p l).2.2 with
  | none => exact congrArg LaneTally.decisions (commit_idle h)
  | some m => exact congrArg LaneTally.decisions (commit_move h)

/-- Settles O29: a commit's effect on what it counts and moves (`commit_idle`, `commit_move`), and the bits that a move writes. -/
theorem decisionEffect : Obligations.DecisionEffect := by
  unfold Obligations.DecisionEffect
  refine fun p l => ⟨commit_decisions p l, fun h => ?_, fun m h => ?_⟩
  · have hc := commit_idle h
    exact ⟨congrArg LaneTally.idle hc, congrArg LaneTally.moves hc, congrArg LaneTally.x hc, congrArg LaneTally.field hc,
      congrArg LaneTally.energy hc⟩
  · have hc := commit_move h
    have hx : (commit p l).x = moveBits l.x m := congrArg LaneTally.x hc
    exact ⟨congrArg LaneTally.moves hc, congrArg LaneTally.idle hc, congrArg LaneTally.energy hc, fun v hv => hx ▸ bitAt_moveBits hv⟩

/-- Settles O30: the scan over the lanes keeps the best accepting lane so far (`isBest_bestLane`), and the commit applies its move. -/
theorem winnerRule : Obligations.WinnerRule := by
  unfold Obligations.WinnerRule
  refine fun p l => ⟨fun h => ?_, fun m h => ?_⟩
  · exact ⟨winner_none h, congrArg LaneTally.x (commit_idle h), commit_decisions p l⟩
  · obtain ⟨hbest, hcand⟩ := winner_some h
    rw [armLane_x, armLane_groups] at hcand
    exact ⟨hbest, hcand, congrArg LaneTally.x (commit_move h), commit_decisions p l⟩

/-! ### Group repair (R70) -/

/-- Members at 0, ascending. -/
def offMembers (x : List Bool) (g : Group) : List Nat := g.members.filter (fun i => !bitAt x i)

/-- x with the variables vs at b. -/
def setBits (b : Bool) (vs : List Nat) (x : List Bool) : List Bool := vs.foldl (fun x i => x.set i b) x

theorem length_setBits (b : Bool) (vs : List Nat) (x : List Bool) : (setBits b vs x).length = x.length := by
  induction vs generalizing x with
  | nil => rfl
  | cons i vs ih => exact (ih _).trans List.length_set

theorem bitAt_setBits {b : Bool} {vs : List Nat} {x : List Bool} (h : ∀ i ∈ vs, i < x.length) (v : Nat) :
    bitAt (setBits b vs x) v = if v ∈ vs then b else bitAt x v := by
  induction vs generalizing x with
  | nil => rfl
  | cons i vs ih =>
    have hi : i < x.length := h i List.mem_cons_self
    change bitAt (setBits b vs (x.set i b)) v = _
    rw [ih (fun j hj => List.length_set (as := x) ▸ h j (List.mem_cons_of_mem i hj)), bitAt_set]
    by_cases hv : v ∈ vs
    · simp [hv]
    · simp [hv, hi, eq_comm]

theorem length_onMembers_add_offMembers (x : List Bool) (g : Group) : (onMembers x g).length + (offMembers x g).length = g.members.length :=
  (List.length_eq_length_filter_add (bitAt x)).symm

/-- Both directions at once: repair clears the members at 1 from the K-th on, and sets as many at 0 as are missing. -/
theorem repairGroup_fst (x : List Bool) (g : Group) : (repairGroup x g).1 =
    setBits true ((offMembers x g).take (g.k - (onMembers x g).length)) (setBits false ((onMembers x g).drop g.k) x) := by
  unfold repairGroup
  dsimp only
  split_ifs with heq hlt
  · rw [← heq, List.drop_length, Nat.sub_self]
    rfl
  · rw [Nat.sub_eq_zero_of_le hlt.le]
    rfl
  · rw [List.drop_eq_nil_of_le (by omega)]
    rfl

theorem repairGroup_snd (x : List Bool) (g : Group) : (repairGroup x g).2 = true ↔ (onMembers x g).length ≠ g.k := by
  unfold repairGroup
  dsimp only
  split_ifs with heq hlt <;> simp [heq]

/-- In an ascending list the first n are those that fewer than n precede. -/
theorem mem_take_iff_rank {l : List Nat} (h : l.Pairwise (· < ·)) {v n : Nat} (hv : v ∈ l) :
    v ∈ l.take n ↔ (l.filter (· < v)).length < n := by
  induction l generalizing n with
  | nil => cases hv
  | cons a l ih =>
    obtain ⟨ha, hl⟩ := List.pairwise_cons.mp h
    cases n with
    | zero => simp
    | succ n =>
      rw [List.take_succ_cons, List.mem_cons]
      rcases List.mem_cons.mp hv with rfl | hv
      · have hnone : l.filter (· < v) = [] := List.filter_eq_nil_iff.mpr (fun b hb => by have := ha b hb; simp; omega)
        simp [hnone]
      · have hav := ha v hv
        rw [List.filter_cons_of_pos (by simpa using hav), List.length_cons, ih hl hv]
        omega

theorem mem_drop_iff_not_mem_take {l : List Nat} (h : l.Nodup) {v : Nat} (n : Nat) (hv : v ∈ l) : v ∈ l.drop n ↔ v ∉ l.take n := by
  refine ⟨fun hd ht => List.disjoint_take_drop h le_rfl ht hd, fun ht => ?_⟩
  rw [← List.take_append_drop n l, List.mem_append] at hv
  exact hv.resolve_left ht

theorem countP_mem_take {l : List Nat} (h : l.Nodup) (n : Nat) : l.countP (fun v => decide (v ∈ l.take n)) = min n l.length := by
  have hd : (l.drop n).countP (fun v => decide (v ∈ l.take n)) = 0 :=
    List.countP_eq_zero.mpr (fun v hv => by simpa using fun ht => List.disjoint_take_drop h le_rfl ht hv)
  have ht : (l.take n).countP (fun v => decide (v ∈ l.take n)) = (l.take n).length := List.countP_eq_length.mpr (fun v hv => by simpa using hv)
  calc l.countP (fun v => decide (v ∈ l.take n))
      = (l.take n ++ l.drop n).countP (fun v => decide (v ∈ l.take n)) := by rw [List.take_append_drop]
    _ = min n l.length := by rw [List.countP_append, ht, hd, List.length_take, Nat.add_zero]

section
variable {x : List Bool} {g : Group}

theorem mem_onMembers {v : Nat} : v ∈ onMembers x g ↔ v ∈ g.members ∧ bitAt x v = true := List.mem_filter
theorem mem_offMembers {v : Nat} : v ∈ offMembers x g ↔ v ∈ g.members ∧ bitAt x v = false := by simp [offMembers]

theorem bitAt_repairGroup (hin : ∀ i ∈ g.members, i < x.length) (v : Nat) : bitAt (repairGroup x g).1 v =
    if v ∈ (offMembers x g).take (g.k - (onMembers x g).length) then true else if v ∈ (onMembers x g).drop g.k then false else bitAt x v := by
  have hon : ∀ i ∈ (onMembers x g).drop g.k, i < x.length := fun i hi => hin i (mem_onMembers.mp (List.mem_of_mem_drop hi)).1
  have hoff : ∀ i ∈ (offMembers x g).take (g.k - (onMembers x g).length), i < (setBits false ((onMembers x g).drop g.k) x).length :=
    fun i hi => (length_setBits false _ x).symm ▸ hin i (mem_offMembers.mp (List.mem_of_mem_take hi)).1
  rw [repairGroup_fst, bitAt_setBits hoff, bitAt_setBits hon]

theorem bitAt_repairGroup_other (hin : ∀ i ∈ g.members, i < x.length) {v : Nat} (hv : v ∉ g.members) :
    bitAt (repairGroup x g).1 v = bitAt x v := by
  rw [bitAt_repairGroup hin, if_neg (fun h => hv (mem_offMembers.mp (List.mem_of_mem_take h)).1),
    if_neg (fun h => hv (mem_onMembers.mp (List.mem_of_mem_drop h)).1)]

/-- A member at 1 stays when it is one of the K lowest. -/
theorem bitAt_repairGroup_on (hin : ∀ i ∈ g.members, i < x.length) (hnodup : (onMembers x g).Nodup) {v : Nat} (hv : v ∈ onMembers x g) :
    bitAt (repairGroup x g).1 v = decide (v ∈ (onMembers x g).take g.k) := by
  have hbit := (mem_onMembers.mp hv).2
  have hoff : v ∉ (offMembers x g).take (g.k - (onMembers x g).length) :=
    fun h => Bool.false_ne_true ((mem_offMembers.mp (List.mem_of_mem_take h)).2.symm.trans hbit)
  rw [bitAt_repairGroup hin, if_neg hoff, hbit]
  by_cases ht : v ∈ (onMembers x g).take g.k <;> simp [mem_drop_iff_not_mem_take hnodup g.k hv, ht]

/-- A member at 0 is set when it is one of the lowest that are missing. -/
theorem bitAt_repairGroup_off (hin : ∀ i ∈ g.members, i < x.length) {v : Nat} (hv : v ∈ offMembers x g) :
    bitAt (repairGroup x g).1 v = decide (v ∈ (offMembers x g).take (g.k - (onMembers x g).length)) := by
  have hbit := (mem_offMembers.mp hv).2
  have hon : v ∉ (onMembers x g).drop g.k :=
    fun h => Bool.false_ne_true (hbit.symm.trans (mem_onMembers.mp (List.mem_of_mem_drop h)).2)
  rw [bitAt_repairGroup hin, if_neg hon, hbit]
  by_cases ht : v ∈ (offMembers x g).take (g.k - (onMembers x g).length) <;> simp [ht]

/-- Exactly K members are at 1: of those that were, the K lowest, and of the others as many as were missing. -/
theorem length_onMembers_repairGroup (hin : ∀ i ∈ g.members, i < x.length) (hon : (onMembers x g).Nodup) (hoff : (offMembers x g).Nodup)
    (hk : g.k ≤ g.members.length) : (onMembers (repairGroup x g).1 g).length = g.k := by
  have hfromOn : (onMembers x g).countP (bitAt (repairGroup x g).1) = min g.k (onMembers x g).length :=
    (List.countP_congr fun v hv => by rw [bitAt_repairGroup_on hin hon hv]).trans (countP_mem_take hon g.k)
  have hfromOff : (offMembers x g).countP (bitAt (repairGroup x g).1) = min (g.k - (onMembers x g).length) (offMembers x g).length :=
    (List.countP_congr fun v hv => by rw [bitAt_repairGroup_off hin hv]).trans (countP_mem_take hoff _)
  have htotal := length_onMembers_add_offMembers x g
  calc (onMembers (repairGroup x g).1 g).length
      = g.members.countP (bitAt (repairGroup x g).1) := List.countP_eq_length_filter.symm
    _ = (onMembers x g).countP (bitAt (repairGroup x g).1) + (offMembers x g).countP (bitAt (repairGroup x g).1) :=
        List.countP_eq_countP_filter_add ..
    _ = g.k := by omega

end

/-- Settles O31: members at 1 and members at 0 are followed through the repair apart, and counted apart. -/
theorem groupRepair : Obligations.GroupRepair := by
  unfold Obligations.GroupRepair
  intro x g hasc hin hk
  have hon : (onMembers x g).Pairwise (· < ·) := hasc.filter _
  have hoff : (offMembers x g).Pairwise (· < ·) := hasc.filter _
  refine ⟨length_onMembers_repairGroup hin hon.nodup hoff.nodup hk, fun v hv => bitAt_repairGroup_other hin hv,
    fun v hv => ?_, repairGroup_snd x g⟩
  change _ = if g.k ≤ (onMembers x g).length then bitAt x v && decide (((onMembers x g).filter (· < v)).length < g.k)
    else bitAt x v || decide (((offMembers x g).filter (· < v)).length < g.k - (onMembers x g).length)
  cases hbit : bitAt x v with
  | true =>
    have hmem : v ∈ onMembers x g := mem_onMembers.mpr ⟨hv, hbit⟩
    have hrank : ((onMembers x g).filter (· < v)).length ≤ (onMembers x g).length := List.length_filter_le ..
    rw [bitAt_repairGroup_on hin hon.nodup hmem, decide_eq_decide.mpr (mem_take_iff_rank hon hmem)]
    split
    case isTrue => rfl
    case isFalse h => simpa using (by omega)
  | false =>
    have hmem : v ∈ offMembers x g := mem_offMembers.mpr ⟨hv, hbit⟩
    rw [bitAt_repairGroup_off hin hmem, decide_eq_decide.mpr (mem_take_iff_rank hoff hmem)]
    split
    case isTrue h => simp [Nat.sub_eq_zero_of_le h]
    case isFalse => rfl

/-! ### Pacing (R319) -/

@[simp] theorem paceOf_setPace (s : State) (k j a : Nat) : paceOf (setPace s k a) j = if j = k then a else paceOf s j := tget_tset _ _ _ _ _

theorem paceStep_runs {s : State} {k : Nat} (h : 256 ≤ rho s) : (paceStep s k).1 = true := by
  unfold paceStep
  rw [if_pos (by omega)]

/-- A pace step writes the engine's accumulator alone. -/
theorem paceStep_frame (s : State) (k : Nat) : ∃ a, (paceStep s k).2 = setPace s k a := by
  unfold paceStep
  dsimp only
  split <;> exact ⟨_, rfl⟩

theorem paceOf_paceStep_other {s : State} {k j : Nat} (h : j ≠ k) : paceOf (paceStep s k).2 j = paceOf s j := by
  obtain ⟨a, ha⟩ := paceStep_frame s k
  rw [ha, paceOf_setPace, if_neg h]

theorem paceOf_paceStep_same {s : State} {k : Nat} (hp : paceOf s k < 256) (hr : rho s ≤ 256) :
    paceOf (paceStep s k).2 k = (paceOf s k + rho s) % 256 := by
  unfold paceStep
  dsimp only
  split
  · rw [paceOf_setPace, if_pos rfl]
    omega
  · rw [paceOf_setPace, if_pos rfl]
    omega

theorem laneOf_paceStep (s : State) (k j : Nat) : laneOf (paceStep s k).2 j = laneOf s j := by
  obtain ⟨a, ha⟩ := paceStep_frame s k
  rw [ha]
  rfl

theorem countCEs_only (s : State) (page n : Nat) : OnlyFlags s (countCEs s page n) := by
  unfold countCEs
  split
  · exact .refl s
  · exact (addSat_only ..).flags.trans (setErrStat_only ..)

theorem laneOf_countCEs (s : State) (page n j : Nat) : laneOf (countCEs s page n) j = laneOf s j := by
  obtain ⟨_, _, _, h⟩ := countCEs_only s page n
  rw [h]
  rfl

/-! ### DECISION -/

/-- A decision that is made, in the state that its pace step and its reads leave. -/
def decided (w : State) (tile lane : Nat) (p : Prob) (l : Lane) : State :=
  match (decide' p l).2.2 with
  | some m => if touches l m then passMove w tile lane m else afterDecision w (laneKey tile lane) p (commit p l) true
  | none => afterDecision w (laneKey tile lane) p (commit p l) false

section
variable {w : State} {tile lane : Nat} {p : Prob} {l : Lane} {m : Move}

theorem decided_idle (hd : (decide' p l).2.2 = none) :
    decided w tile lane p l = afterDecision w (laneKey tile lane) p (commit p l) false := by
  unfold decided
  rw [hd]

theorem decided_commits (hd : (decide' p l).2.2 = some m) (ht : touches l m = false) :
    decided w tile lane p l = afterDecision w (laneKey tile lane) p (commit p l) true := by
  unfold decided
  rw [hd]
  exact if_neg (Bool.eq_false_iff.mp ht)

theorem decided_passes (hd : (decide' p l).2.2 = some m) (ht : touches l m = true) :
    decided w tile lane p l = passMove w tile lane m := by
  unfold decided
  rw [hd]
  exact if_pos ht

end

section
variable {s : State} {tile lane : Nat} {p : Prob}
  (hp : probOf s (laneOf s (laneKey tile lane)).queue (laneOf s (laneKey tile lane)).problem = some p) (hm : mayDecide s tile lane = true)
include hp hm

/-- Paced, and the accumulator does not reach 256: an idle beat. -/
theorem decisionOn_paced (hrun : (paceStep s (engineKey .anneal tile)).1 = false) (corrected : Nat) :
    decisionOn tile lane corrected s = (paceStep s (engineKey .anneal tile)).2 := by
  have hstep : paceStep s (engineKey .anneal tile) = (false, (paceStep s (engineKey .anneal tile)).2) := Prod.ext hrun rfl
  unfold decisionOn
  dsimp only
  rw [hm, hp, hstep]
  rfl

theorem decisionOn_runs (hrun : (paceStep s (engineKey .anneal tile)).1 = true) (corrected : Nat) :
    decisionOn tile lane corrected s =
      decided (countCEs (paceStep s (engineKey .anneal tile)).2 (256 + tile) corrected) tile lane p (laneOf s (laneKey tile lane)) := by
  have hstep : paceStep s (engineKey .anneal tile) = (true, (paceStep s (engineKey .anneal tile)).2) := Prod.ext hrun rfl
  unfold decisionOn
  dsimp only
  rw [hm, hp, hstep]
  rfl

end

/-! ### The wait for MASK and PEN (R79, R131) -/

/-- The lanes of keys contend for the engine's first beat. -/
def contend (s : State) (keys : List Nat) : State := keys.foldl (fun s k => setLane s k { laneOf s k with contended := true }) s

/-- Contention is noted in the lane and leaves the rest of it. -/
theorem laneOf_contend (s : State) (keys : List Nat) (j : Nat) : ∃ b, laneOf (contend s keys) j = { laneOf s j with contended := b } := by
  induction keys generalizing s with
  | nil => exact ⟨_, rfl⟩
  | cons k keys ih =>
    obtain ⟨b, hb⟩ := ih (setLane s k { laneOf s k with contended := true })
    refine ⟨b, hb.trans ?_⟩
    rw [laneOf_setLane]
    split
    case isTrue h => rw [h]
    case isFalse => rfl

/-- A lane once its move is passed to the engine. -/
def passedLane (l : Lane) (m : Move) (contended : Bool) : Lane := { l with waiting := true, moved := Move.vars m, contended }

theorem passMove_eq (s : State) (tile lane : Nat) (m : Move) : passMove s tile lane m = setLane (contend s (rivals s tile)) (laneKey tile lane)
    (passedLane (laneOf (contend s (rivals s tile)) (laneKey tile lane)) m (!(rivals s tile).isEmpty)) := rfl

/-- The lane whose move is passed waits, and contends when another already waits there. -/
theorem laneOf_passMove (s : State) (tile lane : Nat) (m : Move) :
    laneOf (passMove s tile lane m) (laneKey tile lane) = passedLane (laneOf s (laneKey tile lane)) m (!(rivals s tile).isEmpty) := by
  obtain ⟨b, hb⟩ := laneOf_contend s (rivals s tile) (laneKey tile lane)
  rw [passMove_eq, laneOf_setLane, if_pos rfl, hb]
  rfl

/-! ### MASK_DELIVERY -/

theorem maskDeliveryOn_eq {s : State} {tile lane : Nat} {p : Prob} {m : Move} (second corrected : Bool)
    (hp : probOf s (laneOf s (laneKey tile lane)).queue (laneOf s (laneKey tile lane)).problem = some p)
    (hrun : (laneOf s (laneKey tile lane)).running = true) (hwait : (laneOf s (laneKey tile lane)).waiting = true)
    (hd : (decide' p (laneOf s (laneKey tile lane))).2.2 = some m) :
    maskDeliveryOn tile lane second corrected s = afterDecision (if corrected then countCE s (768 + tile / 2) else s) (laneKey tile lane) p
      (commit p (waited (laneOf s (laneKey tile lane))
        (waitBeats (laneOf s (laneKey tile lane)) m (second && (laneOf s (laneKey tile lane)).contended && tile % 2 == 1) corrected))) true := by
  unfold maskDeliveryOn
  dsimp only
  rw [hrun, hwait, hp]
  dsimp only
  rw [hd]
  rfl

/-- Settles O28: a lemma for each outcome of DECISION, and one for MASK_DELIVERY. -/
theorem decisionRows : Obligations.DecisionRows := by
  unfold Obligations.DecisionRows
  intro s tile lane p htile hlane key l hp
  refine ⟨fun hm corrected => ⟨fun hrun => ?_, fun hrun => ?_, paceStep_runs,
    fun hpace hrho => ⟨fun k => paceOf_paceStep_other, paceOf_paceStep_same hpace hrho⟩⟩, fun m second corrected hrun hwait hd => ?_⟩
  · rw [← decisionOn_paced hp hm hrun corrected]
    exact onLane_eq htile hlane
  · have hexec : exec (.decision tile ⟨lane, corrected⟩) s = .next (keep s
        (decided (countCEs (paceStep s (engineKey .anneal tile)).2 (256 + tile) corrected) tile lane p l)) := by
      rw [← decisionOn_runs hp hm hrun corrected]
      exact onLane_eq htile hlane
    refine ⟨fun hd => ?_, fun m hd ht => ?_, fun m hd ht => ⟨?_, ?_⟩⟩
    · rw [hexec, decided_idle hd]
    · rw [hexec, decided_commits hd ht]
    · rw [hexec, decided_passes hd ht]
    · rw [laneOf_passMove, laneOf_countCEs, laneOf_paceStep]
      exact ⟨rfl, rfl, rfl, rfl⟩
  · refine (onLane_eq htile hlane).trans ?_
    rw [maskDeliveryOn_eq second corrected hp hrun hwait hd]
    rfl

end Sys2Proof.Machine

/-! # The starfield (O32)

R107's order of keys as a linear order, what one offer makes of the kept states (R108), what a sequence of offers leaves, which fixes the
kept entries whatever its order, and then a lemma for each outcome of STARFIELD_OFFER. -/

namespace Sys2Proof.Machine

/-! ### The order of keys (R107) -/

/-- The key of a state: its energy, then its state bits. -/
def starKey (a : Star) : Int ×ₗ Nat := toLex (a.energy, a.bits)

theorem starBefore_iff {a b : Star} : starBefore a b = true ↔ starKey a < starKey b := by
  simp [starBefore, starKey, Prod.Lex.toLex_lt_toLex]

theorem starKey_eq_iff {a b : Star} : starKey a = starKey b ↔ a.energy = b.energy ∧ a.bits = b.bits := by
  simp [starKey]

/-- States that differ have different keys, so one of them comes first. -/
theorem starKey_lt_of_not_lt {a b : Star} (hne : a.bits ≠ b.bits) (h : ¬ starKey a < starKey b) : starKey b < starKey a :=
  lt_of_le_of_ne (not_lt.1 h) fun e => hne (starKey_eq_iff.1 e).2.symm

/-! ### A state is inserted in its place -/

theorem insertKey_eq_orderedInsert (x : Star) (l : List Star) : insertKey x l = l.orderedInsert (fun a b => starBefore a b = true) x := by
  induction l with
  | nil => rfl
  | cons y l ih => rw [insertKey, List.orderedInsert_cons, ih]

theorem insertKey_perm (x : Star) (l : List Star) : (insertKey x l).Perm (x :: l) :=
  insertKey_eq_orderedInsert x l ▸ List.perm_orderedInsert _ x l

theorem insertKey_pairwise {x : Star} {l : List Star} (h : l.Pairwise (fun a b => starKey a < starKey b)) (hx : ∀ y ∈ l, x.bits ≠ y.bits) :
    (insertKey x l).Pairwise (fun a b => starKey a < starKey b) := by
  induction l with
  | nil => exact List.pairwise_singleton _ _
  | cons y l ih =>
    obtain ⟨hy, hl⟩ := List.pairwise_cons.1 h
    obtain ⟨hxy, hxl⟩ := List.forall_mem_cons.1 hx
    rw [insertKey]
    split
    case isTrue hlt =>
      have hlt := starBefore_iff.1 hlt
      exact List.pairwise_cons.2 ⟨List.forall_mem_cons.2 ⟨hlt, fun z hz => hlt.trans (hy z hz)⟩, h⟩
    case isFalse hge =>
      have hyx := starKey_lt_of_not_lt hxy (mt starBefore_iff.2 hge)
      refine List.pairwise_cons.2 ⟨fun z hz => ?_, ih hl hxl⟩
      obtain rfl | hz := List.mem_cons.1 ((insertKey_perm x l).mem_iff.1 hz)
      · exact hyx
      · exact hy z hz

/-! ### What the kept states are after an offer (R108) -/

/-- A kept state, after an offer of x, when x or an equal of it is kept: FIRST_SEEN is the earlier count (R111). -/
def seenWith (x y : Star) : Star := if y.bits = x.bits then { y with firstSeen := min y.firstSeen x.firstSeen } else y

theorem starKey_seenWith (x y : Star) : starKey (seenWith x y) = starKey y := by
  unfold seenWith
  split <;> rfl

theorem seenWith_bits (x y : Star) : (seenWith x y).bits = y.bits := (starKey_eq_iff.1 (starKey_seenWith x y)).2

theorem seenWith_energy (x y : Star) : (seenWith x y).energy = y.energy := (starKey_eq_iff.1 (starKey_seenWith x y)).1

theorem map_seenWith_bits (x : Star) (l : List Star) : (l.map (seenWith x)).map (·.bits) = l.map (·.bits) := by
  rw [List.map_map]
  exact List.map_congr_left fun y _ => seenWith_bits x y

theorem any_bits_eq_false_iff {l : List Star} {x : Star} : l.any (fun y => y.bits == x.bits) = false ↔ ∀ y ∈ l, x.bits ≠ y.bits := by
  simp only [List.any_eq_false, beq_iff_eq, ne_eq, eq_comm (a := x.bits)]

/-- What a starfield of capacity CAP holds: at most CAP states, in key order, none twice. -/
structure KeptSet (cap : Nat) (l : List Star) : Prop where
  length_le : l.length ≤ cap
  sorted : l.Pairwise (fun a b => starKey a < starKey b)
  nodup : (l.map (·.bits)).Nodup

theorem offerTo_of_dup {cap : Nat} {l : List Star} {x : Star} (h : l.any (fun y => y.bits == x.bits) = true) :
    offerTo cap l x = l.map (seenWith x) := if_pos h

theorem offerTo_of_room {cap : Nat} {l : List Star} {x : Star} (h : l.any (fun y => y.bits == x.bits) = false) (hroom : l.length < cap) :
    offerTo cap l x = insertKey x l := by
  rw [offerTo, if_neg (Bool.not_eq_true _ ▸ h), if_pos hroom]

theorem offerTo_of_full {cap : Nat} {l : List Star} {x y : Star} (h : (l ++ [y]).any (fun z => z.bits == x.bits) = false)
    (hfull : cap ≤ (l ++ [y]).length) : offerTo cap (l ++ [y]) x = if starBefore x y then insertKey x l else l ++ [y] := by
  rw [offerTo, if_neg (Bool.not_eq_true _ ▸ h), if_neg (not_lt.2 hfull), List.getLast?_concat, List.dropLast_concat]

/-- The four outcomes of an offer: its state is kept already; there is room; it displaces the last; it is discarded. -/
theorem offerTo_cases {cap : Nat} (hcap : 0 < cap) {l : List Star} (hk : KeptSet cap l) (x : Star) :
    (l.any (fun y => y.bits == x.bits) = true ∧ offerTo cap l x = l.map (seenWith x))
    ∨ ((∀ y ∈ l, x.bits ≠ y.bits) ∧ l.length < cap ∧ offerTo cap l x = insertKey x l)
    ∨ ∃ init y, l = init ++ [y] ∧ (∀ z ∈ l, x.bits ≠ z.bits) ∧ l.length = cap
        ∧ ((starKey x < starKey y ∧ offerTo cap l x = insertKey x init) ∨ (starKey y < starKey x ∧ offerTo cap l x = l)) := by
  cases hdup : l.any (fun y => y.bits == x.bits) with
  | true => exact .inl ⟨rfl, offerTo_of_dup hdup⟩
  | false =>
    have hne := any_bits_eq_false_iff.1 hdup
    obtain hroom | hfull := hk.length_le.lt_or_eq
    · exact .inr (.inl ⟨hne, hroom, offerTo_of_room hdup hroom⟩)
    · obtain rfl | ⟨init, y, rfl⟩ := List.eq_nil_or_concat' l
      · exact absurd hfull hcap.ne
      · refine .inr (.inr ⟨init, y, rfl, hne, hfull, ?_⟩)
        rw [offerTo_of_full hdup hfull.ge]
        by_cases hlt : starKey x < starKey y
        · exact .inl ⟨hlt, if_pos (starBefore_iff.2 hlt)⟩
        · exact .inr ⟨starKey_lt_of_not_lt (hne y (by simp)) hlt, if_neg (mt starBefore_iff.1 hlt)⟩

theorem KeptSet.insertKey {cap : Nat} {l : List Star} {x : Star} (hk : KeptSet cap l) (hne : ∀ y ∈ l, x.bits ≠ y.bits) (hroom : l.length < cap) :
    KeptSet cap (insertKey x l) where
  length_le := by rw [(insertKey_perm x l).length_eq]; exact hroom
  sorted := insertKey_pairwise hk.sorted hne
  nodup := by
    rw [((insertKey_perm x l).map _).nodup_iff, List.map_cons, List.nodup_cons, List.mem_map]
    exact ⟨fun ⟨y, hy, e⟩ => hne y hy e.symm, hk.nodup⟩

theorem KeptSet.sublist {cap : Nat} {l l' : List Star} (hk : KeptSet cap l) (h : l'.Sublist l) : KeptSet cap l' where
  length_le := h.length_le.trans hk.length_le
  sorted := hk.sorted.sublist h
  nodup := hk.nodup.sublist (h.map _)

theorem KeptSet.lt_last {cap : Nat} {l : List Star} {y : Star} (hk : KeptSet cap (l ++ [y])) {b : Star} (hb : b ∈ l) : starKey b < starKey y :=
  (List.pairwise_append.1 hk.sorted).2.2 b hb y (List.mem_singleton_self y)

theorem KeptSet.map_seenWith {cap : Nat} {l : List Star} (hk : KeptSet cap l) (x : Star) : KeptSet cap (l.map (seenWith x)) where
  length_le := by rw [List.length_map]; exact hk.length_le
  sorted := List.pairwise_map.2 (hk.sorted.imp fun h => by rwa [starKey_seenWith, starKey_seenWith])
  nodup := by rw [map_seenWith_bits]; exact hk.nodup

/-- An offer leaves the kept states within CAP, in key order and distinct. -/
theorem KeptSet.offerTo {cap : Nat} (hcap : 0 < cap) {l : List Star} (hk : KeptSet cap l) (x : Star) : KeptSet cap (offerTo cap l x) := by
  obtain ⟨-, he⟩ | ⟨hne, hroom, he⟩ | ⟨init, y, rfl, hne, hfull, ⟨-, he⟩ | ⟨-, he⟩⟩ := offerTo_cases hcap hk x
  · rw [he]
    exact hk.map_seenWith x
  · rw [he]
    exact hk.insertKey hne hroom
  · rw [he]
    have hlen : init.length < cap := by rw [← hfull, List.length_append]; exact Nat.lt_succ_self _
    exact (hk.sublist (List.sublist_append_left init [y])).insertKey (fun z hz => hne z (List.mem_append_left _ hz)) hlen
  · rw [he]
    exact hk

/-! ### What a sequence of offers leaves -/

/-- What is kept of the offers xs: each kept state with the energy and the earliest count of the offers of that state, and a state that is
not kept comes after CAP states that are. -/
structure KeptOf (cap : Nat) (xs l : List Star) : Prop extends KeptSet cap l where
  offered : ∀ b ∈ l, ∃ a ∈ xs, a.bits = b.bits ∧ a.firstSeen = b.firstSeen
  energy : ∀ b ∈ l, ∀ a ∈ xs, a.bits = b.bits → a.energy = b.energy
  earliest : ∀ b ∈ l, ∀ a ∈ xs, a.bits = b.bits → b.firstSeen ≤ a.firstSeen
  rest : ∀ a ∈ xs, a.bits ∉ l.map (·.bits) → l.length = cap ∧ ∀ b ∈ l, starKey b < starKey a

theorem KeptOf.nil (cap : Nat) : KeptOf cap [] [] where
  length_le := Nat.zero_le _
  sorted := List.Pairwise.nil
  nodup := List.nodup_nil
  offered := by simp
  energy := by simp
  earliest := by simp
  rest := by simp

theorem KeptOf.of_mem_iff {cap : Nat} {xs ys l : List Star} (h : KeptOf cap xs l) (hm : ∀ a, a ∈ xs ↔ a ∈ ys) : KeptOf cap ys l where
  toKeptSet := h.toKeptSet
  offered := by simpa only [hm] using h.offered
  energy := by simpa only [hm] using h.energy
  earliest := by simpa only [hm] using h.earliest
  rest := by simpa only [hm] using h.rest

/-- Offers of one state agree on its energy. -/
def EnergiesAgree (xs : List Star) : Prop := ∀ a ∈ xs, ∀ b ∈ xs, a.bits = b.bits → a.energy = b.energy

section
variable {cap : Nat} {xs l : List Star} {x : Star}

/-- The energy of a kept state is that of any offer of it, the next one too. -/
theorem KeptOf.energy_eq (h : KeptOf cap xs l) (hag : EnergiesAgree (x :: xs)) {b : Star} (hb : b ∈ l) (e : x.bits = b.bits) :
    x.energy = b.energy := by
  obtain ⟨a, ha, hab, -⟩ := h.offered b hb
  exact (hag x List.mem_cons_self a (List.mem_cons_of_mem _ ha) (e.trans hab.symm)).trans (h.energy b hb a ha hab)

/-- An offer of a kept state lowers its count at most. -/
theorem KeptOf.dup (h : KeptOf cap xs l) (hag : EnergiesAgree (x :: xs)) (hdup : l.any (fun y => y.bits == x.bits) = true) :
    KeptOf cap (x :: xs) (l.map (seenWith x)) where
  toKeptSet := h.toKeptSet.map_seenWith x
  offered := List.forall_mem_map.2 fun b hb => by
    obtain ⟨a, ha, hab, hseen⟩ := h.offered b hb
    by_cases e : b.bits = x.bits
    · obtain hle | hle := le_total b.firstSeen x.firstSeen
      · exact ⟨a, List.mem_cons_of_mem _ ha, by rw [seenWith_bits, hab], by simp [seenWith, e, hle, hseen]⟩
      · exact ⟨x, List.mem_cons_self, by rw [seenWith_bits, e], by simp [seenWith, e, hle]⟩
    · exact ⟨a, List.mem_cons_of_mem _ ha, by rw [seenWith_bits, hab], by rw [seenWith, if_neg e, hseen]⟩
  energy := List.forall_mem_map.2 fun b hb => by
    rw [seenWith_bits, seenWith_energy]
    exact List.forall_mem_cons.2 ⟨h.energy_eq hag hb, h.energy b hb⟩
  earliest := List.forall_mem_map.2 fun b hb => by
    rw [seenWith_bits]
    unfold seenWith
    split
    case isTrue => exact List.forall_mem_cons.2 ⟨fun _ => min_le_right _ _, fun a ha e => (min_le_left _ _).trans (h.earliest b hb a ha e)⟩
    case isFalse hne => exact List.forall_mem_cons.2 ⟨fun e => absurd e.symm hne, h.earliest b hb⟩
  rest := by
    simp only [map_seenWith_bits, List.length_map, List.forall_mem_map, starKey_seenWith]
    refine List.forall_mem_cons.2 ⟨fun hx => absurd ?_ hx, h.rest⟩
    obtain ⟨y, hy, e⟩ := List.any_eq_true.1 hdup
    exact List.mem_map.2 ⟨y, hy, beq_iff_eq.1 e⟩

/-- A state never offered before is inserted among kept ones, of which a last one may be left out. -/
theorem KeptOf.insert {init : List Star} (h : KeptOf cap xs l) (hsub : init.Sublist l) (hne : ∀ y ∈ init, x.bits ≠ y.bits)
    (hnew : ∀ a ∈ xs, a.bits ≠ x.bits) (hk : KeptSet cap (insertKey x init))
    (hrest : ∀ a ∈ xs, a.bits ∉ init.map (·.bits) → init.length + 1 = cap ∧ starKey x < starKey a ∧ ∀ b ∈ init, starKey b < starKey a) :
    KeptOf cap (x :: xs) (insertKey x init) := by
  have hmem : ∀ b, b ∈ insertKey x init ↔ b = x ∨ b ∈ init := fun b => (insertKey_perm x init).mem_iff.trans List.mem_cons
  refine { toKeptSet := hk, offered := fun b hb => ?_, energy := fun b hb => ?_, earliest := fun b hb => ?_, rest := ?_ }
  · obtain rfl | hb := (hmem b).1 hb
    · exact ⟨b, List.mem_cons_self, rfl, rfl⟩
    · exact (h.offered b (hsub.subset hb)).imp fun _ ⟨ha, hab⟩ => ⟨List.mem_cons_of_mem _ ha, hab⟩
  · obtain rfl | hb := (hmem b).1 hb
    · exact List.forall_mem_cons.2 ⟨fun _ => rfl, fun a ha e => absurd e (hnew a ha)⟩
    · exact List.forall_mem_cons.2 ⟨fun e => absurd e (hne b hb), h.energy b (hsub.subset hb)⟩
  · obtain rfl | hb := (hmem b).1 hb
    · exact List.forall_mem_cons.2 ⟨fun _ => le_rfl, fun a ha e => absurd e (hnew a ha)⟩
    · exact List.forall_mem_cons.2 ⟨fun e => absurd e (hne b hb), h.earliest b (hsub.subset hb)⟩
  · simp only [((insertKey_perm x init).map _).mem_iff, (insertKey_perm x init).length_eq, hmem, List.map_cons, List.mem_cons, not_or,
      List.length_cons, forall_eq_or_imp]
    exact ⟨fun hx => absurd trivial hx.1, fun a ha ⟨_, hi⟩ => hrest a ha hi⟩

/-- While there is room, every state offered is kept. -/
theorem KeptOf.bits_mem (h : KeptOf cap xs l) (hroom : l.length < cap) {a : Star} (ha : a ∈ xs) : a.bits ∈ l.map (·.bits) :=
  by_contra fun hn => hroom.ne (h.rest a ha hn).1

/-- With room, a new state is inserted. -/
theorem KeptOf.add (h : KeptOf cap xs l) (hne : ∀ y ∈ l, x.bits ≠ y.bits) (hroom : l.length < cap) :
    KeptOf cap (x :: xs) (insertKey x l) := by
  refine h.insert (List.Sublist.refl l) hne (fun a ha e => ?_) (h.toKeptSet.insertKey hne hroom)
    (fun a ha hn => absurd (h.bits_mem hroom ha) hn)
  obtain ⟨y, hy, hya⟩ := List.mem_map.1 (h.bits_mem hroom ha)
  exact hne y hy (e ▸ hya.symm)

/-- Without room, a new state that precedes the last takes its place: the last, and with it every offer of its state, comes after the rest. -/
theorem KeptOf.displace {init : List Star} {y : Star} (h : KeptOf cap xs (init ++ [y])) (hag : EnergiesAgree (x :: xs))
    (hne : ∀ z ∈ init ++ [y], x.bits ≠ z.bits) (hfull : (init ++ [y]).length = cap) (hlt : starKey x < starKey y) :
    KeptOf cap (x :: xs) (insertKey x init) := by
  have hy : y ∈ init ++ [y] := List.mem_append_right _ (List.mem_singleton_self y)
  have hx : x.bits ∉ (init ++ [y]).map (·.bits) := fun hm => by
    obtain ⟨z, hz, e⟩ := List.mem_map.1 hm
    exact hne z hz e.symm
  have hlen : init.length + 1 = cap := by rw [← hfull, List.length_append, List.length_singleton]
  have hinit : ∀ z ∈ init, x.bits ≠ z.bits := fun z hz => hne z (List.mem_append_left _ hz)
  have hsub : init.Sublist (init ++ [y]) := List.sublist_append_left init [y]
  refine h.insert hsub hinit (fun a ha e => ?_) ((h.toKeptSet.sublist hsub).insertKey hinit (Nat.lt_of_succ_le hlen.le)) (fun a ha hn => ?_)
  · have hax : starKey a = starKey x := starKey_eq_iff.2 ⟨hag a (List.mem_cons_of_mem _ ha) x List.mem_cons_self e, e⟩
    exact lt_asymm hlt (hax ▸ (h.rest a ha (e ▸ hx)).2 y hy)
  · have hya : starKey y ≤ starKey a := by
      by_cases e : a.bits = y.bits
      · exact (starKey_eq_iff.2 ⟨h.energy y hy a ha e, e⟩).ge
      · have hn' : a.bits ∉ (init ++ [y]).map (·.bits) := by
          rw [List.map_append, List.mem_append, List.map_singleton, List.mem_singleton]
          exact not_or.2 ⟨hn, e⟩
        exact ((h.rest a ha hn').2 y hy).le
    exact ⟨hlen, hlt.trans_le hya, fun b hb => (h.toKeptSet.lt_last hb).trans_le hya⟩

/-- Without room, a new state that comes after the last changes nothing. -/
theorem KeptOf.discard {init : List Star} {y : Star} (h : KeptOf cap xs (init ++ [y])) (hne : ∀ z ∈ init ++ [y], x.bits ≠ z.bits)
    (hfull : (init ++ [y]).length = cap) (hgt : starKey y < starKey x) : KeptOf cap (x :: xs) (init ++ [y]) where
  toKeptSet := h.toKeptSet
  offered b hb := (h.offered b hb).imp fun _ ⟨ha, hab⟩ => ⟨List.mem_cons_of_mem _ ha, hab⟩
  energy b hb := List.forall_mem_cons.2 ⟨fun e => absurd e (hne b hb), h.energy b hb⟩
  earliest b hb := List.forall_mem_cons.2 ⟨fun e => absurd e (hne b hb), h.earliest b hb⟩
  rest := List.forall_mem_cons.2 ⟨fun _ => ⟨hfull, fun b hb => by
    obtain hb | hb := List.mem_append.1 hb
    · exact (h.toKeptSet.lt_last hb).trans hgt
    · exact List.mem_singleton.1 hb ▸ hgt⟩, h.rest⟩

/-- One more offer. -/
theorem KeptOf.offerTo (hcap : 0 < cap) (h : KeptOf cap xs l) (hag : EnergiesAgree (x :: xs)) : KeptOf cap (x :: xs) (offerTo cap l x) := by
  obtain ⟨hdup, he⟩ | ⟨hne, hroom, he⟩ | ⟨init, y, rfl, hne, hfull, ⟨hlt, he⟩ | ⟨hgt, he⟩⟩ := offerTo_cases hcap h.toKeptSet x
  · exact he ▸ h.dup hag hdup
  · exact he ▸ h.add hne hroom
  · exact he ▸ h.displace hag hne hfull hlt
  · rw [he]
    exact h.discard hne hfull hgt

end

/-- What is kept after a sequence of offers to an empty starfield. -/
theorem keptOf_foldl {cap : Nat} (hcap : 0 < cap) {xs : List Star} (hag : EnergiesAgree xs) : KeptOf cap xs (xs.foldl (offerTo cap) []) := by
  induction xs using List.reverseRecOn with
  | nil => exact KeptOf.nil cap
  | append_singleton xs x ih =>
    have hm : ∀ a, a ∈ x :: xs ↔ a ∈ xs ++ [x] := fun a => (List.perm_append_singleton x xs).mem_iff.symm
    have hag' : EnergiesAgree (x :: xs) := fun a ha b hb => hag a ((hm a).1 ha) b ((hm b).1 hb)
    have hxs : EnergiesAgree xs := fun a ha b hb => hag' a (List.mem_cons_of_mem _ ha) b (List.mem_cons_of_mem _ hb)
    rw [List.foldl_append]
    exact ((ih hxs).offerTo hcap hag').of_mem_iff hm

/-! ### What is kept is fixed by the offers, not by their order -/

section
variable {cap : Nat} {xs l l' : List Star}

theorem KeptOf.bits_subset_offers (h : KeptOf cap xs l) : l.map (·.bits) ⊆ xs.map (·.bits) := by
  refine List.forall_mem_map.2 fun b hb => ?_
  obtain ⟨a, ha, hab, -⟩ := h.offered b hb
  exact List.mem_map.2 ⟨a, ha, hab⟩

/-- As many states are kept as CAP and the distinct offers allow. -/
theorem KeptOf.length_eq (h : KeptOf cap xs l) : l.length = min cap (xs.map (·.bits)).dedup.length := by
  have hle : l.length ≤ (xs.map (·.bits)).dedup.length := by
    simpa using (h.nodup.subperm fun n hn => List.mem_dedup.2 (h.bits_subset_offers hn)).length_le
  refine le_antisymm (le_min h.length_le hle) (min_le_iff.2 ?_)
  refine h.length_le.eq_or_lt.imp (fun e => e.ge) fun hroom => ?_
  have hsub : (xs.map (·.bits)).dedup ⊆ l.map (·.bits) := fun n hn => by
    obtain ⟨a, ha, rfl⟩ := List.mem_map.1 (List.mem_dedup.1 hn)
    exact h.bits_mem hroom ha
  simpa using ((List.nodup_dedup _).subperm hsub).length_le

/-- A kept state that the other list leaves out comes after that whole list. -/
theorem KeptOf.after_of_not_mem (h : KeptOf cap xs l) (h' : KeptOf cap xs l') {b : Star} (hb : b ∈ l) (hn : b.bits ∉ l'.map (·.bits)) :
    l'.length = cap ∧ ∀ c ∈ l', starKey c < starKey b := by
  obtain ⟨a, ha, hab, -⟩ := h.offered b hb
  have hkey : starKey a = starKey b := starKey_eq_iff.2 ⟨h.energy b hb a ha hab, hab⟩
  exact hkey ▸ h'.rest a ha (hab ▸ hn)

/-- Two lists kept of the same offers hold the same states: were one left out of l', then l' would hold CAP states, all of them in l, and
l one more. -/
theorem KeptOf.bits_subset (h : KeptOf cap xs l) (h' : KeptOf cap xs l') : l.map (·.bits) ⊆ l'.map (·.bits) := by
  refine List.forall_mem_map.2 fun b hb => by_contra fun hn => ?_
  obtain ⟨hfull, hafter⟩ := h.after_of_not_mem h' hb hn
  have hsub : l'.map (·.bits) ⊆ l.map (·.bits) := List.forall_mem_map.2 fun c hc => by_contra fun hcn =>
    lt_asymm (hafter c hc) ((h'.after_of_not_mem h hc hcn).2 b hb)
  have hle : (b.bits :: l'.map (·.bits)).length ≤ (l.map (·.bits)).length :=
    ((List.nodup_cons.2 ⟨hn, h'.nodup⟩).subperm (List.cons_subset.2 ⟨List.mem_map_of_mem hb, hsub⟩)).length_le
  rw [List.length_cons, List.length_map, List.length_map, hfull] at hle
  exact absurd h.length_le (not_le.2 hle)

/-- What the order of offers does not change of a kept state. -/
def keptEntry (a : Star) : Int × Nat × Nat := (a.energy, a.bits, a.firstSeen)

theorem KeptOf.nodup_keptEntry (h : KeptOf cap xs l) : (l.map keptEntry).Nodup :=
  List.Nodup.of_map (fun e : Int × Nat × Nat => e.2.1) (by rw [List.map_map]; exact h.nodup)

theorem KeptOf.keptEntry_subset (h : KeptOf cap xs l) (h' : KeptOf cap xs l') : l.map keptEntry ⊆ l'.map keptEntry := by
  refine List.forall_mem_map.2 fun b hb => ?_
  obtain ⟨c, hc, hcb⟩ := List.mem_map.1 (h.bits_subset h' (List.mem_map_of_mem hb))
  obtain ⟨a, ha, hab, hseen⟩ := h.offered b hb
  obtain ⟨a', ha', hac, hseen'⟩ := h'.offered c hc
  have henergy : c.energy = b.energy := (h'.energy c hc a ha (hab.trans hcb.symm)).symm.trans (h.energy b hb a ha hab)
  have hfirst : c.firstSeen = b.firstSeen :=
    le_antisymm (hseen ▸ h'.earliest c hc a ha (hab.trans hcb.symm)) (hseen' ▸ h.earliest b hb a' ha' (hac.trans hcb))
  exact List.mem_map.2 ⟨c, hc, by rw [keptEntry, keptEntry, henergy, hcb, hfirst]⟩

theorem KeptOf.pairwise_keptEntry (h : KeptOf cap xs l) : (l.map keptEntry).Pairwise (fun u v => toLex (u.1, u.2.1) < toLex (v.1, v.2.1)) :=
  List.pairwise_map.2 h.sorted

theorem KeptOf.keptEntry_unique (h : KeptOf cap xs l) (h' : KeptOf cap xs l') : l.map keptEntry = l'.map keptEntry :=
  have hperm : (l.map keptEntry).Perm (l'.map keptEntry) :=
    (List.perm_ext_iff_of_nodup h.nodup_keptEntry h'.nodup_keptEntry).2
      fun _ => ⟨fun hu => h.keptEntry_subset h' hu, fun hu => h'.keptEntry_subset h hu⟩
  hperm.eq_of_pairwise (fun _ _ _ _ huv hvu => absurd hvu (lt_asymm huv)) h.pairwise_keptEntry h'.pairwise_keptEntry

end

/-! ### STARFIELD_OFFER -/

section
variable (fn : Nat) (s : State) (p : Prob)

theorem keepStar_stars (x : Star) : (keepStar fn s p x).1.stars = offerTo p.cap p.stars x := by
  unfold keepStar
  dsimp only
  split
  case isTrue h => exact h.symm
  case isFalse => rfl

theorem keepStar_cap (x : Star) : (keepStar fn s p x).1.cap = p.cap := by
  unfold keepStar
  dsimp only
  split <;> rfl

theorem keepStar_offers (x : Star) : (keepStar fn s p x).1.offers = p.offers := by
  unfold keepStar
  dsimp only
  split <;> rfl

theorem keepStars_stars (xs : List Star) : (keepStars fn s p xs).1.stars = xs.foldl (offerTo p.cap) p.stars := by
  induction xs generalizing s p with
  | nil => rfl
  | cons x xs ih =>
    refine (ih (keepStar fn s p x).2 (keepStar fn s p x).1).trans ?_
    rw [keepStar_cap, keepStar_stars, List.foldl_cons]

theorem takeBatch_stars (x : RemoteOffer) : (takeBatch fn s p x).1.stars = (x.states.map (fun e =>
    ({ energy := e.1, bits := e.2.1, firstSeen := e.2.2, hash := hashFrom 0 (natBits p.np e.2.1) } : Star))).foldl (offerTo p.cap) p.stars :=
  keepStars_stars fn s _ _

end

section
variable {s u : State} {q i : Nat} {r : Run} {p p' : Prob}

/-- The keeper takes the oldest offer of its own lanes. -/
theorem starfieldOfferOn_own {x : Star} {rest : List Star} (hr : atStage s q 2 = some r) (hp : probOf s q i = some p)
    (hpos : Run.position r = 0) (ho : p.offers = x :: rest) (hk : keepStar (queueFn s q) s { p with offers := rest } x = (p', u)) :
    starfieldOfferOn q i none s = checkAnneal (updateProb u q i (fun _ => p')) q := by
  unfold starfieldOfferOn
  rw [hr, hp]
  dsimp only
  rw [ho]
  cases hg : r.group with
  | none => simp only [List.head?_cons, Option.map_some, List.drop_succ_cons, List.drop_zero, hk]
  | some g =>
    rw [Run.position, hg] at hpos
    simp only [if_pos hpos, List.head?_cons, Option.map_some, List.drop_succ_cons, List.drop_zero, hk]

/-- The keeper takes a batch that another member owes it. -/
theorem starfieldOfferOn_batch {x : RemoteOffer} (hr : atStage s q 2 = some r) (hp : probOf s q i = some p) (ht : takesBatch r p x = true)
    (hk : takeBatch (queueFn s q) s p x = (p', u)) : starfieldOfferOn q i (some x) s = checkAnneal (updateProb u q i (fun _ => p')) q := by
  unfold starfieldOfferOn
  rw [hr, hp]
  dsimp only
  rw [if_pos ht, hk]

/-- A member that has finished a problem without epochs sends its batch. -/
theorem starfieldOfferOn_send {g : GroupRun} (hr : atStage s q 2 = some r) (hp : probOf s q i = some p) (hg : r.group = some g)
    (hpos : g.position ≠ 0) (hepochs : p.epochs = false) (hfin : p.finished = true) (hlanes : p.lanes ≠ []) (hsent : p.sentAll = false)
    (hk : sendBatch s g p = (p', u)) :
    starfieldOfferOn q i none s = checkAnneal (updateProb u q i (fun _ => { p' with sentAll := true })) q := by
  have howes : ¬ (p.epochs || !p.finished || p.lanes.isEmpty || p.sentAll) = true := by simp [hepochs, hfin, hlanes, hsent]
  unfold starfieldOfferOn
  rw [hr, hp]
  dsimp only
  rw [hg]
  dsimp only
  rw [if_neg hpos, if_neg howes, hk]

end

theorem exec_starfieldOffer {q : Nat} (hq : q < 4096) (i : Nat) (remote : Option RemoteOffer) (s : State) :
    exec (.starfieldOffer q i remote) s = .next (keep s (starfieldOfferOn q i remote s)) := onQueue_eq hq

/-- Settles O32: the outcomes of one offer, the uniqueness of what a sequence of offers leaves, and a lemma for each outcome of
STARFIELD_OFFER. -/
theorem starfield : Obligations.Starfield := by
  unfold Obligations.Starfield
  refine ⟨?_, ?_, ?_⟩
  · intro cap l x hcap hlen hsorted hnodup dup
    have hset : KeptSet cap (offerTo cap l x) := KeptSet.offerTo hcap ⟨hlen, hsorted.imp starBefore_iff.1, hnodup⟩ x
    refine ⟨offerTo_of_dup, fun hdup hroom => ?_, fun y hdup hfull hlast => ?_, hset.length_le, hset.sorted.imp starBefore_iff.2, hset.nodup⟩
    · rw [offerTo_of_room hdup hroom]
      exact insertKey_perm x l
    · obtain ⟨init, rfl⟩ := List.getLast?_eq_some_iff.1 hlast
      rw [offerTo_of_full hdup hfull.ge, List.dropLast_concat]
      exact ⟨fun hlt => by rw [if_pos hlt]; exact insertKey_perm x init, fun hge => by rw [hge]; rfl⟩
  · intro cap xs ys hcap hperm hag
    have hx : KeptOf cap xs (xs.foldl (offerTo cap) []) := keptOf_foldl hcap hag
    have hy : KeptOf cap ys (ys.foldl (offerTo cap) []) :=
      keptOf_foldl hcap fun a ha b hb => hag a (hperm.mem_iff.2 ha) b (hperm.mem_iff.2 hb)
    exact ⟨hx.keptEntry_unique (hy.of_mem_iff fun _ => hperm.mem_iff.symm), hx.length_eq,
      fun a ha hn b hb => starBefore_iff.2 ((hx.rest a ha hn).2 b hb)⟩
  · intro s q i r p hq hr hp fn
    refine ⟨?_, ?_, ?_⟩
    · intro x rest hpos ho p' u hk
      have hp' : p' = (keepStar fn s { p with offers := rest } x).1 := by rw [hk]
      exact ⟨by rw [exec_starfieldOffer hq, starfieldOfferOn_own hr hp hpos ho hk], by rw [hp', keepStar_stars], by rw [hp', keepStar_offers]⟩
    · intro x p' u ht hk
      have hp' : p' = (takeBatch fn s p x).1 := by rw [hk]
      exact ⟨by rw [exec_starfieldOffer hq, starfieldOfferOn_batch hr hp ht hk], by rw [hp', takeBatch_stars]⟩
    · intro g p' u hg hpos hepochs hfin hlanes hsent hk
      rw [exec_starfieldOffer hq, starfieldOfferOn_send hr hp hg hpos hepochs hfin hlanes hsent hk]

end Sys2Proof.Machine

/-! # EPOCH_CLOSE on a single device (O37)

When the checks of a lane's registers find nothing (R129, R145), what a checked close makes of what they find, and the row itself for a
device in no group. -/

namespace Sys2Proof.Machine

/-! ### The checks of a lane's registers (R129, R145) -/

/-- No kept sum differs from the recomputed one, and the energy register holds what is due. -/
theorem laneFault_eq_none_iff {p : Prob} {l : Lane} :
    laneFault p l = none ↔ (∀ x ∈ l.records, recordSum l.x x.terms = x.sum) ∧ l.energy = dueEnergy p l := by
  have hsums : l.records.find? (fun x => recordSum l.x x.terms != x.sum) = none ↔ ∀ x ∈ l.records, recordSum l.x x.terms = x.sum := by simp
  rw [← hsums, laneFault]
  cases l.records.find? (fun x => recordSum l.x x.terms != x.sum) with
  | some x => simp
  | none => simp

theorem closeFault_eq_none_iff {s : State} {p : Prob} : closeFault s p = none ↔ ∀ k ∈ p.lanes, laneFault p (laneOf s k) = none := by
  simp only [closeFault, List.findSome?_eq_none_iff, Option.map_eq_none_iff]

/-! ### A checked close -/

section
variable {s u : State} {q : Nat} {p : Prob} {a : Act Run}

theorem closeChecked_of_fault {k : Nat} {f : EngineClass × Nat × Nat} (hfin : p.finished = false) (h : closeFault s p = some (k, f)) :
    closeChecked q p a s = laneStrike s k f := by
  simp only [closeChecked, hfin, Bool.false_eq_true, if_false, h]

theorem closeChecked_of_ok {r : Run} (hfin : p.finished = false) (h : closeFault s p = none) (ha : a.run s = (.ok r, u)) :
    closeChecked q p a s = checkAnneal (setRun u q r) q := by
  simp only [closeChecked, hfin, Bool.false_eq_true, if_false, h, endClose, ha]

end

/-! ### EPOCH_CLOSE -/

/-- On a device in no group, a problem whose lanes have all ended the epoch closes at once (R145). -/
theorem epochCloseOn_alone {s : State} {q i : Nat} {inner : Bool} {c : Cmd} {r : Run} {p : Prob} (hs : Serving s q opRun inner c)
    (hr : atStage s q 2 = some r) (hp : (Run.inStage r 2).find? (fun p => p.index == i) = some p) (hentered : r.entered = true)
    (hepochs : p.epochs = true) (hgroup : r.group = none) (hfin : p.finished = false) (hstop : lanesStopped s p = true) :
    epochCloseOn q i s = closeChecked q p (closeAlone (queueFn s q) r p) s := by
  rw [epochCloseOn, stageOn_eq hs hr]
  simp [hp, hentered, hepochs, hgroup, hfin, hstop]

/-- Settles O37: a checked close either strikes or is made, and its checks find nothing exactly when every lane's registers agree. -/
theorem epochCloseRow : Obligations.EpochCloseRow := by
  unfold Obligations.EpochCloseRow
  intro s q i inner c r p hs hr hp hentered hepochs hgroup hfin hstop
  have hexec : exec (.epochClose q i) s = .next (keep s (closeChecked q p (closeAlone (queueFn s q) r p) s)) := by
    rw [← epochCloseOn_alone hs hr hp hentered hepochs hgroup hfin hstop]
    exact onQueue_eq hs.1
  refine ⟨fun r' u hnone hclose => ?_, fun k f hfault => ?_, ?_⟩
  · rw [hexec, closeChecked_of_ok hfin hnone hclose]
  · rw [hexec, closeChecked_of_fault hfin hfault]
  · rw [closeFault_eq_none_iff]
    exact forall₂_congr fun _ _ => laneFault_eq_none_iff

end Sys2Proof.Machine

/-! # Tensor chains (O34)

Every tensor row runs its descriptor through `tensorOn`; one lemma says what such a row answers, whatever its opcode and operation. -/

namespace Sys2Proof.Machine

/-- A tensor row, whatever its operation: a descriptor that reads well, has the opcode and runs takes the chain on. -/
theorem tensorRow_next {s u v : State} {q op : Nat} {corrected : List Nat} {inner : Bool} {cmd : Cmd} {r : Run} {ch : Chain} {b : List Byte}
    {next : Nat} {t : Tally} {f : TEnv → List TDesc → Nat → Nat → TDesc → Act Step'}
    (hs : Serving s q opRun inner cmd) (hc : chainAt s q = some (r, ch)) (hb : (chainBytes (queueFn s q) ch).run s = (.ok b, u))
    (ho : TDesc.op (chainDesc ch b) = op)
    (hf : (f { q, fn := queueFn s q, spans := r.spans } (chainSoFar ch b) ch.len ch.next (chainDesc ch b)).run (countLocal u (chainDesc ch b) corrected)
      = (.ok (some (next, t)), v)) :
    onQueue q s (tensorOn q op corrected f) = .next (keep s (stepChain v q (queueFn s q) (chainDesc ch b) next t)) := by
  rw [onQueue_eq hs.1, tensorOn_eq hs hc hb ho hf]

/-- Settles O34: each of the ten commands is a tensor row of its opcode. -/
theorem tensorRows : Obligations.TensorRows := by
  unfold Obligations.TensorRows
  intro s q inner cmd r ch b u' v next t corrected hs hc hb ds d u e
  refine ⟨?gemm, ?gemvSpx, ?gather, ?scatter, ?segmentSum, ?elementwise, ?reduce, ?softmax, ?route, ?exitChain⟩
  case gemm => exact tensorRow_next (f := fun e ch _ i d => gemmOp e ch i d) hs hc hb
  case gemvSpx => exact tensorRow_next (f := fun e _ _ i d => gemvRow e i d) hs hc hb
  case gather => exact tensorRow_next (f := fun e _ _ i d => gatherOp e i d) hs hc hb
  case scatter => exact tensorRow_next (f := fun e _ _ i d => scatterOp e i d) hs hc hb
  case segmentSum => exact tensorRow_next (f := fun e _ _ i d => segmentSumOp e i d) hs hc hb
  case elementwise => exact tensorRow_next (f := fun e _ _ i d => elementwiseOp e i d) hs hc hb
  case reduce => exact tensorRow_next (f := fun e ch _ i d => reduceOp e ch i d) hs hc hb
  case softmax => exact tensorRow_next (f := fun e _ _ i d => softmaxOp e i d) hs hc hb
  case route => exact tensorRow_next (f := fun e _ _ i d => routeOp e i d) hs hc hb
  case exitChain => exact tensorRow_next (f := fun e _ len i d => exitOp e len i d) hs hc hb

end Sys2Proof.Machine

/-! # Admission of ROUTE (O35)

One equation for each thing ROUTE does with a selection, and what follows of the places, the drops and the count of each expert, from any
count of selections admitted before. -/

namespace Sys2Proof.Machine

section
variable {cap : Nat} {used : Table Nat} {x g : Nat} {sel : List (Nat × Nat)}

/-- A selection of an expert that is full is dropped. -/
theorem admitRoutes_full (hcap : 0 < cap) (h : cap ≤ tget (fun _ => 0) used x) :
    admitRoutes cap used ((x, g) :: sel) = ((0xFF, 0) :: (admitRoutes cap used sel).1, (admitRoutes cap used sel).2 + 1) :=
  if_pos ⟨hcap.ne', h⟩

/-- A selection of an expert that has room is admitted, and counts against its capacity. -/
theorem admitRoutes_room (h : tget (fun _ => 0) used x < cap) :
    admitRoutes cap used ((x, g) :: sel) =
      ((x, g) :: (admitRoutes cap (tset (fun _ => 0) used x (tget (fun _ => 0) used x + 1)) sel).1,
        (admitRoutes cap (tset (fun _ => 0) used x (tget (fun _ => 0) used x + 1)) sel).2) :=
  if_neg fun hfull => Nat.not_le.2 h hfull.2

end

section
variable {cap : Nat} {sel : List (Nat × Nat)}

/-- Every selection keeps its place. -/
theorem admitRoutes_length (hcap : 0 < cap) (used : Table Nat) : (admitRoutes cap used sel).1.length = sel.length := by
  induction sel generalizing used with
  | nil => rfl
  | cons e sel ih =>
    rcases Nat.lt_or_ge (tget (fun _ => 0) used e.1) cap with hroom | hfull
    · simp [admitRoutes_room hroom, ih]
    · simp [admitRoutes_full hcap hfull, ih]

/-- The drops counted are the entries of expert 0xFF, which no selection names. -/
theorem admitRoutes_drops (hcap : 0 < cap) (hsel : ∀ e ∈ sel, e.1 < 0xFF) (used : Table Nat) :
    (admitRoutes cap used sel).2 = (admitRoutes cap used sel).1.countP (fun e => e.1 == 0xFF) := by
  induction sel generalizing used with
  | nil => rfl
  | cons e sel ih =>
    obtain ⟨he, hsel⟩ := List.forall_mem_cons.1 hsel
    rcases Nat.lt_or_ge (tget (fun _ => 0) used e.1) cap with hroom | hfull
    · simp [admitRoutes_room hroom, ih hsel, he.ne]
    · simp [admitRoutes_full hcap hfull, ih hsel]

/-- An expert is admitted as often as it is selected, up to what earlier selections left of its capacity. -/
theorem admitRoutes_count (hcap : 0 < cap) (used : Table Nat) {x : Nat} (hx : x < 0xFF) :
    (admitRoutes cap used sel).1.countP (fun e => e.1 == x) = min (cap - tget (fun _ => 0) used x) (sel.countP (fun e => e.1 == x)) := by
  induction sel generalizing used with
  | nil => simp [admitRoutes]
  | cons e sel ih =>
    rcases Nat.lt_or_ge (tget (fun _ => 0) used e.1) cap with hroom | hfull
    · rw [admitRoutes_room hroom, List.countP_cons, List.countP_cons, ih, tget_tset]
      by_cases hxe : x = e.1
      · subst hxe
        simp only [if_pos, beq_self_eq_true]
        omega
      · simp [hxe, Ne.symm hxe]
    · rw [admitRoutes_full hcap hfull, List.countP_cons, List.countP_cons, ih]
      by_cases hxe : x = e.1
      · subst hxe
        simp [hx.ne', Nat.sub_eq_zero_of_le hfull]
      · simp [hx.ne', Ne.symm hxe]

end

/-- Settles O35: before the first selection nothing is admitted, so that each expert's whole capacity is left. -/
theorem routeCapacity : Obligations.RouteCapacity := by
  unfold Obligations.RouteCapacity
  intro cap sel hcap hsel
  simp only [← List.countP_eq_length_filter]
  exact ⟨admitRoutes_length hcap [], admitRoutes_drops hcap hsel [], fun x hx => admitRoutes_count hcap [] hx⟩

end Sys2Proof.Machine

/-! # The cap of a truncated record (O33)

The search for K′ (R204) either takes the cap at which it stands or goes on one lower. -/

namespace Sys2Proof.Machine

section
variable {ps : List Prob} {len n : Nat}

theorem fitCap_of_fits (h : recordSize ps (n + 1) ≤ len) : fitCap ps len (n + 1) = some (n + 1) := if_pos h

theorem fitCap_of_too_large (h : len < recordSize ps (n + 1)) : fitCap ps len (n + 1) = fitCap ps len n := if_neg (Nat.not_le.2 h)

end

/-- Settles O33, by induction on the cap from which the search goes down: a cap that it passes over does not fit. -/
theorem largestCap : Obligations.LargestCap := by
  unfold Obligations.LargestCap
  intro ps len n k h
  induction n with
  | zero => cases h
  | succ n ih =>
    rcases Nat.lt_or_ge len (recordSize ps (n + 1)) with hlarge | hfits
    · rw [fitCap_of_too_large hlarge] at h
      obtain ⟨hle, hpos, hfit, hmax⟩ := ih h
      refine ⟨Nat.le_succ_of_le hle, hpos, hfit, fun j hj hjn => ?_⟩
      rcases Nat.le_succ_iff.1 hjn with hjn | rfl
      · exact hmax j hj hjn
      · exact hlarge
    · obtain rfl : n + 1 = k := Option.some.inj ((fitCap_of_fits hfits).symm.trans h)
      exact ⟨le_rfl, n.succ_pos, hfits, fun j hj hjn => absurd hj (Nat.not_lt.2 hjn)⟩

end Sys2Proof.Machine

/-! # The commands on plans (O16)

What BIND_PLAN, RELEASE_PLAN and RUN make of the state when their checks pass (R192 to R196). -/

namespace Sys2Proof.Machine

/-- A row of a queue, from what its meaning makes of the state. -/
theorem onQueue_next {s t : State} {q : Nat} {f : State → State} (hq : q < 4096) (hf : f s = t) : onQueue q s f = .next (keep s t) :=
  hf ▸ onQueue_eq hq

/-! ### BIND_PLAN -/

/-- A binding that passes: the report is written, and the plan takes the lowest free slot under a new generation (R193, R194). -/
def bindSlot (q fn : Nat) (c : Cmd) (d : Bound) (u : State) : State :=
  let v := writeSpan u fn (Cmd.span c 0x28) 0 (reportBytes u d.bytes d.hdr (Config.shake256 d.bytes) d.facts)
  let slot := (freeSlot v).getD 0
  let gen := (tget (fun _ => 0) v.planGens slot + 1) % 2 ^ 16
  finishTo
    (setPlan { v with planGens := tset (fun _ => 0) v.planGens slot gen } slot
      { fn, gen, base := (Cmd.span c 0x24).addr, imageBytes := d.hdr.imageBytes, args := d.args
        sum := BitVec.ofNat 64 (copySum d.bytes d.hdr), digest := Config.shake256 d.bytes })
    q (okWith (slot + gen * 2 ^ 16)) (destOf (Cmd.span c 0x28))

section
variable {s : State} {q : Nat} {inner : Bool} {c : Cmd}

theorem bindPlanOn_passes {d : Bound} {u : State} (hs : Serving s q opBindPlan inner c)
    (hlimit : boundPlans s (queueFn s q) < (fnOf s (queueFn s q)).planLimit) (hslot : (freeSlot s).isSome = true)
    (htest : fld s (reg 3072 0x40) 7 1 = 0) (hd : (bindSteps (queueFn s q) c).run s = (.ok d, u)) :
    bindPlanOn q s = bindSlot q (queueFn s q) c d u := by
  have hroom : ¬ ((fnOf s (queueFn s q)).planLimit ≤ boundPlans s (queueFn s q) ∨ (freeSlot s).isNone = true) :=
    not_or.2 ⟨Nat.not_le.2 hlimit, by simp [Option.isSome_iff_ne_none.1 hslot]⟩
  unfold bindPlanOn
  rw [onStarted_serving hs]
  dsimp only
  rw [if_neg hroom, if_neg fun h => Nat.zero_ne_one (htest.symm.trans h.1), hd]
  dsimp only
  rw [Nat.mul_comm (2 ^ 16)]
  rfl

/-! ### RELEASE_PLAN -/

theorem releasePlanOn_idle {slot : Nat} {p : Plan} (hs : Serving s q opReleasePlan inner c)
    (hp : planById s (queueFn s q) (Cmd.fld c 0x20 4) = some (slot, p)) (hidle : p.running = none) :
    releasePlanOn q s = finish (delPlan s slot) q (okWith 0) := by
  unfold releasePlanOn
  rw [onStarted_serving hs, hp]
  exact if_neg (by simp [hidle])

/-! ### RUN -/

theorem runOn_starts {slot : Nat} {p : Plan} {args : List U32} {gs : List Nat} {g : Option GroupRun} {r u v : State}
    {d : PlanHdr × List Byte × List Span × List Prob} (hs : Serving s q opRun inner c) (hnone : runOf s q = none)
    (hp : planById s (queueFn s q) (Cmd.fld c 0x20 4) = some (slot, p)) (hidle : p.running = none)
    (hlists : (runLists (queueFn s q) c).run s = (.ok (args, gs), r)) (hgroup : (readGroup (queueFn s q) c).run r = (.ok g, u))
    (hctxs : gs.any (fun k => (ctxOf u k).state == .running) = false) (hframe : ∀ h, g = some h → frameBusy u h.frame = false)
    (hd : (runSteps c.stale (queueFn s q) p (if args.isEmpty then p.args else args) gs ((g.map (·.size)).getD 1)).run u = (.ok d, v))
    (hsource : sourceFailed v = false) :
    runOn q s = startRun v q slot p gs g (BitVec.ofNat 64 (Cmd.fld c 0x28 8)) d := by
  unfold runOn
  rw [onStarted_serving hs]
  refine (if_neg ?noRun).trans ?_
  case noRun => simp [hnone]
  rw [hp]
  dsimp only
  rw [hlists]
  dsimp only
  rw [hgroup]
  refine (if_neg ?planFree).trans ((if_neg ?ctxsFree).trans ((if_neg ?frameFree).trans ?starts))
  case planFree => simp [hidle]
  case ctxsFree => exact ne_true_of_eq_false hctxs
  case frameFree =>
    cases g with
    | none => exact Bool.false_ne_true
    | some h => simp [hframe h rfl]
  case starts =>
    rw [hd]
    dsimp only
    rw [hsource, Bool.and_false, if_neg Bool.false_ne_true]

end

/-- Settles O16: one lemma for each command. -/
theorem planCommands : Obligations.PlanCommands := by
  unfold Obligations.PlanCommands
  intro s q inner c
  refine ⟨?bind, ?release, ?run⟩
  case bind =>
    intro d u hs hlimit hslot htest hd
    exact onQueue_next hs.1 (bindPlanOn_passes hs hlimit hslot htest hd)
  case release =>
    intro slot p hs hp hidle
    obtain ⟨qs, hqs⟩ := finish_only (delPlan s slot) q (okWith 0)
    rw [← keep_eq (s := s) (t := finish (delPlan s slot) q (okWith 0)) (by rw [hqs]; rfl) (by rw [hqs]; rfl) (by rw [hqs]; rfl)]
    exact onQueue_next hs.1 (releasePlanOn_idle hs hp hidle)
  case run =>
    intro slot p args gs g r u d v hs hnone hp hidle hlists hgroup hctxs hframe hd hsource
    exact onQueue_next hs.1 (runOn_starts hs hnone hp hidle hlists hgroup hctxs hframe hd hsource)

end Sys2Proof.Machine

/-! # Stages of a run (O27)

What each stage makes of a run that stands at it (R197), when what the stage reads is good. -/

namespace Sys2Proof.Machine

section
variable {s : State} {q : Nat} {inner : Bool} {c : Cmd} {r : Run}

theorem runAct_of_ok {u : State} {a : Act Run} {r' : Run} (h : a.run s = (.ok r', u)) : runAct s q a = endStage u q r' := by
  rw [runAct, h]

theorem loadOn_loads {u : State} {r' : Run} (hs : Serving s q opRun inner c) (hr : atStage s q 1 = some r)
    (hload : (loadSteps q (queueFn s q) (Run.enter s r)).run (setRun s q (Run.enter s r)) = (.ok r', u)) :
    loadOn q s = endStage u q r' := by
  rw [loadOn, stageOn_eq hs hr]
  exact runAct_of_ok hload

theorem annealOn_begins {u v w : State} {ps : List (Prob × CSet)} {places : List (Nat × List Nat)} {r' : Run}
    (hs : Serving s q opRun inner c) (hr : atStage s q 2 = some r) (hentered : r.entered = false)
    (hsets : (annealSets (queueFn s q) (Run.inStage r 2)).run s = (.ok ps, u))
    (hplaces : placeAll u q (Run.position r) (placeOrder ps) = some (places, v))
    (hbegin : (beginAll (queueFn s q) (holdLanes (Run.enter v r) places) places ps).run (setRun v q (holdLanes (Run.enter v r) places))
      = (.ok r', w)) :
    annealOn q s = checkAnneal (setRun w q r') q := by
  rw [annealOn, stageOn_eq hs hr, hentered, if_neg Bool.false_ne_true, hsets]
  dsimp only
  rw [hplaces]
  dsimp only
  rw [hbegin]

theorem selectOn_selects (hs : Serving s q opRun inner c) (hr : atStage s q 4 = some r) :
    selectOn q s = endStage s q
      { Run.enter s r with problems := r.problems.map (fun p => if Run.covers r 4 p.index then selectProb p else p), endTime := deviceTime s } := by
  rw [selectOn, stageOn_eq hs hr]
  rfl

/-- A record that fits whole is written whole; SELECT has taken END_TIME (R204). -/
theorem exportRecordOn_whole (hs : Serving s q opRun inner c) (hr : atStage s q 5 = some r) (hselect : r.stages.any (·.kind == 4) = true)
    (hfits : recordSize (Run.inStage r 5) 1024 ≤ r.result.len) :
    exportRecordOn q s =
      let e := { Run.enter s r with truncated := false, kLimit := 0 }
      endStage (writeSpan s (queueFn s q) r.result 0
        (resultRecord e (Run.finalOutcome e) (((planOf s r.slot).map (·.digest)).getD 0) (Run.inStage r 5) 1024)) q e := by
  have hselect' : (Run.enter s r).stages.any (·.kind == 4) = true := hselect
  have hfits' : recordSize (Run.inStage (Run.enter s r) 5) 1024 ≤ (Run.enter s r).result.len := hfits
  rw [exportRecordOn, stageOn_eq hs hr]
  dsimp only
  rw [if_pos hselect', if_pos hfits']
  rfl

theorem buildOn_opens (hs : Serving s q opRun inner c) (hr : atStage s q 0 = some r) (hentered : r.entered = false) :
    buildOn q s = setRun s q (openChain (Run.enter s r)) := by
  rw [buildOn, stageOn_eq hs hr, hentered, if_neg Bool.false_ne_true]

theorem rescoreOn_opens {u : State} (hs : Serving s q opRun inner c) (hr : atStage s q 3 = some r) (hentered : r.entered = false)
    (hinputs : (rescoreAll (queueFn s q) (Run.enter s r)).run (setRun s q (Run.enter s r)) = (.ok (), u)) :
    rescoreOn q s = setRun u q (openChain (Run.enter s r)) := by
  rw [rescoreOn, stageOn_eq hs hr, hentered, if_neg Bool.false_ne_true]
  dsimp only
  rw [hinputs]

end

/-- Settles O27: one lemma for each stage. -/
theorem stageRows : Obligations.StageRows := by
  unfold Obligations.StageRows
  intro s q inner c r hs
  refine ⟨?load, ?anneal, ?select, ?exportRecord, ?build, ?rescore⟩
  case load => exact fun r' u hr hload => onQueue_next hs.1 (loadOn_loads hs hr hload)
  case anneal =>
    exact fun ps u places v r' w hr hentered hsets hplaces hbegin =>
      onQueue_next hs.1 (annealOn_begins hs hr hentered hsets hplaces hbegin)
  case select => exact fun hr => onQueue_next hs.1 (selectOn_selects hs hr)
  case exportRecord => exact fun hr hselect hfits => onQueue_next hs.1 (exportRecordOn_whole hs hr hselect hfits)
  case build =>
    intro hr hentered
    rw [← keep_eq (s := s) (t := setRun s q (openChain (Run.enter s r))) rfl rfl rfl]
    exact onQueue_next hs.1 (buildOn_opens hs hr hentered)
  case rescore => exact fun u hr hentered hinputs => onQueue_next hs.1 (rescoreOn_opens hs hr hentered hinputs)

end Sys2Proof.Machine

/-! # JOIN, and the writes and barriers of a group's peers (O38)

What each row makes of the run that holds the frame (R226 to R232, R236), one lemma for each case of the row. -/

namespace Sys2Proof.Machine

/-- A row of an operand below its bound, from what its meaning makes of the state. -/
theorem onIndex_next {n k : Nat} {s t : State} {f : State → State} (hn : n < k) (hf : f s = t) : onIndex n k s f = .next (keep s t) :=
  hf ▸ onIndex_eq hn

theorem keep_self (s : State) : keep s s = s := keep_eq rfl rfl rfl

/-- A row of an operand below its bound that changes nothing. -/
theorem onIndex_idle {n k : Nat} {s : State} {f : State → State} (hn : n < k) (hf : f s = s) : onIndex n k s f = .next s := by
  rw [onIndex_next hn hf, keep_self]

theorem groupOn_eq {s : State} {f q : Nat} {r : Run} {g : GroupRun} (h : frameRun s f = some (q, r, g)) (k : Nat → Run → GroupRun → State) :
    groupOn s f k = k q r g := by
  rw [groupOn, h]

/-! ### The group part of a run -/

/-- The group part lies in the table of runs. -/
theorem setGroup_frame (s : State) (q : Nat) (g : GroupRun) : ∃ rs, setGroup s q g = { s with runs := rs } := by
  unfold setGroup
  split
  · exact ⟨_, rfl⟩
  · exact ⟨_, rfl⟩

theorem runOf_setGroup {s : State} {q : Nat} {r : Run} (h : runOf s q = some r) (g : GroupRun) :
    runOf (setGroup s q g) q = some { r with group := some g } := by
  rw [setGroup, h]
  exact (runOf_setRun ..).trans (if_pos rfl)

theorem claimSlot_frame (s : State) (q : Nat) (g : GroupRun) (slot : Nat) (requester : U16) :
    ∃ rs, claimSlot s q g slot requester = { s with runs := rs } := by
  unfold claimSlot
  split
  · exact ⟨_, rfl⟩
  · exact setGroup_frame ..

/-! ### JOIN (R236, R239) -/

section
variable {s : State} {q : Nat} {inner : Bool} {c : Cmd} {r : Run} {g : GroupRun}

/-- The member's JOIN record, as it goes to the control area of each peer. -/
def joinPhase (s : State) (r : Run) (g : GroupRun) : SentPhase :=
  let b := Config.joinBytes (joinInfo s r g)
  { phase := phJoin, bank := 0, epoch := 0, parts := [(offControl, padTo b (alignUp b.length 8))] }

/-- JOIN, until the exchange has ended. -/
theorem joinOn_eq (hs : Serving s q opRun inner c) (hr : runOf s q = some r) (hg : r.group = some g) (hdone : g.joinDone = false) :
    joinOn q s =
      if (!g.joinSent) = true then
        if g.position = 0 ∧ r.seed.isNone = true then s else sendPhase s q { g with joinSent := true } (joinPhase s r g)
      else (sortNats g.claimed).head?.elim
        (if (GroupRun.peers g).all (fun e => e.2.joined) = true then joinEnd s q r g else s)
        (fun x => failRun s q 0 (outcome stBadCommand (4 * 256 + x) 0)) := by
  rw [joinOn, onStarted_serving hs, hr]
  dsimp only
  rw [hg]
  dsimp only
  rw [hdone, if_neg Bool.false_ne_true]
  cases (sortNats g.claimed).head? with
  | none => rfl
  | some x => rfl

theorem joinOn_sends (hs : Serving s q opRun inner c) (hr : runOf s q = some r) (hg : r.group = some g) (hdone : g.joinDone = false)
    (hsent : g.joinSent = false) (hseed : g.position ≠ 0 ∨ r.seed.isSome = true) :
    joinOn q s = sendPhase s q { g with joinSent := true } (joinPhase s r g) := by
  have hready : ¬ (g.position = 0 ∧ r.seed.isNone = true) :=
    not_and_or.2 (hseed.imp_right fun h => by simp [Option.isSome_iff_ne_none.1 h])
  rw [joinOn_eq hs hr hg hdone, hsent]
  exact (if_pos rfl).trans (if_neg hready)

theorem joinOn_claimed {x : Nat} {xs : List Nat} (hs : Serving s q opRun inner c) (hr : runOf s q = some r) (hg : r.group = some g)
    (hdone : g.joinDone = false) (hsent : g.joinSent = true) (hclaimed : sortNats g.claimed = x :: xs) :
    joinOn q s = failRun s q 0 (outcome stBadCommand (4 * 256 + x) 0) := by
  rw [joinOn_eq hs hr hg hdone, hsent, hclaimed]
  rfl

theorem joinOn_ends (hs : Serving s q opRun inner c) (hr : runOf s q = some r) (hg : r.group = some g) (hdone : g.joinDone = false)
    (hsent : g.joinSent = true) (hclaimed : g.claimed = []) (hall : (GroupRun.peers g).all (fun e => e.2.joined) = true) :
    joinOn q s = joinEnd s q r g := by
  rw [joinOn_eq hs hr hg hdone, hsent, hclaimed]
  exact if_pos hall

end

/-! ### Frame writes (R226, R230) -/

section
variable {s : State} {f q off area : Nat} {r : Run} {g : GroupRun} {req : U16} {b : List Byte}

/-- A peer's write into the barrier target stores its bytes and counts none. -/
theorem frameWriteOn_target (hf : frameRun s f = some (q, r, g)) (hoff : off < 2 ^ 29)
    (hpeer : (GroupRun.peers g).any (fun e => e.2.requester == req) = true) (harea : areaOf (off / 2 ^ 28) (off % 2 ^ 22) b.length = some 4) :
    ∃ rs, frameWriteOn req f off b s = { s with winMem := writeCells s.winMem (winAddr f off) b, runs := rs } := by
  simp only [frameWriteOn, hf, harea, hoff, hpeer, and_self, if_true]
  split
  · obtain ⟨_, h⟩ := setGroup_frame { s with winMem := writeCells s.winMem (winAddr f off) b } q
      { g with barriers := g.barriers ++ [(off / 2 ^ 22 % 64, off / 2 ^ 28, b)] }
    exact ⟨_, h⟩
  · exact ⟨_, rfl⟩

/-- A peer's write into the area of a phase stores its bytes, and the area's counter advances by their number. -/
theorem frameWriteOn_counts (hf : frameRun s f = some (q, r, g)) (hoff : off < 2 ^ 29)
    (hpeer : (GroupRun.peers g).any (fun e => e.2.requester == req) = true) (harea : areaOf (off / 2 ^ 28) (off % 2 ^ 22) b.length = some area)
    (hne : area ≠ 4) :
    let k := countKey f (off / 2 ^ 22 % 64) (off / 2 ^ 28) area
    ∃ rs, frameWriteOn req f off b s =
      setCount { s with winMem := writeCells s.winMem (winAddr f off) b, runs := rs } k (areaCount s k + b.length) := by
  simp only [frameWriteOn, hf, harea, hoff, hpeer, and_self, if_true, hne, if_false]
  split
  · obtain ⟨rs, h⟩ := claimSlot_frame { s with winMem := writeCells s.winMem (winAddr f off) b } q g (off / 2 ^ 22 % 64) req
    exact ⟨rs, by rw [h]; rfl⟩
  · exact ⟨_, rfl⟩

theorem frameWriteOn_discards (hf : frameRun s f = some (q, r, g))
    (hbad : (GroupRun.peers g).any (fun e => e.2.requester == req) = false ∨ areaOf (off / 2 ^ 28) (off % 2 ^ 22) b.length = none) :
    frameWriteOn req f off b s = discardWrite s req f off := by
  rw [frameWriteOn, hf]
  rcases hbad with hpeer | harea
  · cases areaOf (off / 2 ^ 28) (off % 2 ^ 22) b.length with
    | none => rfl
    | some area => exact if_neg fun h => Bool.false_ne_true (hpeer.symm.trans h.2)
  · rw [harea]

theorem areaCount_setCount (s : State) (k j n : Nat) : areaCount (setCount s k n) j = if j = k then n else areaCount s j := tget_tset ..

/-- What a peer's write to a listed area does to the window and its counters, and that device memory is left alone. -/
theorem frameWrite_stores (hlt : f < 4) (hf : frameRun s f = some (q, r, g)) (hoff : off < 2 ^ 29)
    (hpeer : (GroupRun.peers g).any (fun e => e.2.requester == req) = true)
    (harea : areaOf (off / 2 ^ 28) (off % 2 ^ 22) b.length = some area) :
    ∃ t, exec (.frameWrite req f off b) s = .next t ∧ t.winMem = writeCells s.winMem (winAddr f off) b ∧ t.mem = s.mem
      ∧ (area ≠ 4 → let k := countKey f (off / 2 ^ 22 % 64) (off / 2 ^ 28) area
          ∀ j, areaCount t j = if j = k then areaCount s k + b.length else areaCount s j) := by
  by_cases hne : area = 4
  · subst hne
    obtain ⟨_, h⟩ := frameWriteOn_target hf hoff hpeer harea
    exact ⟨_, onIndex_next hlt h, rfl, rfl, fun hne => absurd rfl hne⟩
  · obtain ⟨_, h⟩ := frameWriteOn_counts hf hoff hpeer harea hne
    exact ⟨_, onIndex_next hlt h, rfl, rfl, fun _ _ => areaCount_setCount ..⟩

end

/-! ### Counted barriers (R230, R231) -/

/-- A barrier honoured: what it says is noted, the count of its area is cleared, and the credit that makes due is given. -/
def barrierHonoured (s : State) (f q : Nat) (g : GroupRun) (sender ph bank : Nat) (e : Nat × Nat × List Byte) : State :=
  giveCredit (setGroup (setCount s (countKey f sender bank ph) 0) q
    (honour { g with barriers := g.barriers.erase e } sender ph (leAt e.2.2 8 8) (areaBytes s f sender bank ph (leAt e.2.2 4 4)))) q sender

/-- A barrier that disagrees with the bytes that came: the phase is asked for again. -/
def barrierRefused (s : State) (f q : Nat) (g : GroupRun) (sender ph bank : Nat) (e : Nat × Nat × List Byte) : State :=
  askAgain (setCount s (countKey f sender bank ph) 0) q { g with barriers := g.barriers.erase e } sender ph (BitVec.ofNat 64 (leAt e.2.2 8 8))

section
variable {s : State} {f q sender ph bank : Nat} {r : Run} {g : GroupRun} {e : Nat × Nat × List Byte}

/-- A barrier in hand from a peer, by the bytes that its area has received. -/
theorem countedBarrierOn_eq (hf : frameRun s f = some (q, r, g)) (he : g.barriers.find? (isBarrier g sender ph bank) = some e)
    (hpeer : sender ≠ g.position) (hsize : sender < g.size) (hph : ph ≤ 2) :
    countedBarrierOn f sender ph bank s =
      if areaCount s (countKey f sender bank ph) < leAt e.2.2 4 4 then s
      else if areaCount s (countKey f sender bank ph) = leAt e.2.2 4 4
          ∧ sumWords (areaBytes s f sender bank ph (leAt e.2.2 4 4)) = leAt e.2.2 0x10 8 then barrierHonoured s f q g sender ph bank e
      else barrierRefused s f q g sender ph bank e := by
  have hmine : ¬ (sender = g.position ∨ g.size ≤ sender ∨ phEnd < ph) := by
    unfold phEnd
    omega
  have hdata : ph ≠ phEnd := by
    unfold phEnd
    omega
  rw [countedBarrierOn, groupOn_eq hf, he]
  dsimp only
  rw [if_neg hmine, if_neg hdata]
  simp only [hdata, false_or]
  rfl

theorem countedBarrierOn_end (hf : frameRun s f = some (q, r, g)) (he : g.barriers.find? (isBarrier g sender 3 bank) = some e)
    (hpeer : sender ≠ g.position) (hsize : sender < g.size) :
    countedBarrierOn f sender 3 bank s = barrierHonoured s f q g sender 3 bank e := by
  have hmine : ¬ (sender = g.position ∨ g.size ≤ sender ∨ phEnd < 3) := by
    unfold phEnd
    omega
  rw [countedBarrierOn, groupOn_eq hf, he]
  dsimp only
  rw [if_neg hmine, if_pos (show 3 = phEnd from rfl), if_neg (Nat.lt_irrefl _)]
  exact if_pos ⟨rfl, .inl rfl⟩

end

theorem sendWord_only (s : State) (a : Nat) (w : Control) : OnlyMemory s (sendWord s a w) := (sendMsg_only ..).memory

theorem OnlyMemory.areaCount {s t : State} (h : OnlyMemory s t) (k : Nat) : areaCount t k = areaCount s k := by
  obtain ⟨_, _, _, _, _, _, _, _, _, _, _, _, _, _, _, _, _, _, _, _, rfl, _, _⟩ := h
  rfl

theorem areaCount_setGroup (s : State) (q : Nat) (g : GroupRun) (k : Nat) : areaCount (setGroup s q g) k = areaCount s k := by
  obtain ⟨_, h⟩ := setGroup_frame s q g
  rw [h]
  rfl

/-- Asking for a phase changes no counter of the window. -/
theorem areaCount_askAgain (s : State) (q : Nat) (g : GroupRun) (sender ph : Nat) (e : U64) (k : Nat) :
    areaCount (askAgain s q g sender ph e) k = areaCount s k := by
  unfold askAgain
  rw [areaCount_setGroup]
  split
  · exact ((logEvent_only ..).trans (sendWord_only ..)).areaCount k
  · exact (logEvent_only ..).areaCount k

/-! ### RESEND and CREDIT (R231, R232) -/

section
variable {s : State} {f q sender : Nat} {r : Run} {g : GroupRun}

theorem resendOn_repeats {ph : Nat} {e : U64} {x : SentPhase} {m : Member} (hf : frameRun s f = some (q, r, g))
    (hx : g.sent.find? (fun x => x.phase == ph && x.epoch == e) = some x) (hm : g.members[sender]? = some m) (hpeer : sender ≠ g.position) :
    resendOn f sender ph e s = setGroup (sendTo s g x m) q
      { GroupRun.setMember g sender (fun m => { m with since := s.us }) with recovery := true } := by
  rw [resendOn, groupOn_eq hf, hx, hm]
  exact if_neg hpeer

theorem creditOn_notes (hf : frameRun s f = some (q, r, g)) (hpeer : sender ≠ g.position) (e : U64) :
    creditOn f sender e s = setGroup s q
      (GroupRun.setMember g sender (fun m => { m with credit := if m.credit.contains e then m.credit else m.credit ++ [e] })) := by
  rw [creditOn, groupOn_eq hf]
  exact if_neg hpeer

end

/-- Settles O38: one lemma for each row and case. -/
theorem groupExchange : Obligations.GroupExchange := by
  unfold Obligations.GroupExchange
  intro s
  refine ⟨?join, fun f q r g hlt hf => ⟨?write, ?discard, ?barrier, ?endBarrier, ?resend, ?credit⟩⟩
  case join =>
    intro q inner c r g hs hr hg hdone
    exact ⟨fun hsent hseed => onQueue_next hs.1 (joinOn_sends hs hr hg hdone hsent hseed),
      fun x xs hsent hclaimed => onQueue_next hs.1 (joinOn_claimed hs hr hg hdone hsent hclaimed),
      fun hsent hclaimed hall => onQueue_next hs.1 (joinOn_ends hs hr hg hdone hsent hclaimed hall)⟩
  case write =>
    intro req off b area hoff hpeer harea
    obtain ⟨t, hexec, hwin, hmem, hcount⟩ := frameWrite_stores hlt hf hoff hpeer harea
    refine ⟨t, hexec, ?_, fun x hx => ?_, fun hne => ⟨?_, fun j hj => ?_⟩, hmem⟩
    · rw [hwin, readCells_writeCells]
    · rw [hwin, tget_writeCells, if_neg (by omega)]
    · rw [hcount hne, if_pos rfl]
    · rw [hcount hne, if_neg hj]
  case discard => exact fun req off b hbad => onIndex_next hlt (frameWriteOn_discards hf hbad)
  case barrier =>
    intro sender ph bank e he hpeer hsize hph n k h
    have hrow := countedBarrierOn_eq hf he hpeer hsize hph
    refine ⟨fun hfew => ?_, fun hall hsum => ?_, fun hbad => ⟨?_, ?_⟩⟩
    · exact onIndex_idle hlt (hrow.trans (if_pos hfew))
    · exact onIndex_next hlt (hrow.trans ((if_neg hall.not_lt).trans (if_pos ⟨hall, hsum⟩)))
    · have hnot : ¬ (areaCount s k = n ∧ sumWords (areaBytes s f sender bank ph n) = leAt e.2.2 0x10 8) := by
        rcases hbad with hmore | ⟨-, hsum⟩
        · exact fun h => hmore.ne' h.1
        · exact fun h => hsum h.2
      have hgot : ¬ areaCount s k < n := hbad.elim Nat.lt_asymm fun h => h.1.not_lt
      exact onIndex_next hlt (hrow.trans ((if_neg hgot).trans (if_neg hnot)))
    · rw [areaCount_askAgain, areaCount_setCount, if_pos rfl]
  case endBarrier => exact fun sender bank e he hpeer hsize => onIndex_next hlt (countedBarrierOn_end hf he hpeer hsize)
  case resend => exact fun sender ph e x m hx hm hpeer => onIndex_next hlt (resendOn_repeats hf hx hm hpeer)
  case credit => exact fun sender e hpeer => onIndex_next hlt (creditOn_notes hf hpeer e)

end Sys2Proof.Machine

/-! # Deadlines, loose exchange, and the ends of a group's run (O39)

What each row makes of the run that holds the frame (R237, R238, R240, R241), and what of loose exchange lasts: the run is marked, the
epoch from which its closes are loose only falls, and giving credit changes neither. -/

namespace Sys2Proof.Machine

/-! ### Runs in loose exchange (R238) -/

/-- Queue q runs a group whose closes are loose from epoch e on. -/
def LooseRun (s : State) (q : Nat) (e : U64) : Prop :=
  ∃ r g, runOf s q = some r ∧ r.group = some g ∧ r.loose = true ∧ g.looseFrom = some e

theorem isLoose_iff {g : GroupRun} {x : U64} : GroupRun.isLoose g x = true ↔ ∃ o, g.looseFrom = some o ∧ o ≤ x := by
  unfold GroupRun.isLoose
  cases g.looseFrom with
  | none => simp
  | some o => simp

theorem OnlyMemory.runOf {s t : State} (h : OnlyMemory s t) (q : Nat) : runOf t q = runOf s q := by
  obtain ⟨-, -, -, -, -, -, hruns, -⟩ := h.frame
  unfold Machine.runOf
  rw [hruns]

theorem giveCredit_keeps_loose {s : State} {q : Nat} {e : U64} (h : LooseRun s q e) (sender : Nat) : LooseRun (giveCredit s q sender) q e := by
  obtain ⟨r, g, hr, hg, hloose, hfrom⟩ := h
  have hgroup : (runOf s q).bind (·.group) = some g := by rw [hr]; exact hg
  rw [giveCredit, hgroup]
  dsimp only
  cases g.members[sender]? with
  | none => exact ⟨r, g, hr, hg, hloose, hfrom⟩
  | some m =>
    have hsent := (foldl_keeps id (fun x d => sendWord_only x (controlAddr m g.position) (.credit d)) (creditDue g m) s).runOf q
    exact ⟨_, _, runOf_setGroup (hsent.trans hr) _, rfl, hloose, hfrom⟩

theorem foldl_giveCredit_keeps_loose {s : State} {q : Nat} {e : U64} (h : LooseRun s q e) (ms : List (Nat × Member)) :
    LooseRun (ms.foldl (fun s m => giveCredit s q m.1) s) q e := by
  induction ms generalizing s with
  | nil => exact h
  | cons m ms ih => exact ih (giveCredit_keeps_loose h m.1)

/-- The epoch from which closes are loose once they are loose from e on. -/
def looseStart (g : GroupRun) (e : U64) : U64 := g.looseFrom.elim e (fun o => if o ≤ e then o else e)

theorem looseStart_le (g : GroupRun) (e : U64) : looseStart g e ≤ e := by
  unfold looseStart
  cases g.looseFrom with
  | none => exact BitVec.le_refl e
  | some o =>
    dsimp only [Option.elim]
    split
    · assumption
    · exact BitVec.le_refl e

theorem looseStart_le_of_loose {g : GroupRun} {o : U64} (h : g.looseFrom = some o) (e : U64) : looseStart g e ≤ o := by
  rw [looseStart, h]
  dsimp only [Option.elim]
  split
  · exact BitVec.le_refl o
  · exact (BitVec.le_total o e).resolve_left ‹_›

theorem fallLoose_loose {s : State} {q : Nat} {r : Run} {g : GroupRun} (hr : runOf s q = some r) (hg : r.group = some g) (e : U64) :
    LooseRun (fallLoose s q e) q (looseStart g e) := by
  rw [fallLoose, hr]
  dsimp only
  rw [hg]
  dsimp only
  refine foldl_giveCredit_keeps_loose ?_ _
  refine ⟨_, _, (runOf_setRun ..).trans (if_pos rfl), rfl, rfl, ?_⟩
  unfold looseStart
  cases g.looseFrom with
  | none => rfl
  | some o => rfl

/-! ### The rows -/

section
variable {s : State} {f q : Nat} {r : Run} {g : GroupRun}

theorem group_of_frameRun (hf : frameRun s f = some (q, r, g)) : r.group = some g := by
  obtain ⟨⟨q', r'⟩, -, h⟩ := List.exists_of_findSome?_eq_some hf
  cases hg : r'.group with
  | none => simp [hg] at h
  | some g' =>
    simp only [hg, Option.ite_none_right_eq_some, Option.some.injEq, Prod.mk.injEq] at h
    obtain ⟨-, -, rfl, rfl⟩ := h
    exact hg

/-- A deadline of Table 10-6 missed in a close that is still strict is logged, told to the peers, and makes the run loose. -/
theorem barrierDeadlineMissOn_falls {late ph k : Nat} {e : U64} (hf : frameRun s f = some (q, r, g)) (he : awaits r g late ph = some e)
    (hk : missCase s g late ph = some k) (hstrict : GroupRun.isLoose g e = false) :
    ∃ u, barrierDeadlineMissOn f late ph s = fallLoose (tellPeers u g (.loose e)) q e ∧ u = { s with peat := u.peat } := by
  rw [barrierDeadlineMissOn, groupOn_eq hf, he, hk]
  dsimp only
  rw [hstrict, if_neg Bool.false_ne_true]
  refine ⟨_, rfl, ?_⟩
  obtain ⟨_, hlog⟩ := logEvent_frame s (blockId 0x70 0 0) 0x304 noFn (toLE 1 late ++ toLE 8 e.toNat ++ [Config.logCode (2 + k)])
  rw [hlog]

theorem barrierDeadlineMissOn_idle {late ph : Nat} (hf : frameRun s f = some (q, r, g))
    (h : awaits r g late ph = none ∨ missCase s g late ph = none) : barrierDeadlineMissOn f late ph s = s := by
  rw [barrierDeadlineMissOn, groupOn_eq hf]
  rcases h with he | hk
  · rw [he]
  · rw [hk]
    cases awaits r g late ph with
    | none => rfl
    | some e => rfl

theorem looseOn_falls {sender : Nat} (hf : frameRun s f = some (q, r, g)) (hsize : sender < g.size) (hpeer : sender ≠ g.position) (e : U64) :
    looseOn f sender e s = fallLoose s q e := by
  rw [looseOn, groupOn_eq hf]
  exact if_pos ⟨hsize, hpeer⟩

/-- DETAIL with which a member completes, where v is the free value of a truncated run (Table 11-8). -/
def endDetail (g : GroupRun) (status : Byte) (v : U64) : Nat :=
  if status.toNat = stLoose then (g.looseFrom.getD 0).toNat % 2 ^ 32 else if status.toNat = stTruncated then v.toNat % 2 ^ 32 else 0

theorem endRunOn_completes {status : Byte} (hf : frameRun s f = some (q, r, g)) (hpos : g.position ≠ 0) (hdone : r.stages.length ≤ r.done)
    (hok : status.toNat < 0x10) (hended : g.members.head?.any (·.ended) = true) :
    endRunOn f status s = completeRun { s with draws := s.draws + 1 } q r
      (outcome status.toNat (endDetail g status (Config.freeValue s.draws)) (Run.decisions r)) := by
  have hready : ¬ (g.position = 0 ∨ r.done < r.stages.length ∨ (g.members.headD { frameAddr := 0, requester := 0 }).ended = false) := by
    rintro (h | h | h)
    · exact hpos h
    · exact absurd h (Nat.not_lt.2 hdone)
    · cases hm : g.members with
      | nil => simp [hm] at hended
      | cons m ms =>
        rw [hm] at h hended
        exact Bool.false_ne_true (h.symm.trans hended)
  rw [endRunOn, groupOn_eq hf]
  exact (if_neg hready).trans (if_neg (Nat.not_le.2 hok))

theorem abortOn_ends {sender : Nat} {status : Byte} (hf : frameRun s f = some (q, r, g)) (hsize : sender < g.size)
    (hpeer : sender ≠ g.position) (herr : 0x10 ≤ status.toNat) :
    abortOn f sender status s = finish (endRun s q status.toNat (errorEnd (outcome status.toNat (2 ^ 31 + sender) 0) 0) false) q
      (outcome status.toNat (2 ^ 31 + sender) 0) := by
  rw [abortOn, groupOn_eq hf]
  exact if_pos ⟨hsize, hpeer, herr⟩

end

/-- Settles O39: one lemma for each row; a run that falls to loose exchange is loose from the earlier of its epoch and the one named. -/
theorem groupEnds : Obligations.GroupEnds := by
  unfold Obligations.GroupEnds
  intro s f q r g hlt hf
  refine ⟨?falls, ?idle, ?loose, ?lasts, ?ends, ?aborts⟩
  case falls =>
    intro late ph e k he hk hstrict
    obtain ⟨u, hrow, hu⟩ := barrierDeadlineMissOn_falls hf he hk hstrict
    exact ⟨u, onIndex_next hlt hrow, hu⟩
  case idle => exact fun late ph h => onIndex_idle hlt (barrierDeadlineMissOn_idle hf h)
  case loose => exact fun sender e hsize hpeer => onIndex_next hlt (looseOn_falls hf hsize hpeer e)
  case lasts =>
    intro hr e
    obtain ⟨r', g', hr', hg', hloose, hfrom⟩ := fallLoose_loose hr (group_of_frameRun hf) e
    refine ⟨r', g', hr', hg', hloose, isLoose_iff.2 ⟨_, hfrom, looseStart_le g e⟩, fun x hx => ?_⟩
    obtain ⟨o, ho, hox⟩ := isLoose_iff.1 hx
    exact isLoose_iff.2 ⟨_, hfrom, BitVec.le_trans (looseStart_le_of_loose ho e) hox⟩
  case ends =>
    intro status hpos hdone hok hended
    refine ⟨_, endDetail g status (Config.freeValue s.draws), rfl, fun hl => ?_, fun hl ht => ?_,
      onIndex_next hlt (endRunOn_completes hf hpos hdone hok hended)⟩
    · exact if_pos hl
    · exact (if_neg hl).trans (if_neg ht)
  case aborts => exact fun sender status hsize hpeer herr => onIndex_next hlt (abortOn_ends hf hsize hpeer herr)

end Sys2Proof.Machine

/-! # Completion of commands, and the record (O9, O10)

What completing a command and being done with its record change of the queue, each said once as an equation, and the layout of the 32 bytes
of a record by the rule for little-endian fields of a byte string. -/

namespace Sys2Proof.Machine

/-! ### Completing the active command (R245, R263, R266) -/

/-- A queue whose active command c is passed: an inner command leaves the EXEC_BUFFER in place, a ring command frees its slot. -/
def passed (Q : Queue) (inner : Bool) (c : Cmd) : Queue :=
  if inner then { Q with innerCur := none }
  else { Q with cur := none, buffer := none, innerCur := none, sqHead := Q.sqHead + 1
                fetchedBuffer := if Cmd.opcode c = opExecBuffer then [] else Q.fetchedBuffer, fetched := Q.fetched.filter (fun e => e.1 != Q.sqHead) }

theorem conclude_eq (s : State) (q : Nat) (inner : Bool) (c : Cmd) (o : Outcome3) (dest : Option (Nat × Span)) :
    conclude s q inner c o dest =
      setQueue s q { passed (queueOf s q) inner c with out := (queueOf s q).out ++ [makeOut s q inner c o dest] } := by
  cases inner <;> rfl

theorem finishTo_eq {s : State} {q : Nat} {inner : Bool} {c : Cmd} (h : activeCmd (queueOf s q) = some (inner, c)) (o : Outcome3)
    (dest : Option (Nat × Span)) : finishTo s q o dest = conclude s q inner c o dest := by
  unfold finishTo
  rw [h]

/-- Completing a command keeps what every command keeps. -/
@[simp] theorem keep_finishTo (s : State) (q : Nat) (o : Outcome3) (dest : Option (Nat × Span)) : keep s (finishTo s q o dest) = finishTo s q o dest := by
  obtain ⟨_, h⟩ := finishTo_only s q o dest
  rw [h]
  rfl

@[simp] theorem keep_finish (s : State) (q : Nat) (o : Outcome3) : keep s (finish s q o) = finish s q o := keep_finishTo ..

@[simp] theorem keep_setQueue (s : State) (q : Nat) (Q : Queue) : keep s (setQueue s q Q) = setQueue s q Q := rfl

theorem activeCmd_passed_ring (Q : Queue) (c : Cmd) : activeCmd (passed Q false c) = none := rfl

/-! ### Being done with a record (R249, R250) -/

theorem isPerFn_cmdCount {q : Nat} (h : q < 4096) : isPerFn (reg (17 + q / 1024) 0x48) = false ∧ isPerFn (reg (17 + q / 1024) 0x48 + 4) = false := by
  have hfe : q / 1024 < 4 := by omega
  generalize q / 1024 = k at hfe
  interval_cases k <;> decide

theorem countCmd_frame {q : Nat} (h : q < 4096) (s : State) : ∃ r, countCmd s q = { s with regs := r } := by
  obtain ⟨hlo, hhi⟩ := isPerFn_cmdCount h
  obtain ⟨_, h1⟩ := setReg_frame hlo s 0 ((get64 s (reg (17 + q / 1024) 0x48) + 1) % 2 ^ 32)
  obtain ⟨r, h2⟩ := setReg_frame hhi { s with regs := _ } 0 ((get64 s (reg (17 + q / 1024) 0x48) + 1) / 2 ^ 32 % 2 ^ 32)
  exact ⟨r, (congrArg (fun t => setReg t 0 (reg (17 + q / 1024) 0x48 + 4) _) h1).trans h2⟩

@[simp] theorem queueOf_countCmd (s : State) (q p : Nat) : queueOf (countCmd s q) p = queueOf s p := by
  obtain ⟨_, _, h⟩ := countCmd_only s q
  rw [h]
  rfl

/-- A queue that is done with its first record. -/
def popped (Q : Queue) (now : Nat) : Queue :=
  { Q with out := Q.out.drop 1, recordHeld := false, nextSince := now
           cur := Q.cur.map (fun c => { c with since := c.since + (if Q.recordHeld then now - Q.heldSince else 0) }) }

theorem popOut_eq (s : State) (q : Nat) : popOut s q = setQueue (countCmd s q) q (popped (queueOf s q) s.us) := by
  obtain ⟨_, _, h⟩ := countCmd_only s q
  unfold popOut
  dsimp only
  rw [queueOf_countCmd, h]
  rfl

@[simp] theorem queueOf_popOut (s : State) (q p : Nat) : queueOf (popOut s q) p = if p = q then popped (queueOf s q) s.us else queueOf s p := by
  rw [popOut_eq, queueOf_setQueue, queueOf_countCmd]

theorem popOut_frame {q : Nat} (h : q < 4096) (s : State) : OnlyQueues s (popOut s q) := by
  obtain ⟨r, hr⟩ := countCmd_frame h s
  rw [popOut_eq, hr]
  rfl

/-- FE_CMD_CNT counts the command (R250). -/
theorem get64_popOut {q : Nat} (h : q < 4096) (s : State) :
    get64 (popOut s q) (reg (17 + q / 1024) 0x48) = (get64 s (reg (17 + q / 1024) 0x48) + 1) % 2 ^ 64 := by
  rw [popOut_eq]
  exact get64_add64 (isPerFn_cmdCount h).1 (isPerFn_cmdCount h).2

/-- Settles O9: the queue after completion and the queue done with a record, each by its equation. -/
theorem commandCompletes : Obligations.CommandCompletes := by
  unfold Obligations.CommandCompletes
  intro s q inner c o hq hact
  have hfin : finish s q o = _ := (finishTo_eq hact o none).trans (conclude_eq ..)
  refine ⟨?record, ?ring, ?innerCmd, ?others, ?frame, ?popped⟩
  case record =>
    rw [hfin]
    simp [makeOut]
  case ring =>
    rintro rfl
    rw [hfin, queueOf_setQueue, if_pos rfl]
    exact ⟨rfl, rfl⟩
  case innerCmd =>
    rintro rfl
    rw [hfin, queueOf_setQueue, if_pos rfl]
    exact ⟨rfl, rfl, rfl⟩
  case others =>
    intro p hp
    rw [hfin, queueOf_setQueue, if_neg hp]
  case frame =>
    rw [hfin]
    rfl
  case popped =>
    have hown : queueOf (popOut s q) q = popped (queueOf s q) s.us := by simp
    refine ⟨?_, ?_, ?_, get64_popOut hq s, fun p hp => by simp [hp], popOut_frame hq s⟩
    · rw [hown]; rfl
    · rw [hown]; rfl
    · rw [hown]; rfl

/-! ### Little-endian fields of a byte string (R10) -/

@[simp] theorem toLE_length (n v : Nat) : (toLE n v).length = n := by
  induction n generalizing v with
  | zero => rfl
  | succ n ih => simp [toLE, ih]

theorem ofLE_toLE (n v : Nat) : ofLE (toLE n v) = v % 256 ^ n := by
  induction n generalizing v with
  | zero => simp [toLE, ofLE, Nat.mod_one]
  | succ n ih =>
    rw [toLE, ofLE, ih, pow_succ', Nat.mod_mul, BitVec.toNat_ofNat]

theorem leAt_toLE (n v : Nat) : leAt (toLE n v) 0 n = v % 256 ^ n := by
  rw [leAt, List.drop_zero, List.take_of_length_le (toLE_length n v).le, ofLE_toLE]

/-- The first field of a byte string. -/
theorem leAt_head (n v : Nat) (b : List Byte) : leAt (toLE n v ++ b) 0 n = v % 256 ^ n := by
  rw [leAt, List.drop_zero, List.take_append_of_le_length (toLE_length n v).ge, List.take_of_length_le (toLE_length n v).le, ofLE_toLE]

/-- A field behind the first one. -/
theorem leAt_skip {m o : Nat} (h : m ≤ o) (v n : Nat) (b : List Byte) : leAt (toLE m v ++ b) o n = leAt b (o - m) n := by
  rw [leAt, List.drop_append, List.drop_of_length_le ((toLE_length m v).le.trans h), List.nil_append, toLE_length, leAt]

/-! ### The record (Table 11-7) -/

/-- FLAGS of a record: PHASE in bit 0, INNER in bit 1. -/
def recordFlags (Q : Queue) (r : OutRec) : Nat :=
  (if Q.cqTail.toNat / Queue.size Q % 2 = 0 then 1 else 0) + (if r.inner then 2 else 0)

theorem recordFlags_lt (Q : Queue) (r : OutRec) : recordFlags Q r < 4 := by
  unfold recordFlags
  split_ifs <;> decide

theorem recordFlags_phase (Q : Queue) (r : OutRec) : bits (recordFlags Q r) 0 1 = (Q.cqTail.toNat / 2 ^ Q.log2Size + 1) % 2 := by
  unfold recordFlags bits Queue.size
  split_ifs <;> omega

theorem recordFlags_inner (Q : Queue) (r : OutRec) : bits (recordFlags Q r) 1 1 = if r.inner then 1 else 0 := by
  unfold recordFlags bits
  split_ifs <;> omega

theorem recordFlags_above (Q : Queue) (r : OutRec) : bits (recordFlags Q r) 2 6 = 0 := by
  have := recordFlags_lt Q r
  unfold bits
  omega

theorem recordBytes_eq (Q : Queue) (r : OutRec) : recordBytes Q r =
    toLE 4 Q.sqHead.toNat ++ toLE 4 r.tag.toNat ++ toLE 4 r.out.detail.toNat ++ toLE 1 r.out.status.toNat ++ toLE 1 (recordFlags Q r) ++ toLE 2 0
      ++ toLE 8 r.time.toNat ++ toLE 8 r.out.result.toNat := by
  have hstatus : toLE 1 r.out.status.toNat = [r.out.status] := by simp [toLE]
  rw [hstatus]
  rfl

theorem recordBytes_length (Q : Queue) (r : OutRec) : (recordBytes Q r).length = 32 := by simp [recordBytes_eq]

/-- A slot of a completion ring that starts on its boundary. -/
theorem cqSlot_aligned {Q : Queue} (h : Q.cqBase.toNat % 4096 = 0) : Queue.cqSlot Q % 32 = 0 := by
  unfold Queue.cqSlot
  omega

/-- Settles O10: each field of Table 11-7 stands behind those before it. -/
theorem recordLayout : Obligations.RecordLayout := by
  unfold Obligations.RecordLayout
  intro Q r
  have hflags : leAt (recordBytes Q r) 0x0D 1 = recordFlags Q r := by
    simp only [recordBytes_eq, List.append_assoc, leAt_skip, leAt_head, Nat.reduceLeDiff, Nat.reduceSub]
    exact Nat.mod_eq_of_lt ((recordFlags_lt Q r).trans (by decide))
  rw [hflags]
  refine ⟨recordBytes_length Q r, ?head, ?tag, ?detail, ?status, recordFlags_phase Q r, recordFlags_inner Q r, recordFlags_above Q r, ?zeros,
    ?time, ?result, cqSlot_aligned⟩
  all_goals simp only [recordBytes_eq, List.append_assoc, leAt_skip, leAt_head, leAt_toLE, Nat.reduceLeDiff, Nat.reduceSub]
  case head => exact Nat.mod_eq_of_lt Q.sqHead.isLt
  case tag => exact Nat.mod_eq_of_lt r.tag.isLt
  case detail => exact Nat.mod_eq_of_lt r.out.detail.isLt
  case status => exact Nat.mod_eq_of_lt r.out.status.isLt
  case zeros => rfl
  case time => exact Nat.mod_eq_of_lt r.time.isLt
  case result => exact Nat.mod_eq_of_lt r.out.result.isLt

end Sys2Proof.Machine

/-! # The commands that move bytes, and the operations on contexts (O11, O14, O15)

Each row once for the active command that it serves, where what it reads is good; a read gives no more bytes than it is asked for, so that
COPY writes all that it has read. -/

namespace Sys2Proof.Machine

/-! ### How many bytes a read gives -/

theorem redraw_length (s : State) (r : List (Nat × Nat)) (a : Nat) (b : List Byte) : (redraw s r a b).1.length = b.length := by
  unfold redraw
  split
  · simp [drawBytes]
  · rfl

theorem portRead_read_length (s : State) (m : Nat) (taken : Nat → Bool) (o len : Nat) (u : Upset) :
    (portRead s m taken (.read o len u)).1.length ≤ len := by
  unfold portRead
  dsimp only
  generalize readSlice s m (o % sliceBytes / 32) (!taken (o % sliceBytes / 32)) false = x
  obtain ⟨_ | d, t⟩ := x
  · simp
  · simp

theorem serve_read_length (s : State) (m o len : Nat) (u : Upset) : (serve s m [.read o len u]).1.length ≤ len := by
  unfold serve
  simp only [List.foldl_cons, List.foldl_nil, List.nil_append]
  exact portRead_read_length ..

theorem readSlices_length (s : State) (o n k : Nat) : (readSlices s o n k).1.length ≤ n := by
  induction k generalizing s o n with
  | zero => exact Nat.zero_le n
  | succ k ih =>
    unfold readSlices
    split
    · exact Nat.zero_le n
    · have hhead := serve_read_length s (o / sliceBytes) (o % sliceBytes) (min n (32 - o % 32)) 0
      have htail := ih (serve s (o / sliceBytes) [.read (o % sliceBytes) (min n (32 - o % 32)) 0]).2.2 (o + min n (32 - o % 32))
        (n - min n (32 - o % 32))
      refine (List.length_append ..).trans_le ((Nat.add_le_add hhead htail).trans ?_)
      omega

theorem readAbove_length (s : State) (fn a n : Nat) : (readAbove s fn a n).1.length ≤ n := by
  unfold readAbove
  split
  · exact readSlices_length ..
  · simp

theorem readBelow_length (s : State) (a n : Nat) : (readBelow s a n).1.length ≤ n := by
  unfold readBelow
  split
  · exact Nat.zero_le n
  · exact List.length_take_le ..

theorem readDev_length (s : State) (fn a n : Nat) : (readDev s fn a n).1.length ≤ n := by
  have hbelow := readBelow_length s a (min n (capacity s - a))
  unfold readDev
  dsimp only
  split
  · exact hbelow.trans (min_le_left ..)
  · have habove := readAbove_length (readBelow s a (min n (capacity s - a))).2.2 fn (a + min n (capacity s - a)) (n - min n (capacity s - a))
    refine (List.length_append ..).trans_le ((Nat.add_le_add hbelow habove).trans ?_)
    omega

theorem readSpan_length (s : State) (fn : Nat) (p : Span) (off n : Nat) : (readSpan s fn p off n).1.length ≤ n := by
  unfold readSpan
  split
  · exact (redraw_length ..).trans_le (readCells_length ..).le
  · exact readDev_length ..

/-! ### The commands that move bytes (Table 11-2) -/

/-- Completing a command keeps what every command keeps, whatever was done before. -/
theorem keep_finishTo_of {s u : State} (h : keep s u = u) (q : Nat) (o : Outcome3) (dest : Option (Nat × Span)) :
    keep s (finishTo u q o dest) = finishTo u q o dest := by
  obtain ⟨_, hq⟩ := finishTo_only u q o dest
  rw [hq]
  exact keep_eq (congrArg State.pending h).symm (congrArg State.part h).symm (congrArg (·.flash.retired) h).symm

section
variable {s : State} {q : Nat} {inner : Bool} {c : Cmd}

theorem exec_nop (hs : Serving s q opNop inner c) : exec (.nop q) s = .next (finish s q (okWith 0)) := by
  rw [← keep_finish s q]
  exact onQueue_next hs.1 (onStarted_serving hs)

theorem exec_timestamp (hs : Serving s q opTimestamp inner c) : exec (.timestamp q) s = .next (keep s (finishTo
    (writeSpan s (queueFn s q) (Cmd.span c 0x20) (Cmd.fld c 0x28 8) (toLE 8 (deviceTime s).toNat)) q
    (okWith (deviceTime s).toNat) (destOf (Cmd.span c 0x20)))) :=
  onQueue_next hs.1 (onStarted_serving hs)

theorem syncClearOn_clears {g : Nat} (hs : Serving s q opSyncClear inner c) (hg : globalSync s (queueFn s q) (Cmd.fld c 0x20 2) = some g) :
    syncClearOn q s = finish (setSync s g { syncOf s g with error := false }) q (okWith 0) := by
  rw [syncClearOn, onStarted_serving hs, hg]

theorem exec_syncClear {g : Nat} (hs : Serving s q opSyncClear inner c) (hg : globalSync s (queueFn s q) (Cmd.fld c 0x20 2) = some g) :
    exec (.syncClear q) s = .next (finish (setSync s g { syncOf s g with error := false }) q (okWith 0)) := by
  rw [finish, ← keep_finishTo_of (s := s) rfl]
  exact onQueue_next hs.1 (syncClearOn_clears hs hg)

theorem exec_execBuffer (hs : Serving s q opExecBuffer inner c) (h0 : c.progress = 0) : exec (.execBuffer q) s = .next (setQueue s q
    { queueOf s q with cur := some { c with progress := 1 }, nextSince := s.us
                       buffer := some { addr := (Cmd.span c 0x20).addr + Cmd.fld c 0x28 8, count := Cmd.fld c 0x24 4 } }) := by
  obtain ⟨hq, hact, hphase, hop⟩ := hs
  exact onQueue_next hq (onStarted_eq hact hphase (by simp [isOp_eq hop, h0]))

theorem exec_patch (hs : Serving s q opPatch inner c) : exec (.patch q) s = .next (keep s (finish
    (writeSpan s (queueFn s q) (Cmd.span c 0x20) (Cmd.fld c 0x28 8) ((c.bytes.drop 0x30).take (Cmd.fld c 0x24 1))) q (okWith 0))) :=
  onQueue_next hs.1 (onStarted_serving hs)

theorem exec_fill (hs : Serving s q opFill inner c) : exec (.fill q) s = .next (keep s (finishTo
    (writeSpan s (queueFn s q) (Cmd.span c 0x20) (Cmd.fld c 0x30 8) (patternBytes ((c.bytes.drop 0x38).take 8) (Cmd.fld c 0x28 8))) q
    (okWith (Cmd.fld c 0x28 8)) (destOf (Cmd.span c 0x20)))) :=
  onQueue_next hs.1 (onStarted_serving hs)

/-- A source that reads well is one good part, which is written whole. -/
theorem copySpan_good {fn : Nat} {src : Span} {so n : Nat} {b : List Byte} {u : State} (h : readSpan s fn src so n = (b, [], u)) (dst : Span)
    (d : Nat) : copySpan s fn src so dst d n = ([], writeSpan u fn dst d b) := by
  have hlen := readSpan_length s fn src so n
  rw [h] at hlen
  unfold copySpan
  rw [h]
  dsimp only
  split
  · rfl
  · rw [goodParts, List.foldl_cons, List.foldl_nil]
    simp [poisonCopied, List.take_of_length_le hlen]

theorem exec_copy {b : List Byte} {u : State} (hs : Serving s q opCopy inner c)
    (h : readSpan s (queueFn s q) (Cmd.span c 0x20) (Cmd.fld c 0x30 8) (Cmd.fld c 0x28 8) = (b, [], u)) :
    exec (.copy q) s = .next (keep s (finishTo
      (writeSpan u (queueFn s q) (Cmd.span c 0x24) (Cmd.fld c 0x38 8) b) q (okWith (Cmd.fld c 0x28 8)) (destOf (Cmd.span c 0x24)))) := by
  refine onQueue_next hs.1 ?_
  rw [copyOn, onStarted_serving hs]
  dsimp only
  rw [copySpan_good h]

end

/-- Settles O11: one lemma for each command. -/
theorem dataCommands : Obligations.DataCommands := by
  unfold Obligations.DataCommands
  refine ⟨fun s q inner c => ⟨exec_nop, exec_timestamp, fun g => exec_syncClear, exec_execBuffer⟩,
    fun s q inner c => ⟨exec_patch, exec_fill, fun b u => exec_copy⟩⟩

/-! ### Contexts in states that Table 11-10 lists -/

section
variable {s : State} {q : Nat} {inner : Bool} {c : Cmd} {g : Nat}

/-- The descriptor that CREATE makes of image header h and constraint set cs. -/
def createdCtx (fn : Nat) (c : Cmd) (h : ImageHdr) (cs : CSet) : Ctx :=
  { state := .parked, bsi16 := ImageHdr.bsi16 h, width := ctxWidth h.np (ImageHdr.bsi16 h), fn, n := h.n, np := h.np, eMax := h.eMax, eH := h.eH
    imageAddr := (Cmd.span c 0x28).addr, imageHost := (Cmd.span c 0x28).host, imageBytes := (Cmd.span c 0x28).len
    csetAddr := (Cmd.span c 0x2C).addr, csetHost := (Cmd.span c 0x2C).host, csetBytes := (Cmd.span c 0x2C).len
    stateAddr := (Cmd.span c 0x30).addr, records := (linearRecs cs.recs).length, terms := termCount (linearRecs cs.recs) }

theorem createOn_passes {h : ImageHdr} {cs : CSet} {u : State} (hs : ServingContext s q 0 inner c g)
    (hok : createChecks s (queueFn s q) c = (.ok (h, cs), u)) :
    createOn q s = finish (setCtx (writeDev u (queueFn s q) (Cmd.span c 0x30).addr (List.replicate 512 0)) g (createdCtx (queueFn s q) c h cs)) q
      (okWith (Cmd.fld c 0x24 4)) := by
  rw [createOn, ctxOp_eq hs, hok]
  rfl

theorem makeResidentOn_loads {t l f : Nat} {u v : State} {st : Store} (hs : ServingContext s q 1 inner c g)
    (hframe : chooseFrame s (widthMode (ctxOf s g).width) (ctxOf s g).records (ctxOf s g).terms false = some ((t, l, f), u))
    (hfill : fillFrame u (ctxOf s g) = (.ok st, v)) :
    makeResidentOn q s = finish (setCtx (setFrame v (frameKey t l f) { ctx := g, store := st, lastRun := (ctxOf s g).lastRun }) g
      { ctxOf s g with state := .resident, tile := t, lane := l, frame := f }) q (okWith 0) := by
  rw [makeResidentOn, ctxOp_eq hs, hframe]
  dsimp only
  rw [hfill]

/-- Settles O14: the four changes of Table 11-10. -/
theorem contextStates : Obligations.ContextStates := by
  unfold Obligations.ContextStates
  intro s q inner c g
  refine ⟨fun h cs u hs hok => ?create, fun t l f u st v hs hframe hfill => ?resident, fun hs => ?park, fun hs => ?free⟩
  case create =>
    exact ⟨createdCtx (queueFn s q) c h cs, onQueue_next hs.1.1 (createOn_passes hs hok), rfl, rfl, rfl, rfl, rfl, rfl, rfl, rfl, rfl, rfl, rfl⟩
  case resident => exact onQueue_next hs.1.1 (makeResidentOn_loads hs hframe hfill)
  case park => exact onQueue_next hs.1.1 (ctxOp_eq hs)
  case free => exact onQueue_next hs.1.1 (ctxOp_eq hs)

/-! ### READ_STATE, WRITE_STATE, QUERY, and states that are not listed (R278) -/

theorem readStateOn_good {b : List Byte} {u : State} (hs : ServingContext s q 4 inner c g)
    (h : readDev s (queueFn s q) (ctxOf s g).stateAddr (stateBytes (ctxOf s g).n) = (b, [], u)) :
    readStateOn q s = finishTo (writeSpan u (queueFn s q) (Cmd.span c 0x28) 0 b) q (okWith 0) (destOf (Cmd.span c 0x28)) := by
  rw [readStateOn, ctxOp_eq hs, h]

theorem writeStateOn_good {b : List Byte} {u : State} (hs : ServingContext s q 5 inner c g)
    (h : fetchSpan s (queueFn s q) (Cmd.span c 0x28) 0 (stateBytes (ctxOf s g).n) = (.ok b, u)) :
    writeStateOn q s = finish (setCtx (writeDev u (queueFn s q) (ctxOf s g).stateAddr b) g
      (if (ctxOf s g).state = .faulted then { ctxOf s g with state := .parked, fault := 0 } else ctxOf s g)) q (okWith 0) := by
  rw [writeStateOn, ctxOp_eq hs, h]

/-- An operation on a context in a state that is not listed for it. -/
theorem ctxOp_unlisted {o : Nat} {f : Nat → Cmd → Nat → Ctx → State → State} (hs : Serving s q opContext inner c) (ho : Cmd.fld c 0x20 1 = o)
    (hg : globalCtx s (queueFn s q) (Cmd.fld c 0x24 4) = some g) (hfrom : ctxFrom o (ctxOf s g).state = false) :
    ctxOp q o f s = if (ctxOf s g).state = .running then holdCmd s q .context else finish s q (badCommand (Cmd.src c 0x20) 0x20) := by
  obtain ⟨-, hact, hphase, hop⟩ := hs
  rw [ctxOp, onStarted_eq hact hphase (by simp [isCtxOp, hop, ho]), hg]
  dsimp only
  rw [hfrom]
  rfl

end

/-- Settles O15: the three operations on a context's data, and any operation but QUERY in a state that is not listed. -/
theorem contextData : Obligations.ContextData := by
  unfold Obligations.ContextData
  refine ⟨fun s q inner c g => ⟨fun b u hs h => ?read, fun b u hs h => ?write, fun hs => ?query⟩,
    fun s q o inner c g i hi hs ho hg hfrom => ?unlisted⟩
  case read => exact onQueue_next hs.1.1 (readStateOn_good hs h)
  case write => exact onQueue_next hs.1.1 (writeStateOn_good hs h)
  case query => exact onQueue_next hs.1.1 (ctxOp_eq hs)
  case unlisted =>
    simp only [List.mem_cons, Prod.mk.injEq, List.not_mem_nil, or_false] at hi
    obtain ⟨rfl, rfl⟩ | ⟨rfl, rfl⟩ | ⟨rfl, rfl⟩ | ⟨rfl, rfl⟩ | ⟨rfl, rfl⟩ | ⟨rfl, rfl⟩ := hi <;>
      exact onQueue_next hs.1 (ctxOp_unlisted hs ho hg hfrom)

end Sys2Proof.Machine

/-! # Sync objects and doorbells (O24, O17)

What a signal makes of a sync object, and what a doorbell leaves: each value in turn either moves its counter or is counted and logged. -/

namespace Sys2Proof.Machine

/-! ### Signals (R264, R266) -/

/-- A sync object after a signal: the value rises and never falls, and an errored signal sets ERROR. -/
def signalled (y : SyncObj) (v : Nat) (err : Bool) : SyncObj :=
  { value := if y.value.toNat < v then BitVec.ofNat 64 v else y.value, error := y.error || err }

theorem signalled_value {v : Nat} (hv : v < 2 ^ 64) (y : SyncObj) (err : Bool) : (signalled y v err).value.toNat = max y.value.toNat v := by
  unfold signalled
  dsimp only
  split
  · rw [BitVec.toNat_ofNat, Nat.mod_eq_of_lt hv]
    omega
  · omega

theorem syncOf_signalSync (s : State) (g v : Nat) (err : Bool) (p : Nat) :
    syncOf (signalSync s g v err) p = if p = g then signalled (syncOf s g) v err else syncOf s p := syncOf_setSync ..

theorem signalSync_frame (s : State) (g v : Nat) (err : Bool) : signalSync s g v err = { s with syncs := (signalSync s g v err).syncs } := rfl

section
variable {s : State} {fn g : Nat}

/-- The host's signal: FE_SYNC_CTRL.SET_ERROR is cleared, and the selected object is signalled. -/
theorem writeSyncHi_signals (hg : selectedSync s fn = some g) (v : U32) : writeSyncHi s fn v =
    signalSync (setReg s fn (reg 22 0x50) (putBits (getReg s fn (reg 22 0x50)) 1 1 0)) g (getReg s fn (reg 22 0x48) + 2 ^ 32 * v.toNat)
      (bits (getReg s fn (reg 22 0x50)) 1 1 == 1) := by
  have hlow : getReg (setReg s fn (reg 22 0x50) (putBits (getReg s fn (reg 22 0x50)) 1 1 0)) fn (reg 22 0x48) = getReg s fn (reg 22 0x48) :=
    (getReg_setReg_fn (by decide) (by decide) (by decide)).trans (if_neg (fun h => absurd h.2 (by decide)))
  rw [writeSyncHi, hg]
  dsimp only
  rw [hlow]

theorem clearSyncError_clears (hg : selectedSync s fn = some g) : clearSyncError s fn = setSync s g { syncOf s g with error := false } := by
  rw [clearSyncError, hg]

theorem syncs_setReg (s : State) (fn a v o : Nat) : syncOf (setReg s fn a v) o = syncOf s o := by
  obtain ⟨_, _, h⟩ := setReg_only s fn a v
  rw [h]
  rfl

end

/-- Settles O24: the signal acts on the selected object, after the write of the register that clears its flag. -/
theorem syncRows : Obligations.SyncRows := by
  unfold Obligations.SyncRows
  intro s fn g v hs hg
  obtain ⟨r, f, hreg⟩ := setReg_only s fn (reg 22 0x50) (putBits (getReg s fn (reg 22 0x50)) 1 1 0)
  have hhi := writeSyncHi_signals hg v
  have hvalue : getReg s fn (reg 22 0x48) + 2 ^ 32 * v.toNat < 2 ^ 64 := by
    have := getReg_lt s fn (reg 22 0x48)
    have := v.isLt
    omega
  refine ⟨⟨_, onBar0_eq hs, ?value, ?error, ?flag, fun h hh => ?others, ?frame⟩, ?clear⟩
  case value =>
    change (syncOf (writeSyncHi s fn v) g).value.toNat = _
    rw [hhi, syncOf_signalSync, if_pos rfl, signalled_value hvalue, syncs_setReg]
  case error =>
    change (syncOf (writeSyncHi s fn v) g).error = _
    rw [hhi, syncOf_signalSync, if_pos rfl, syncs_setReg]
    rfl
  case flag =>
    change bits (getReg (writeSyncHi s fn v) fn (reg 22 0x50)) 1 1 = 0
    rw [hhi]
    change bits (getReg (setReg s fn (reg 22 0x50) _) fn (reg 22 0x50)) 1 1 = 0
    rw [getReg_setReg_fn (by decide) (by decide) (by decide), if_pos ⟨rfl, rfl⟩, Nat.mod_eq_of_lt (putBits_lt _ _ _ _ _ (getReg_lt ..) (by decide)),
      bits_putBits_same]
    rfl
  case others =>
    change syncOf (writeSyncHi s fn v) h = _
    rw [hhi, syncOf_signalSync, if_neg hh, syncs_setReg]
  case frame =>
    rw [hhi, hreg]
    rfl
  case clear =>
    refine (onBar0_eq hs).trans ?_
    dsimp only
    rw [clearSyncError_clears hg]
    rfl

/-! ### Doorbells (R246, R247) -/

/-- Host writes that a doorbell announces change host memory alone. -/
theorem hostCells_frame (s : State) (cells : List (Nat × Byte)) : ∃ m u, hostCells s cells = { s with hostMem := m, unfixedHost := u } := by
  induction cells generalizing s with
  | nil => exact ⟨_, _, rfl⟩
  | cons e cells ih =>
    obtain ⟨m, u, h⟩ := ih (writeHost s e.1 [e.2])
    exact ⟨m, u, h⟩

/-- The record of an event hangs on no queue. -/
theorem logEvent_queues (s : State) (qs : Table Queue) (block code fn : Nat) (payload : List Byte) :
    logEvent { s with queues := qs } block code fn payload = { logEvent s block code fn payload with queues := qs } := by
  unfold logEvent
  dsimp only
  generalize ((_ : Bool) && _) = limited
  cases limited
  · rfl
  · rfl

/-- The record of a value that a doorbell writes outside its range. -/
def logDoorbell (fn q : Nat) (s : State) (v : U32) : State :=
  logEvent s (blockId 0x02 (q / 1024 + 1) (q / 1024 + 1)) 0x402 fn (toLE 2 q ++ toLE 4 v.toNat)

theorem logDoorbells_frame (fn q : Nat) (wrong : List U32) (s : State) : ∃ p, wrong.foldl (logDoorbell fn q) s = { s with peat := p } := by
  induction wrong generalizing s with
  | nil => exact ⟨_, rfl⟩
  | cons v wrong ih =>
    obtain ⟨_, h⟩ := logEvent_frame s (blockId 0x02 (q / 1024 + 1) (q / 1024 + 1)) 0x402 fn (toLE 2 q ++ toLE 4 v.toNat)
    obtain ⟨p, hp⟩ := ih (logDoorbell fn q s v)
    refine ⟨p, hp.trans ?_⟩
    rw [logDoorbell, h]

/-- BAD_DOORBELL after the values of a list were ignored. -/
def countBad (n : Nat) (wrong : List U32) : Nat := if wrong = [] then n else min (n + wrong.length) 4095

theorem countBad_concat (n : Nat) (wrong : List U32) (v : U32) : countBad n (wrong ++ [v]) = satAdd 12 (countBad n wrong) 1 := by
  unfold countBad satAdd
  rw [if_neg (by simp), List.length_append, List.length_singleton]
  split
  · subst wrong
    rfl
  · omega

/-- A queue that counts an ignored value. -/
def oneBad (Q : Queue) : Queue := { Q with badDoorbell := satAdd 12 Q.badDoorbell 1 }

/-- t is s after doorbell values came to queue q: SQ_TAIL and CQ_HEAD have come to tail and head, and the values of a list were ignored,
counted and logged. -/
structure Rung (s t : State) (q : Nat) (tail head : U32) (wrong : List U32) : Prop where
  queue : ∃ since, queueOf t q = { queueOf s q with
    sqTail := tail, cqHead := head, nextSince := since, badDoorbell := countBad (queueOf s q).badDoorbell wrong }
  others : ∀ p, p ≠ q → queueOf t p = queueOf s p
  frame : t = { (wrong.foldl (logDoorbell (queueFn s q) q) s) with queues := t.queues }

theorem Rung.refl (s : State) (q : Nat) : Rung s s q (queueOf s q).sqTail (queueOf s q).cqHead [] where
  queue := ⟨_, rfl⟩
  others := fun _ _ => rfl
  frame := rfl

section
variable {s t : State} {q : Nat} {tail head : U32} {wrong : List U32}

theorem Rung.setQueue (h : Rung s t q tail head wrong) {tail' head' : U32} {since : Nat} {Q : Queue}
    (hQ : Q = { queueOf s q with sqTail := tail', cqHead := head', nextSince := since, badDoorbell := countBad (queueOf s q).badDoorbell wrong }) :
    Rung s (setQueue t q Q) q tail' head' wrong where
  queue := ⟨since, by rw [queueOf_setQueue, if_pos rfl, hQ]⟩
  others := fun p hp => by rw [queueOf_setQueue, if_neg hp, h.others p hp]
  frame := by
    rw [h.frame]
    rfl

/-- The state and the log apart. -/
theorem Rung.frame_peat (h : Rung s t q tail head wrong) : t.peat = (wrong.foldl (logDoorbell (queueFn s q) q) s).peat
    ∧ t = { s with queues := t.queues, peat := t.peat } := by
  obtain ⟨_, hp⟩ := logDoorbells_frame (queueFn s q) q wrong s
  have hf := h.frame
  rw [hp] at hf ⊢
  rw [hf]
  exact ⟨rfl, rfl⟩

theorem Rung.badDoorbell (h : Rung s t q tail head wrong) (v : U32) : Rung s (badDoorbell t q v.toNat) q tail head (wrong ++ [v]) := by
  obtain ⟨since, hq⟩ := h.queue
  have hfn : queueFn t q = queueFn s q := by
    rw [h.frame_peat.2]
    rfl
  have hset : Machine.setQueue t q (oneBad (queueOf t q)) =
      { (wrong.foldl (logDoorbell (queueFn s q) q) s) with queues := (Machine.setQueue t q (oneBad (queueOf t q))).queues } :=
    congrArg (fun x : State => { x with queues := (Machine.setQueue t q (oneBad (queueOf t q))).queues }) h.frame
  have hbad : Machine.badDoorbell t q v.toNat =
      { ((wrong ++ [v]).foldl (logDoorbell (queueFn s q) q) s) with queues := (Machine.setQueue t q (oneBad (queueOf t q))).queues } := by
    rw [List.foldl_append, List.foldl_cons, List.foldl_nil, logDoorbell, ← logEvent_queues, ← hset, ← hfn]
    rfl
  have hown : ∀ p, queueOf (Machine.badDoorbell t q v.toNat) p = if p = q then oneBad (queueOf t q) else queueOf t p := by
    intro p
    rw [hbad]
    exact queueOf_setQueue ..
  exact ⟨⟨since, by rw [hown, if_pos rfl, oneBad, countBad_concat, hq]⟩, fun p hp => by rw [hown, if_neg hp, h.others p hp], by rw [hbad]⟩

/-- SQ_TAIL takes a value from the old one to SQ_HEAD + SIZE. -/
abbrev TailOk (Q : Queue) (v : U32) : Prop := (v - Q.sqTail).toNat ≤ Queue.size Q - Queue.waiting Q

/-- CQ_HEAD takes a value from the old one to CQ_TAIL. -/
abbrev HeadOk (Q : Queue) (v : U32) : Prop := (v - Q.cqHead).toNat ≤ Queue.records Q

theorem Rung.ringTail (h : Rung s t q (queueOf s q).sqTail (queueOf s q).cqHead []) (v : U32) :
    Rung s (ringTail t q v) q (if TailOk (queueOf s q) v then v else (queueOf s q).sqTail) (queueOf s q).cqHead
      ([v].filter (fun v => !decide (TailOk (queueOf s q) v))) := by
  obtain ⟨_, hq⟩ := h.queue
  have hsame : TailOk (queueOf t q) v ↔ TailOk (queueOf s q) v := by rw [hq]; rfl
  by_cases hv : TailOk (queueOf s q) v
  · rw [if_pos hv, List.filter_cons_of_neg (by rw [decide_eq_true hv]; decide)]
    have ht : Machine.ringTail t q v = _ := if_pos (hsame.2 hv)
    exact ht ▸ h.setQueue (by rw [hq])
  · rw [if_neg hv, List.filter_cons_of_pos (by rw [decide_eq_false hv]; rfl)]
    have ht : Machine.ringTail t q v = _ := if_neg (mt hsame.1 hv)
    exact ht ▸ h.badDoorbell v

theorem Rung.ringHead (h : Rung s t q tail (queueOf s q).cqHead wrong) (v : U32) :
    Rung s (ringHead t q v) q tail (if HeadOk (queueOf s q) v then v else (queueOf s q).cqHead)
      (wrong ++ [v].filter (fun v => !decide (HeadOk (queueOf s q) v))) := by
  obtain ⟨_, hq⟩ := h.queue
  have hsame : HeadOk (queueOf t q) v ↔ HeadOk (queueOf s q) v := by rw [hq]; rfl
  by_cases hv : HeadOk (queueOf s q) v
  · rw [if_pos hv, List.filter_cons_of_neg (by rw [decide_eq_true hv]; decide), List.filter_nil, List.append_nil]
    have ht : Machine.ringHead t q v = _ := if_pos (hsame.2 hv)
    exact ht ▸ h.setQueue (by rw [hq])
  · rw [if_neg hv, List.filter_cons_of_pos (by rw [decide_eq_false hv]; rfl), List.filter_nil]
    have ht : Machine.ringHead t q v = _ := if_neg (mt hsame.1 hv)
    exact ht ▸ h.badDoorbell v

end

section
variable {s : State} {fn r : Nat} {tail head : Option U32}

/-- A doorbell of a queue that is not DISABLED: SQ_TAIL first, then CQ_HEAD. -/
theorem doorbell_rung {q : Nat} (hr : isReady s = true) (hg : globalQueue s fn r = some q) (hd : (queueOf s q).state ≠ .disabled) :
    Rung s (doorbell s fn r tail head) q (tail.elim (queueOf s q).sqTail (fun v => if TailOk (queueOf s q) v then v else (queueOf s q).sqTail))
      (head.elim (queueOf s q).cqHead (fun v => if HeadOk (queueOf s q) v then v else (queueOf s q).cqHead))
      (tail.toList.filter (fun v => !decide (TailOk (queueOf s q) v)) ++ head.toList.filter (fun v => !decide (HeadOk (queueOf s q) v))) := by
  rw [doorbell, hr, hg]
  dsimp only
  rw [if_neg (by decide), if_neg hd]
  have htail : Rung s (tail.elim s (ringTail s q)) q
      (tail.elim (queueOf s q).sqTail (fun v => if TailOk (queueOf s q) v then v else (queueOf s q).sqTail)) (queueOf s q).cqHead
      (tail.toList.filter (fun v => !decide (TailOk (queueOf s q) v))) := by
    cases tail with
    | none => exact .refl s q
    | some v => exact (Rung.refl s q).ringTail v
  cases tail <;> cases head
  case none.none | some.none => exact (List.append_nil _).symm ▸ htail
  case none.some | some.some => exact htail.ringHead _

theorem exec_doorbellWrite {host : List (Nat × Byte)} {t : State} (hfn : fn < 16) (ht : doorbell (hostCells s host) fn r tail head = t)
    (hkeep : keep s t = t) : exec (.doorbellWrite fn r tail head host) s = .next t :=
  (onFn_eq hfn).trans (by rw [ht, hkeep])

end

/-- Settles O17: a doorbell that is not taken leaves the host's writes alone; one that is taken leaves what its values leave in turn. -/
theorem doorbellRow : Obligations.DoorbellRow := by
  unfold Obligations.DoorbellRow
  intro s fn r tail head host hfn
  obtain ⟨m, u, hh⟩ := hostCells_frame s host
  have hkeep : keep s (hostCells s host) = hostCells s host := by rw [hh]; rfl
  have hready : isReady (hostCells s host) = isReady s := by rw [hh]; rfl
  have hglobal : globalQueue (hostCells s host) fn r = globalQueue s fn r := by rw [hh]; rfl
  have hqueue : ∀ q, queueOf (hostCells s host) q = queueOf s q := fun q => by rw [hh]; rfl
  refine ⟨fun hr => exec_doorbellWrite hfn ?unready hkeep, fun hr hg => exec_doorbellWrite hfn ?noQueue ?counted,
    fun q hr hg hd => exec_doorbellWrite hfn ?disabled hkeep, fun q hr hg hd => ?taken⟩
  case unready => rw [doorbell, hready, hr]; rfl
  case noQueue => rw [doorbell, hready, hr, hglobal, hg]; rfl
  case counted =>
    obtain ⟨_, _, hc⟩ := addCount_only (hostCells s host) (reg 3500 0x54) 1
    rw [hc, hh]
    rfl
  case disabled =>
    rw [doorbell, hready, hr, hglobal, hg]
    exact if_pos ((congrArg Queue.state (hqueue q)).trans hd)
  case taken =>
    have hfns : queueFn (hostCells s host) q = queueFn s q := by rw [hh]; rfl
    have hrung := doorbell_rung (tail := tail) (head := head) (hready.trans hr) (hglobal.trans hg) (by rw [hqueue]; exact hd)
    obtain ⟨hpeat, hframe⟩ := hrung.frame_peat
    obtain ⟨since, hq⟩ := hrung.queue
    rw [hqueue] at hq
    rw [hqueue, hfns] at hpeat
    refine ⟨_, exec_doorbellWrite hfn rfl ?keeps, ?newTail, ?newHead, ?bad, hpeat, ?queue, fun p hp => (hrung.others p hp).trans (hqueue p), hframe⟩
    case keeps =>
      rw [hframe, hh]
      rfl
    case newTail => rw [hq]; cases tail <;> rfl
    case newHead => rw [hq]; cases head <;> rfl
    case bad => rw [hq]; rfl
    case queue => rw [hq]

end Sys2Proof.Machine

/-! # Queue control (O23)

FE_Q_CTRL acts on the queue that FE_QSEL selects (R479), whether a row of its own or a BAR0 write of the register brings the value; and
FE_FN_QUEUES gives a function a block that keeps apart from those of the others (R242, R243). -/

namespace Sys2Proof.Machine

section
variable {s : State} {fn q : Nat} (hs : Answers s fn) (hq : selectedQueue s fn = some q)
include hs hq

theorem onBar0_selected (f : Nat → State → State) : onBar0 fn s (onSelected fn f) = .next (keep s (f q s)) := by
  rw [onBar0_eq hs, onSelected, hq]

theorem exec_enable : exec (.enable fn) s = .next (keep s (enableQueue s fn q)) := onBar0_selected hs hq _
theorem exec_disable : exec (.disable fn) s = .next (keep s (disableQueue s q)) := onBar0_selected hs hq _
theorem exec_reset : exec (.reset fn) s = .next (keep s (resetQueue s q)) := onBar0_selected hs hq _
theorem exec_resume : exec (.resume fn) s = .next (keep s (resumeQueue s q)) := onBar0_selected hs hq _

end

/-! ### What each bit does to a queue (R479) -/

section
variable {s : State} {fn q : Nat}

theorem enableQueue_starts (hd : (queueOf s q).state = .disabled) (hz : ((sealOf s fn).zeroing && (sealOf s fn).byFlr) = false)
    (hok : enableChecks s fn (queueOf s q) = true) : enableQueue s fn q = setQueue
      { s with stale := s.stale.filter (fun e => !e.tails.any (fun t => t.1 == q)) } q
      { queueOf s q with state := .running, sqHead := 0, sqTail := 0, cqHead := 0, cqTail := 0, nextSince := s.us } := by
  simp [enableQueue, hd, hz, hok]

theorem enableQueue_refuses (hd : (queueOf s q).state = .disabled) (hz : ((sealOf s fn).zeroing && (sealOf s fn).byFlr) = false)
    (hok : enableChecks s fn (queueOf s q) = false) : enableQueue s fn q = setQueue s q { queueOf s q with cause := 0x11 } := by
  simp [enableQueue, hd, hz, hok, stBadHandle]

theorem enableQueue_ignored (hd : (queueOf s q).state ≠ .disabled) : enableQueue s fn q = s := by simp [enableQueue, hd]

theorem disableQueue_disables (hd : (queueOf s q).state ≠ .disabled) (hi : Queue.idle (queueOf s q) = true) :
    disableQueue s q = setQueue s q { queueOf s q with state := .disabled } := by simp [disableQueue, hd, hi]

theorem disableQueue_ignored (hi : Queue.idle (queueOf s q) = false) : disableQueue s q = s := by simp [disableQueue, hi]

theorem idle_iff (Q : Queue) : Queue.idle Q = true ↔ Q.sqHead = Q.sqTail ∧ Q.cur = none ∧ Q.out = [] ∧ Q.undelivered = [] := by
  simp [Queue.idle, and_assoc]

end

/-! ### FE_Q_CTRL in BAR0 -/

theorem mayWrite_queuePage (fn : Nat) : mayWrite fn 16 = true := by simp [mayWrite]
theorem hiddenPage_queuePage (fn : Nat) : hiddenPage fn 16 = false := by simp [hiddenPage]
theorem pageParked_queuePage (s : State) : pageParked s 16 = false := Bool.and_false _

section
variable {s : State} {fn q : Nat} (hs : Answers s fn) (hq : selectedQueue s fn = some q)
include hs hq

theorem registerWriteOn_qctrl (v : U32) : registerWriteOn fn (reg 16 0x64) v none s = writeQctrl s fn q v := by
  obtain ⟨-, hawake, hready⟩ := hs
  have hpage : pageWrite s fn 16 0x64 v = writeQctrl s fn q v := by
    unfold pageWrite
    rw [if_neg (by simp [mayWrite_queuePage, hiddenPage_queuePage, pageServed, pageKind]), if_neg (by simp [pageParked_queuePage]), if_neg (by decide)]
    change writeQueuePage s fn 0x64 v = _
    rw [writeQueuePage, if_neg (by decide), hq]
    rfl
  unfold registerWriteOn
  dsimp only
  rw [if_neg (by simp [hawake, reg]), if_neg (by decide), if_neg (by decide), if_pos hready]
  exact hpage

theorem exec_registerWrite_qctrl (v : U32) : exec (.registerWrite fn (reg 16 0x64) ⟨v, none⟩) s = .next (keep s (writeQctrl s fn q v)) :=
  (onFn_eq hs.1).trans (by rw [registerWriteOn_qctrl hs hq])

/-- RESET first, then RESUME, then ENABLE, and DISABLE with no bit set. -/
theorem exec_registerWrite_row (v : U32) : exec (.registerWrite fn (reg 16 0x64) ⟨v, none⟩) s = exec
    (if v.getLsbD 1 then .reset fn else if v.getLsbD 2 then .resume fn else if v.getLsbD 0 then .enable fn else .disable fn) s := by
  rw [exec_registerWrite_qctrl hs hq, writeQctrl]
  split
  · exact (exec_reset hs hq).symm
  · split
    · exact (exec_resume hs hq).symm
    · split
      · exact (exec_enable hs hq).symm
      · exact (exec_disable hs hq).symm

omit hs in
/-- ENABLE as it reads. -/
theorem bar0Read_qctrl : bar0Read s fn (reg 16 0x64) = (if (queueOf s q).state = .disabled then 0 else 1, s) := by
  have hword : bodyWord s fn 16 0x64 = if (queueOf s q).state = .disabled then 0 else 1 := by
    change queueWord s fn 0x64 = _
    rw [queueWord, if_neg (by decide), hq]
    rfl
  change pageRead s fn 16 0x64 = _
  unfold pageRead
  rw [if_neg (by simp [hiddenPage_queuePage, pageServed, pageKind]), if_neg (by decide), if_neg (by simp [pageParked_queuePage]), ← hword]
  rfl

theorem lowWordReadOn_qctrl : lowWordReadOn fn (reg 16 0x64) false s = answer s (toLE 4 (if (queueOf s q).state = .disabled then 0 else 1)) := by
  unfold lowWordReadOn
  dsimp only
  rw [if_neg (by simp [hs.2.1, reg]), if_neg (by decide), bar0Read_qctrl hq]
  rfl

end

/-! ### FE_FN_QUEUES (R242, R243) -/

section
variable {s : State}

theorem writeFnQueues_sets {v : U32} (hquiet : fnQuiet s (selectedFn s) = true)
    (hfits : blockFits s (selectedFn s) (bits v.toNat 0 12) (bits v.toNat 12 13) = true) :
    writeFnQueues s v = setFn s (selectedFn s) { fnOf s (selectedFn s) with qBase := bits v.toNat 0 12, qCount := bits v.toNat 12 13 } := by
  simp [writeFnQueues, hquiet, hfits]

theorem writeFnQueues_ignored {v : U32} (hfits : blockFits s (selectedFn s) (bits v.toNat 0 12) (bits v.toNat 12 13) = false) :
    writeFnQueues s v = s := by
  simp [writeFnQueues, hfits]

/-- The blocks of two functions share no queue. -/
def Apart (c d : FnCfg) : Prop := c.qCount = 0 ∨ d.qCount = 0 ∨ c.qBase + c.qCount ≤ d.qBase ∨ d.qBase + d.qCount ≤ c.qBase

theorem Apart.symm {c d : FnCfg} (h : Apart c d) : Apart d c := by
  unfold Apart at *
  omega

theorem apart_of_blockFits {f base count : Nat} (h : blockFits s f base count = true) {g : Nat} (hg : g < 16) (hne : g ≠ f) (c : FnCfg) :
    Apart { c with qBase := base, qCount := count } (fnOf s g) := by
  obtain ⟨-, hall⟩ := Bool.and_eq_true_iff.1 h
  have hg' := List.all_eq_true.1 hall g (List.mem_range.2 hg)
  simp only [beq_eq_false_iff_ne.2 hne, Bool.false_or, Bool.or_eq_true, beq_iff_eq, decide_eq_true_eq] at hg'
  unfold Apart
  dsimp only
  omega

/-- A write of FE_FN_QUEUES leaves every block, or gives the selected function one that fits. -/
theorem feFnQueuesWrite_blocks {t : State} {v : U32} (h : exec (.feFnQueuesWrite 0 v) s = .next t) : (∀ f, fnOf t f = fnOf s f)
    ∨ ∃ (c : FnCfg) (base count : Nat), blockFits s (selectedFn s) base count = true
        ∧ ∀ f, fnOf t f = if f = selectedFn s then { c with qBase := base, qCount := count } else fnOf s f := by
  have ht : t = keep s (if !awake s then s else if isReady s then writeFnQueues s v else addCount s (reg 3500 0x54) 1) :=
    (Host.Outcome.next.inj h).symm
  subst ht
  by_cases ha : awake s = true
  · by_cases hr : isReady s = true
    · rw [ha, hr]
      by_cases hw : fnQuiet s (selectedFn s) = true ∧ blockFits s (selectedFn s) (bits v.toNat 0 12) (bits v.toNat 12 13) = true
      · rw [writeFnQueues_sets hw.1 hw.2]
        exact .inr ⟨fnOf s (selectedFn s), _, _, hw.2, fun f => fnOf_setFn ..⟩
      · refine .inl fun f => ?_
        have hno : writeFnQueues s v = s := if_neg (by simpa using hw)
        rw [hno]
        rfl
    · obtain ⟨_, _, hc⟩ := addCount_only s (reg 3500 0x54) 1
      rw [ha, Bool.eq_false_iff.2 hr, hc]
      exact .inl fun f => rfl
  · rw [Bool.eq_false_iff.2 ha]
    exact .inl fun f => rfl

theorem feFnQueuesWrite_apart {t : State} {v : U32} (h : exec (.feFnQueuesWrite 0 v) s = .next t)
    (hs : ∀ f g, f < 16 → g < 16 → f ≠ g → Apart (fnOf s f) (fnOf s g)) {f g : Nat} (hf : f < 16) (hg : g < 16) (hne : f ≠ g) :
    Apart (fnOf t f) (fnOf t g) := by
  obtain hkept | ⟨c, base, count, hfits, hnew⟩ := feFnQueuesWrite_blocks h
  · rw [hkept, hkept]
    exact hs f g hf hg hne
  · rw [hnew, hnew]
    by_cases hsf : f = selectedFn s
    · rw [if_pos hsf, if_neg (hsf ▸ hne.symm)]
      exact apart_of_blockFits hfits hg (hsf ▸ hne.symm) c
    · rw [if_neg hsf]
      by_cases hsg : g = selectedFn s
      · rw [if_pos hsg]
        exact (apart_of_blockFits hfits hf hsf c).symm
      · rw [if_neg hsg]
        exact hs f g hf hg hne

end

/-- Settles O23: the four bits by their operations on the queue, the register by the rows, and the blocks by what a write leaves. -/
theorem queueControl : Obligations.QueueControl := by
  unfold Obligations.QueueControl
  refine ⟨fun s fn hs => ⟨fun q hq => ⟨fun hd hz hok => ?enable, fun hd hz hok => ?refused, fun hd => ?enabled, fun hd hi => ?disable, fun hi => ?busy,
    fun hd => ?reset, fun hd => ?unreset, fun hd => ?resume, fun hd => ?unresumed, idle_iff _, exec_registerWrite_row hs hq, ?reads⟩,
    fun v hfn hquiet hfits => ?block, fun v h => ?noBlock⟩, fun s t v h hs f g hf hg hne => feFnQueuesWrite_apart h hs hf hg hne⟩
  case enable => exact (exec_enable hs hq).trans (by rw [enableQueue_starts hd hz hok]; rfl)
  case refused => exact (exec_enable hs hq).trans (by rw [enableQueue_refuses hd hz hok, keep_setQueue])
  case enabled => exact (exec_enable hs hq).trans (by rw [enableQueue_ignored hd, keep_self])
  case disable => exact (exec_disable hs hq).trans (by rw [disableQueue_disables hd hi, keep_setQueue])
  case busy => exact (exec_disable hs hq).trans (by rw [disableQueue_ignored hi, keep_self])
  case reset => exact (exec_reset hs hq).trans (by rw [resetQueue, if_neg hd])
  case unreset => exact (exec_reset hs hq).trans (by rw [resetQueue, if_pos hd, keep_self])
  case resume => exact (exec_resume hs hq).trans (by rw [resumeQueue, if_pos hd, keep_setQueue])
  case unresumed => exact (exec_resume hs hq).trans (by rw [resumeQueue, if_neg hd, keep_self])
  case reads => exact ⟨_, onFn_eq hs.1, by rw [lowWordReadOn_qctrl hs hq]; rfl⟩
  case block =>
    subst hfn
    exact (onBar0_eq hs).trans (by rw [if_pos rfl, writeFnQueues_sets hquiet hfits]; rfl)
  case noBlock =>
    refine (onBar0_eq hs).trans ?_
    split
    · rename_i hfn
      rw [writeFnQueues_ignored (h.resolve_left (not_not_intro hfn)), keep_self]
    · rw [keep_self]

end Sys2Proof.Machine

/-! # Guilty queues (O21)

What stopping a command leaves of the front end, and what each record of the guilt does to its queue (Table 11-6, R480). -/

namespace Sys2Proof.Machine

/-! ### What leaves queues and runs alone -/

/-- Neither the queues nor the runs differ. -/
def SameFront (s t : State) : Prop := t.queues = s.queues ∧ t.runs = s.runs

theorem SameFront.refl (s : State) : SameFront s s := ⟨rfl, rfl⟩

theorem SameFront.trans {s t u : State} (h : SameFront s t) (k : SameFront t u) : SameFront s u := ⟨k.1.trans h.1, k.2.trans h.2⟩

theorem OnlyMemory.sameFront {s t : State} (h : OnlyMemory s t) : SameFront s t := by
  obtain ⟨-, -, hqueues, -, -, -, hruns, -⟩ := h.frame
  exact ⟨hqueues, hruns⟩

theorem foldl_sameFront {α : Type} {f : State → α → State} (hf : ∀ s a, SameFront s (f s a)) (l : List α) (s : State) :
    SameFront s (l.foldl f s) := by
  induction l generalizing s with
  | nil => exact .refl s
  | cons a l ih => exact (hf s a).trans (ih (f s a))

theorem queueOf_congr {s t : State} (h : t.queues = s.queues) (q : Nat) : queueOf t q = queueOf s q := by
  unfold queueOf
  rw [h]

theorem SameFront.queueOf {s t : State} (h : SameFront s t) (q : Nat) : queueOf t q = queueOf s q := queueOf_congr h.1 q

theorem SameFront.runOf {s t : State} (h : SameFront s t) (q : Nat) : runOf t q = runOf s q := by
  unfold Machine.runOf
  rw [h.2]

theorem unfix_sameFront (s : State) (p : Span) : SameFront s (unfix s p) := by
  unfold unfix
  split
  · exact .refl s
  · split
    · exact ⟨rfl, rfl⟩
    · exact ⟨rfl, rfl⟩

theorem setCtx_sameFront (s : State) (g : Nat) (x : Ctx) : SameFront s (setCtx s g x) := ⟨setCtx_queues .., setCtx_runs ..⟩

theorem dropFrame_sameFront (s : State) (x : Ctx) : SameFront s (dropFrame s x) := by
  unfold dropFrame
  split
  · exact .refl s
  · exact ⟨rfl, rfl⟩

theorem releaseProb_sameFront (s : State) (p : Prob) (e : CtxEnd) (store : Bool) : SameFront s (releaseProb s p e store) := by
  unfold releaseProb
  extract_lets s1 now
  have h1 : SameFront s s1 := by
    unfold s1
    refine foldl_sameFront ?_ _ _
    exact fun _ _ => ⟨rfl, rfl⟩
  clear_value s1
  split
  · exact h1
  · extract_lets old after s2 s3
    have h2 : SameFront s s2 := by
      unfold s2
      split
      · exact h1.trans ⟨rfl, rfl⟩
      · split
        · exact h1
        · exact h1.trans ⟨rfl, rfl⟩
    clear_value s2
    have h3 : SameFront s s3 := h2.trans (setCtx_sameFront ..)
    split
    · exact h3.trans (writeDev_only ..).sameFront
    · exact h3

theorem releaseNamed_sameFront (s : State) (r : Run) (e : CtxEnd) : SameFront s (releaseNamed s r e) := by
  refine foldl_sameFront (fun s c => ?_) ..
  dsimp only
  split
  · exact setCtx_sameFront ..
  · exact (dropFrame_sameFront ..).trans (setCtx_sameFront ..)
  · exact (dropFrame_sameFront ..).trans (setCtx_sameFront ..)

theorem tellPeers_only (s : State) (g : GroupRun) (w : Control) : OnlyMemory s (tellPeers s g w) :=
  foldl_keeps id (f := fun (s : State) (e : Member × Nat) => sendWord s (controlAddr e.1 g.position) w) (fun _ _ => sendWord_only ..) _ s

/-- The end of a run leaves the queues, and no run of its own queue. -/
theorem endRun_front (s : State) (q status : Nat) (e : Option Prob → CtxEnd) (tell : Bool) :
    (endRun s q status e tell).queues = s.queues ∧ runOf (endRun s q status e tell) q = none := by
  unfold endRun
  split
  · exact ⟨rfl, ‹_›⟩
  · extract_lets ok s1 s2 s3 s4
    have h1 : SameFront s s1 := by
      unfold s1
      split
      · exact unfix_sameFront ..
      · exact .refl s
    clear_value s1
    have h2 : SameFront s s2 := h1.trans ((foldl_sameFront (fun s p => releaseProb_sameFront ..) _ s1).trans (releaseNamed_sameFront ..))
    clear_value s2
    have h3 : SameFront s s3 := by
      unfold s3
      split
      · refine h2.trans ?_
        split
        · exact .trans (tellPeers_only ..).sameFront ⟨rfl, rfl⟩
        · exact ⟨rfl, rfl⟩
      · exact h2
    clear_value s3
    have h4 : SameFront s s4 := by
      unfold s4
      split
      · split
        · exact h3.trans ⟨rfl, rfl⟩
        · exact h3.trans ⟨rfl, rfl⟩
      · exact h3
    exact ⟨h4.1, (runOf_delRun s4 q q).trans (if_pos rfl)⟩

theorem fetchSpan_only (s : State) (fn : Nat) (p : Span) (off n : Nat) : OnlyMemory s (fetchSpan s fn p off n).2 := by
  have h := readSpan_only s fn p off n
  unfold fetchSpan
  generalize readSpan s fn p off n = x at h
  obtain ⟨b, _ | ⟨a, bad⟩, u⟩ := x
  · exact h
  · exact h

theorem readEntries_only (s : State) (fn : Nat) (p : Span) (size pos : Nat) : OnlyMemory s (readEntries s fn p size pos).2 := by
  have h := fetchSpan_only s fn p 0x40 (32 * pos)
  unfold readEntries
  generalize fetchSpan s fn p 0x40 (32 * pos) = x at h
  obtain ⟨_ | before, u⟩ := x
  · exact h
  · have k := h.trans (fetchSpan_only u fn p (0x60 + 32 * pos) (32 * (size - pos - 1)))
    dsimp only
    generalize fetchSpan u fn p (0x60 + 32 * pos) (32 * (size - pos - 1)) = y at k
    obtain ⟨_ | after, v⟩ := y
    · exact k
    · exact k

theorem readTable_only (s : State) (fn : Nat) (c : Cmd) : OnlyMemory s (readTable s fn c).2 := by
  have h := fetchSpan_only s fn (Cmd.span c 0x38) 0 64
  unfold readTable
  dsimp only
  generalize fetchSpan s fn (Cmd.span c 0x38) 0 64 = x at h
  obtain ⟨_ | b, u⟩ := x
  · exact h
  · dsimp only
    split
    · exact h
    · split
      · exact h
      · have k := h.trans (readEntries_only u fn (Cmd.span c 0x38) (leAt b 4 1) (leAt b 5 1))
        generalize readEntries u fn (Cmd.span c 0x38) (leAt b 4 1) (leAt b 5 1) = y at k
        obtain ⟨_ | m, v⟩ := y
        · exact k
        · dsimp only
          split
          · exact k
          · exact k

theorem abortNamed_only (s : State) (fn : Nat) (c : Cmd) (status : Nat) : OnlyMemory s (abortNamed s fn c status) := by
  unfold abortNamed
  split
  · exact .refl s
  · have h := readTable_only s fn c
    generalize readTable s fn c = x at h
    obtain ⟨_ | g, u⟩ := x
    · exact h
    · exact h.trans (tellPeers_only ..)

/-- Step 2 of Table 11-6. -/
theorem stopActive_front (s : State) (q status : Nat) : (stopActive s q status).queues = s.queues ∧ runOf (stopActive s q status) q = none := by
  unfold stopActive
  extract_lets s1 s2 r s3
  have h1 : s1.queues = s.queues := by
    unfold s1
    split
    · split
      · exact (abortNamed_only ..).sameFront.1
      · rfl
    · rfl
  clear_value s1
  obtain ⟨hqueues, hrun⟩ := endRun_front s1 q status (fun _ => .stopped) true
  have h3 : s3.queues = s.queues ∧ runOf s3 q = none := ⟨hqueues.trans h1, hrun⟩
  clear_value s3
  have keeps : ∀ t, SameFront s3 t → t.queues = s.queues ∧ runOf t q = none := fun t h => ⟨h.1.trans h3.1, (h.runOf q).trans h3.2⟩
  split
  · split
    · exact keeps _ (unfix_sameFront ..)
    · split
      · split
        · exact keeps _ ⟨rfl, rfl⟩
        · exact h3
      · exact h3
  · exact h3

/-! ### The records of the guilt (R480) -/

/-- What the records of a guilt leave of a queue: its state and cause, SQ_TAIL, CQ_TAIL and the undelivered slot. -/
def Queue.standing (Q : Queue) : QState × Bool × Byte × U32 × U32 × List Byte := (Q.state, Q.guilty, Q.cause, Q.sqTail, Q.cqTail, Q.undelivered)

/-- t is s with k ring commands of queue q passed and n records of the guilt made, signalled and none of them quiet. -/
structure Reaps (s t : State) (q k n : Nat) : Prop where
  records : ∃ l, (queueOf t q).out = (queueOf s q).out ++ l ∧ l.length = n ∧ ∀ r ∈ l, r.signalled = true ∧ r.quiet = false
  head : (queueOf t q).sqHead = (queueOf s q).sqHead + BitVec.ofNat 32 k
  standing : Queue.standing (queueOf t q) = Queue.standing (queueOf s q)
  idle : (queueOf s q).cur = none → (queueOf t q).cur = none
  others : ∀ p, p ≠ q → queueOf t p = queueOf s p
  runs : t.runs = s.runs

theorem SameFront.reaps {s t : State} (h : SameFront s t) (q : Nat) : Reaps s t q 0 0 where
  records := ⟨[], by rw [h.queueOf, List.append_nil], rfl, fun _ h => absurd h List.not_mem_nil⟩
  head := by rw [h.queueOf]; exact (BitVec.add_zero _).symm
  standing := by rw [h.queueOf]
  idle := by rw [h.queueOf]; exact id
  others := fun p _ => h.queueOf p
  runs := h.2

theorem Reaps.trans {s t u : State} {q k n k' n' : Nat} (h : Reaps s t q k n) (h' : Reaps t u q k' n') : Reaps s u q (k + k') (n + n') where
  records := by
    obtain ⟨l, hl, hlen, hall⟩ := h.records
    obtain ⟨l', hl', hlen', hall'⟩ := h'.records
    refine ⟨l ++ l', by rw [hl', hl, List.append_assoc], by rw [List.length_append, hlen, hlen'], fun r hr => ?_⟩
    exact (List.mem_append.1 hr).elim (hall r) (hall' r)
  head := by rw [h'.head, h.head, BitVec.add_assoc, BitVec.ofNat_add]
  standing := h'.standing.trans h.standing
  idle := fun hc => h'.idle (h.idle hc)
  others := fun p hp => (h'.others p hp).trans (h.others p hp)
  runs := h'.runs.trans h.runs

theorem Reaps.congr {s t : State} {q k n k' n' : Nat} (h : Reaps s t q k n) (hk : k = k') (hn : n = n') : Reaps s t q k' n' := hk ▸ hn ▸ h

/-- Replacing the queue by one with the same records, k slots further. -/
theorem reaps_setQueue (s : State) (q k : Nat) {Q : Queue} (hout : Q.out = (queueOf s q).out) (hhead : Q.sqHead = (queueOf s q).sqHead + BitVec.ofNat 32 k)
    (hstanding : Queue.standing Q = Queue.standing (queueOf s q)) (hcur : (queueOf s q).cur = none → Q.cur = none) :
    Reaps s (setQueue s q Q) q k 0 where
  records := ⟨[], by rw [queueOf_setQueue, if_pos rfl, hout, List.append_nil], rfl, fun _ h => absurd h List.not_mem_nil⟩
  head := by rw [queueOf_setQueue, if_pos rfl, hhead]
  standing := by rw [queueOf_setQueue, if_pos rfl, hstanding]
  idle := by rw [queueOf_setQueue, if_pos rfl]; exact hcur
  others := fun p hp => by rw [queueOf_setQueue, if_neg hp]
  runs := rfl

theorem reap_reaps (s : State) (q : Nat) (inner : Bool) (c : Cmd) (o : Outcome3) : Reaps s (reap s q inner c o) q 0 1 := by
  unfold reap
  extract_lets r s1
  have h1 : SameFront s s1 := by
    unfold s1
    split
    · exact ⟨rfl, rfl⟩
    · exact .refl s
  clear_value s1
  exact Reaps.congr ((h1.reaps q).trans (k' := 0) (n' := 1)
    { records := ⟨_, by rw [queueOf_setQueue, if_pos rfl], rfl, fun x hx => by rw [List.mem_singleton.1 hx]; exact ⟨rfl, rfl⟩⟩
      head := by rw [queueOf_setQueue, if_pos rfl]; exact (BitVec.add_zero _).symm
      standing := by rw [queueOf_setQueue, if_pos rfl]; rfl
      idle := by rw [queueOf_setQueue, if_pos rfl]; exact id
      others := fun p hp => by rw [queueOf_setQueue, if_neg hp]
      runs := rfl }) rfl rfl

theorem readEntry_only (s : State) (q : Nat) (c : U32) : OnlyMemory s (readEntry s q c).2.2 := by
  unfold readEntry
  dsimp only
  split
  · exact .refl s
  · split
    · exact readDev_only ..
    · exact .refl s

theorem readInner_only (s : State) (q a : Nat) : OnlyMemory s (readInner s q a).2.2 := by
  unfold readInner
  split
  · exact .refl s
  · exact readDev_only ..

theorem reapInner_reaps (s : State) (q a n : Nat) : Reaps s (reapInner s q a n) q 0 n := by
  induction n generalizing s a with
  | zero => exact (SameFront.refl s).reaps q
  | succ n ih =>
    have hread := ((readInner_only s q a).sameFront.reaps q).trans (reap_reaps _ q true
      (if (readInner s q a).2.1.isSome then blankCmd else { bytes := (readInner s q a).1 }) abortedBehind)
    exact (hread.trans (ih _ (a + 64))).congr (by omega) (by omega)

/-- A queue whose next ring command is passed unrun. -/
def skipped (Q : Queue) : Queue := { Q with sqHead := Q.sqHead + 1, fetched := Q.fetched.filter (fun e => e.1 != Q.sqHead) }

theorem reapRing_reaps (s : State) (q n : Nat) : Reaps s (reapRing s q n) q n n := by
  induction n generalizing s with
  | zero => exact (SameFront.refl s).reaps q
  | succ n ih =>
    have hread := (readEntry_only s q (queueOf s q).sqHead).sameFront.reaps q
    generalize hx : readEntry s q (queueOf s q).sqHead = x at hread
    obtain ⟨b, bad, u⟩ := x
    have hpass := reaps_setQueue u q 1 (Q := skipped (queueOf u q)) rfl rfl rfl id
    have h := ((hread.trans hpass).trans (reap_reaps _ q false (if bad.isSome then blankCmd else { bytes := b }) abortedBehind)).trans (ih _)
    rw [reapRing, hx]
    exact h.congr (by omega) (by omega)

/-- A queue whose command in progress is passed. -/
def emptied (Q : Queue) : Queue := { skipped Q with cur := none, buffer := none, innerCur := none }

theorem reaps_emptied (s : State) (q : Nat) : Reaps s (setQueue s q (emptied (queueOf s q))) q 1 0 :=
  reaps_setQueue s q 1 rfl rfl rfl (fun _ => rfl)

/-- The command in progress is a command buffer: the inner command, those not begun, and the EXEC_BUFFER itself. -/
theorem reapBuffer_reaps (s : State) (q a n : Nat) (i : Option Cmd) (c : Cmd) (o o' : Outcome3) : ∃ k,
    Reaps s (let u := reapInner (i.elim s (fun i => reap s q true i o)) q a n
             reap (setQueue u q { queueOf u q with fetchedBuffer := [] }) q false c o') q 0 k := by
  have hinner : ∃ k, Reaps s (i.elim s (fun i => reap s q true i o)) q 0 k := by
    cases i with
    | none => exact ⟨0, (SameFront.refl s).reaps q⟩
    | some i => exact ⟨1, reap_reaps ..⟩
  obtain ⟨k, hk⟩ := hinner
  have hclear := (hk.trans (reapInner_reaps _ q a n)).trans (reaps_setQueue _ q 0
    (Q := { queueOf (reapInner (i.elim s (fun i => reap s q true i o)) q a n) q with fetchedBuffer := [] }) rfl (BitVec.add_zero _).symm rfl id)
  exact ⟨_, hclear.trans (reap_reaps ..)⟩

/-- Step 3: the command in progress is passed, with a record of its own and, of a command buffer, one for each inner command not done. -/
theorem reapCurrent_reaps (s : State) (q : Nat) (o : Outcome3) : ∃ n, Reaps s (reapCurrent s q o) q (if (queueOf s q).cur.isSome then 1 else 0) n
    ∧ (queueOf (reapCurrent s q o) q).cur = none ∧ ((queueOf s q).buffer = none → n = if (queueOf s q).cur.isSome then 1 else 0) := by
  have hidle : (queueOf (setQueue s q (emptied (queueOf s q))) q).cur = none := by rw [queueOf_setQueue, if_pos rfl]; rfl
  unfold reapCurrent
  dsimp only
  cases hcur : (queueOf s q).cur with
  | none => exact ⟨0, (SameFront.refl s).reaps q, hcur, fun _ => rfl⟩
  | some c =>
    cases hbuf : (queueOf s q).buffer with
    | none =>
      have h := reap_reaps (setQueue s q (emptied (queueOf s q))) q false c o
      exact ⟨1, (reaps_emptied s q).trans h, h.idle hidle, fun _ => rfl⟩
    | some b =>
      obtain ⟨k, h⟩ := reapBuffer_reaps (setQueue s q (emptied (queueOf s q))) q (b.addr + 64 * b.next) (b.count - b.next) (queueOf s q).innerCur c o
        { o with detail := if o.status.toNat = stQueueTimeout then 0xFF else o.detail, result := BitVec.ofNat 64 b.started }
      cases hi : (queueOf s q).innerCur with
      | none =>
        rw [hi] at h
        exact ⟨_, (reaps_emptied s q).trans h, h.idle hidle, nofun⟩
      | some i =>
        rw [hi] at h
        exact ⟨_, (reaps_emptied s q).trans h, h.idle hidle, nofun⟩

/-! ### The steps of Table 11-6 together -/

/-- Step 1: the queue stops, with its cause. -/
def blamed (Q : Queue) (cause : Nat) : Queue := { Q with state := .stopped, guilty := true, cause := BitVec.ofNat 8 cause, fetchFailed := false }

theorem raiseVector_sameFront (s : State) (fn v : Nat) : SameFront s (raiseVector s fn v) := (raiseVector_only ..).memory.sameFront

/-- Ring commands that a guilt passes: the one in progress, and those waiting behind it. -/
def guiltSlots (Q : Queue) : Nat := (if Q.cur.isSome then 1 else 0) + (Queue.waiting Q - (if Q.cur.isSome then 1 else 0))

/-- A guilty queue: from the state in which its command in progress has stopped, every command up to SQ_TAIL is passed. -/
theorem makeGuilty_reaps (s : State) (q cause : Nat) (o : Outcome3) : ∃ u n,
    u.queues = (setQueue s q (blamed (queueOf s q) cause)).queues ∧ runOf u q = none
    ∧ Reaps u (makeGuilty s q cause o) q (guiltSlots (queueOf s q)) n ∧ (queueOf (makeGuilty s q cause o) q).cur = none
    ∧ ((queueOf s q).buffer = none → n = guiltSlots (queueOf s q)) := by
  obtain ⟨hqueues, hrun⟩ := stopActive_front (setQueue s q (blamed (queueOf s q) cause)) q o.status.toNat
  generalize hu : stopActive (setQueue s q (blamed (queueOf s q) cause)) q o.status.toNat = u at hqueues hrun
  have hown : queueOf u q = blamed (queueOf s q) cause := (queueOf_congr hqueues q).trans (by rw [queueOf_setQueue, if_pos rfl])
  obtain ⟨n, hcur, hidle, hn⟩ := reapCurrent_reaps u q o
  rw [hown] at hcur hn
  let later := Queue.waiting (queueOf s q) - (if (queueOf s q).cur.isSome then 1 else 0)
  have hend : SameFront (reapRing (reapCurrent u q o) q later) (makeGuilty s q cause o) := by
    rw [← hu]
    exact (raiseVector_sameFront ..).trans (logEvent_only ..).sameFront
  have hrest := (reapRing_reaps (reapCurrent u q o) q later).trans (hend.reaps q)
  exact ⟨u, n + (later + 0), hqueues, hrun, hcur.trans hrest, hrest.idle hidle, fun hb => congrArg (· + later) (hn hb)⟩

theorem guiltSlots_eq {Q : Queue} (h : Q.cur.isSome = true → Q.sqHead ≠ Q.sqTail) : guiltSlots Q = Queue.waiting Q := by
  unfold guiltSlots
  by_cases hc : Q.cur.isSome = true
  · have hpos : Queue.waiting Q ≠ 0 := fun h0 => h hc (sub_eq_zero.1 (BitVec.eq_of_toNat_eq h0)).symm
    rw [if_pos hc]
    omega
  · rw [if_neg hc]
    omega

/-- SQ_HEAD has reached SQ_TAIL once all that waits is passed. -/
theorem sqHead_add_waiting (Q : Queue) : Q.sqHead + BitVec.ofNat 32 (Queue.waiting Q) = Q.sqTail := by
  rw [Queue.waiting, BitVec.ofNat_toNat, BitVec.setWidth_eq, BitVec.add_comm, BitVec.sub_add_cancel]

/-- What a guilt leaves of the queue beside its records: it is STOPPED with its cause, and SQ_TAIL, CQ_TAIL and the undelivered slot stay. -/
theorem makeGuilty_standing (s : State) (q cause : Nat) (o : Outcome3) :
    Queue.standing (queueOf (makeGuilty s q cause o) q) = Queue.standing (blamed (queueOf s q) cause) := by
  obtain ⟨u, n, hqueues, -, hreaps, -⟩ := makeGuilty_reaps s q cause o
  rw [hreaps.standing, queueOf_congr hqueues, queueOf_setQueue, if_pos rfl]

/-- Settles O21: the slots that the guilt passes are those waiting, and each record is one of its own. -/
theorem guiltyQueue : Obligations.GuiltyQueue := by
  unfold Obligations.GuiltyQueue
  intro s q cause o hbusy t
  obtain ⟨u, n, hqueues, hrun, hreaps, hcur, hn⟩ := makeGuilty_reaps s q cause o
  have hstanding : Queue.standing (queueOf t q) = Queue.standing (blamed (queueOf s q) cause) := makeGuilty_standing s q cause o
  simp only [Queue.standing, Prod.mk.injEq] at hstanding
  obtain ⟨hstate, hguilty, hcause, htail, hcq, -⟩ := hstanding
  have hown : queueOf u q = blamed (queueOf s q) cause := (queueOf_congr hqueues q).trans (by rw [queueOf_setQueue, if_pos rfl])
  obtain ⟨l, hout, hlen, hall⟩ := hreaps.records
  refine ⟨hstate, hguilty, hcause, hcur, ?head, htail, ?run, hcq, ⟨l, ?_, hall, fun hb => ?count⟩, fun p hp => ?others⟩
  case head =>
    rw [hreaps.head, hown, guiltSlots_eq hbusy]
    exact sqHead_add_waiting (queueOf s q)
  case run =>
    unfold runOf at hrun ⊢
    rw [hreaps.runs, hrun]
  case count => rw [hlen, hn hb, guiltSlots_eq hbusy]
  case others => rw [hreaps.others p hp, queueOf_congr hqueues, queueOf_setQueue, if_neg hp]
  · rw [hout, hown]
    rfl

end Sys2Proof.Machine

/-! # Failed host accesses, fetching ahead, and the start of commands (O26, O25, O18)

The row of each failed access as the branch that its premises select; what a fetch ahead adds to a queue, and why no later read sees it; and
the queue that keeps the statement on the start of commands from holding of every state. -/

namespace Sys2Proof.Machine

/-! ### The registers that a failed access changes (R355) -/

theorem lastFail_frame (s : State) (addr : Nat) : ∃ r, lastFail s addr = { s with regs := r } := by
  obtain ⟨r, h1⟩ := setReg_frame (a := reg 3500 0x64) (by decide) s 0 (addr % 2 ^ 32)
  obtain ⟨r', h2⟩ := setReg_frame (a := reg 3500 0x64 + 4) (by decide) { s with regs := r } 0 (addr / 2 ^ 32 % 2 ^ 32)
  exact ⟨r', (congrArg (fun t => setReg t 0 (reg 3500 0x64 + 4) _) h1).trans h2⟩

theorem countReadFail_frame (s : State) (addr : Nat) : ∃ r, countReadFail s addr = { s with regs := r } := by
  obtain ⟨r, h1⟩ := lastFail_frame s addr
  unfold countReadFail addCount
  rw [h1]
  exact setReg_frame (by decide) ..

@[simp] theorem queueOf_lastFail (s : State) (addr q : Nat) : queueOf (lastFail s addr) q = queueOf s q := by
  obtain ⟨_, h⟩ := lastFail_frame s addr
  rw [h]
  rfl

theorem runOf_countReadFail (s : State) (addr q : Nat) : runOf (countReadFail s addr) q = runOf s q := by
  obtain ⟨_, h⟩ := countReadFail_frame s addr
  rw [h]
  rfl

theorem queueFn_countReadFail (s : State) (addr q : Nat) : queueFn (countReadFail s addr) q = queueFn s q := by
  obtain ⟨_, h⟩ := countReadFail_frame s addr
  rw [h]
  rfl

/-! ### The first record's signal (R266), and an undeliverable record (R275) -/

/-- A queue whose first record has made its signal. -/
def signalledFirst (Q : Queue) (r : OutRec) (rest : List OutRec) : Queue := { Q with out := { r with signalled := true } :: rest }

theorem signalledFirst_of {Q : Queue} {r : OutRec} {rest : List OutRec} (hout : Q.out = r :: rest) (h : r.signalled = true) :
    signalledFirst Q r rest = Q := by
  obtain ⟨_, _, _, _, _, _, _, _, _, _⟩ := r
  obtain rfl : _ = true := h
  unfold signalledFirst
  rw [← hout]

section SignalOut
variable {s : State} {q : Nat} {r : OutRec} {rest : List OutRec}

theorem signalOut_again (hout : (queueOf s q).out = r :: rest) (h : r.signalled = true) : signalOut s q = s := by
  simp [signalOut, hout, h]

theorem signalOut_signals {g : Nat} {v : U64} (hout : (queueOf s q).out = r :: rest) (h : r.signalled = false) (hr : r.signal = some (g, v)) :
    signalOut s q = signalSync (setQueue s q (signalledFirst (queueOf s q) r rest)) g v.toNat (isError r.out) := by
  simp [signalOut, hout, h, hr, signalledFirst]

theorem signalOut_silent (hout : (queueOf s q).out = r :: rest) (h : r.signalled = false) (hr : r.signal = none) :
    signalOut s q = setQueue s q (signalledFirst (queueOf s q) r rest) := by
  simp [signalOut, hout, h, hr, signalledFirst]

theorem queueOf_signalOut (hout : (queueOf s q).out = r :: rest) (p : Nat) :
    queueOf (signalOut s q) p = if p = q then signalledFirst (queueOf s q) r rest else queueOf s p := by
  cases h : r.signalled with
  | true =>
    rw [signalOut_again hout h, signalledFirst_of hout h]
    split
    · rw [‹p = q›]
    · rfl
  | false =>
    cases hr : r.signal with
    | none =>
      rw [signalOut_silent hout h hr]
      exact queueOf_setQueue ..
    | some e =>
      rw [signalOut_signals hout h hr]
      exact queueOf_setQueue ..

theorem signalOut_frame (hout : (queueOf s q).out = r :: rest) :
    signalOut s q = { s with queues := (signalOut s q).queues, syncs := (signalOut s q).syncs } := by
  cases h : r.signalled with
  | true => rw [signalOut_again hout h]
  | false =>
    cases hr : r.signal with
    | none => rw [signalOut_silent hout h hr]; rfl
    | some e => rw [signalOut_signals hout h hr]; rfl

/-- The object of a signal not yet made takes its value, and ERROR of an error record. -/
theorem syncOf_signalOut {g : Nat} {v : U64} (hout : (queueOf s q).out = r :: rest) (hr : r.signal = some (g, v)) (h : r.signalled = false) (o : Nat) :
    syncOf (signalOut s q) o = if o = g then signalled (syncOf s g) v.toNat (isError r.out) else syncOf s o := by
  rw [signalOut_signals hout h hr]
  exact syncOf_signalSync ..

/-- A signal made already, or none, changes no object. -/
theorem syncs_signalOut (hout : (queueOf s q).out = r :: rest) (h : r.signalled = true ∨ r.signal = none) : (signalOut s q).syncs = s.syncs := by
  cases hs : r.signalled with
  | true => rw [signalOut_again hout hs]
  | false =>
    rw [signalOut_silent hout hs (h.resolve_left (by simp [hs]))]
    rfl

end SignalOut

theorem undeliverable_standing {s : State} {q : Nat} {r : OutRec} {rest : List OutRec} (hout : (queueOf s q).out = r :: rest) :
    Queue.standing (queueOf (undeliverable s q) q) =
      (.stopped, true, 0x50, (queueOf s q).sqTail, (queueOf s q).cqTail, recordBytes (queueOf s q) r) := by
  have hown : queueOf (signalOut s q) q = signalledFirst (queueOf s q) r rest := (queueOf_signalOut hout q).trans (if_pos rfl)
  unfold undeliverable
  dsimp only
  rw [hown]
  refine (makeGuilty_standing ..).trans ?_
  rw [queueOf_countCmd, queueOf_setQueue, if_pos rfl]
  rfl

/-! ### The rows of failed accesses (R274, R275, R355) -/

section Failures
variable {s : State} {q : Nat}

theorem verifyReadFailOn_slot {addr : Nat} {r : OutRec} {rest : List OutRec} (hout : (queueOf s q).out = r :: rest)
    (hslot : inRecordSlot (queueOf s q) addr = true) (hgoing : beingWritten (queueOf s q) r = true)
    (hdest : ∀ d, r.hostDest = some d → (spanHolds d.2 addr && !r.signalled && !isError r.out) = false) :
    verifyReadFailOn q addr s = undeliverable (lastFail s addr) q := by
  cases hd : r.hostDest with
  | none => simp [verifyReadFailOn, hout, hd, hslot, hgoing]
  | some d => simp only [verifyReadFailOn, hout, hd, hdest d hd, hslot, hgoing, Bool.and_self, Bool.false_eq_true, if_false, if_true]

theorem verifyReadFailOn_dest {addr : Nat} {r : OutRec} {rest : List OutRec} {d : Nat × Span} (hout : (queueOf s q).out = r :: rest)
    (hd : r.hostDest = some d) (hholds : spanHolds d.2 addr = true) (hsig : r.signalled = false) (herr : isError r.out = false) :
    verifyReadFailOn q addr s = setQueue (destFailed (lastFail s addr) r d) q
      { queueOf s q with out := { r with out := outcome stHostWrite d.1 addr, hostDest := none, undo := [], quiet := false } :: rest } := by
  simp [verifyReadFailOn, hout, hd, hholds, hsig, herr]

/-- A read that fails for a field of the active command ends that command. -/
theorem hostReadFailOn_field {addr : Nat} {inner : Bool} {c : Cmd} {o : Outcome3} (hact : activeCmd (queueOf s q) = some (inner, c))
    (hstarted : c.phase = .started) (ho : failedField s q c addr = some o) :
    hostReadFailOn q addr s = readFailed (countReadFail s addr) q c o := by
  simp [hostReadFailOn, hact, hstarted, ho]

theorem readFailed_run {u : State} (c : Cmd) (o : Outcome3) (h : (runOf u q).isSome = true) :
    readFailed u q c o = finish (endRun u q stBadHandle (fun _ => .ended) true) q o := by
  obtain ⟨r, hr⟩ := Option.isSome_iff_exists.1 h
  simp [readFailed, hr]

theorem readFailed_noRun {u : State} {c : Cmd} (o : Outcome3) (h : runOf u q = none) :
    readFailed u q c o = if Cmd.opcode c = opRun then finish (abortNamed u (queueFn u q) c o.status.toNat) q o else finish u q o := by
  simp [readFailed, failStart, h]

theorem hostReadFailOn_entry {addr : Nat} (hact : activeCmd (queueOf s q) = none) (hnext : nextReady s q = true)
    (hbuf : (queueOf s q).buffer = none) (hdev : (queueOf s q).sqDev = false) (hlo : Queue.sqSlot (queueOf s q) (queueOf s q).sqHead ≤ addr)
    (hhi : addr < Queue.sqSlot (queueOf s q) (queueOf s q).sqHead + 64) :
    hostReadFailOn q addr s = setQueue (countReadFail s addr) q { queueOf s q with fetchFailed := true } := by
  simp [hostReadFailOn, hact, hnext, hbuf, hdev, hlo, hhi]

end Failures

/-- Settles O26: each failure takes the branch of its premises. -/
theorem hostFailures : Obligations.HostFailures := by
  unfold Obligations.HostFailures
  intro s q hq Q
  refine ⟨?output, ?slot, ?dest, ?field, ?entry, ?retried, ?failing⟩
  case output =>
    intro addr hout hheld
    refine onQueue_next hq ?_
    simp [verifyReadFailOn, show (queueOf s q).out = [] from hout, hheld]
  case slot =>
    intro addr r rest hout hslot hgoing hdest
    refine ⟨_, onQueue_next hq (verifyReadFailOn_slot hout hslot hgoing hdest), ?_⟩
    have h := undeliverable_standing (s := lastFail s addr.toNat) (q := q) (r := r) (rest := rest) (by rw [queueOf_lastFail]; exact hout)
    simp only [Queue.standing, Prod.mk.injEq, queueOf_lastFail] at h
    obtain ⟨hstate, hguilty, hcause, -, hcq, hundelivered⟩ := h
    exact ⟨hundelivered, hstate, hguilty, hcause, hcq⟩
  case dest =>
    intro addr r rest d hout hd hholds hsig herr
    exact onQueue_next hq (verifyReadFailOn_dest hout hd hholds hsig herr)
  case field =>
    intro addr inner c o hact hstarted ho u
    have hexec : exec (.hostReadFail q addr) s = .next (keep s (readFailed u q c o)) := onQueue_next hq (hostReadFailOn_field hact hstarted ho)
    have hruns : runOf u q = runOf s q := runOf_countReadFail ..
    refine ⟨fun hr => ?_, fun hr hne => ?_, fun hr heq => ?_⟩
    · rw [hexec, readFailed_run c o (hruns ▸ hr)]
    · rw [hexec, readFailed_noRun o (hruns.trans hr), if_neg hne]
    · rw [hexec, readFailed_noRun o (hruns.trans hr), if_pos heq, show queueFn u q = queueFn s q from queueFn_countReadFail ..]
  case entry =>
    intro addr hact hnext hbuf hdev hlo hhi
    exact onQueue_next hq (hostReadFailOn_entry hact hnext hbuf hdev hlo hhi)
  case retried =>
    intro hf
    refine (onQueue_next hq (t := setQueue s q { Q with fetchFailed := false }) ?_).trans (congrArg _ (keep_setQueue ..))
    simp [sqFetchRetryOn, show (queueOf s q).fetchFailed = true from hf, Q]
  case failing =>
    intro hf
    refine onQueue_next hq ?_
    simp [sqFetchRetryOn, show (queueOf s q).fetchFailed = true from hf, Q]

/-! ### Fetching ahead (R261) -/

theorem OnlyMemory.hostMem {s t : State} (h : OnlyMemory s t) : t.hostMem = s.hostMem := by
  obtain ⟨_, _, _, _, _, _, _, _, _, _, _, _, _, _, _, _, _, _, _, _, rfl, -, -⟩ := h
  rfl

/-- An entry of a ring in host memory: as fetched, else as it stands. -/
theorem readEntry_host {s : State} {q : Nat} (h : (queueOf s q).sqDev = false) (k : U32) : readEntry s q k =
    ((((queueOf s q).fetched.find? (fun e => e.1 == k)).map (·.2)).getD (readHost s (Queue.sqSlot (queueOf s q) k) 64), none, s) := by
  unfold readEntry
  dsimp only
  rw [h]
  split
  · next b hb => rw [hb]; rfl
  · next hb => rw [hb]; rfl

/-- Of queue q only what it has fetched ahead may differ, and by no less: a later read of an entry gives what it gave. -/
structure FetchedMore (s t : State) (q : Nat) : Prop where
  hostMem : t.hostMem = s.hostMem
  sqDev : (queueOf t q).sqDev = (queueOf s q).sqDev
  grows : (queueOf s q).fetched ⊆ (queueOf t q).fetched
  reads : ∀ k, (readEntry t q k).1 = (readEntry s q k).1
  others : ∀ p, p ≠ q → queueOf t p = queueOf s p

theorem FetchedMore.refl (s : State) (q : Nat) : FetchedMore s s q := ⟨rfl, rfl, fun _ h => h, fun _ => rfl, fun _ _ => rfl⟩

theorem FetchedMore.trans {s t u : State} {q : Nat} (h : FetchedMore s t q) (k : FetchedMore t u q) : FetchedMore s u q where
  hostMem := k.hostMem.trans h.hostMem
  sqDev := k.sqDev.trans h.sqDev
  grows := fun _ he => k.grows (h.grows he)
  reads := fun e => (k.reads e).trans (h.reads e)
  others := fun p hp => (k.others p hp).trans (h.others p hp)

/-- An entry that was not fetched joins those that were, as it stands in the ring. -/
theorem fetchedMore_append {s : State} {q : Nat} {c : U32} (hdev : (queueOf s q).sqDev = false)
    (hnew : (queueOf s q).fetched.any (fun e => e.1 == c) = false) :
    FetchedMore s (setQueue s q { queueOf s q with fetched := (queueOf s q).fetched ++ [(c, (readEntry s q c).1)] }) q where
  hostMem := rfl
  sqDev := by rw [queueOf_setQueue, if_pos rfl]
  grows := by rw [queueOf_setQueue, if_pos rfl]; exact List.subset_append_left ..
  reads := fun k => by
    have hfind : (queueOf s q).fetched.find? (fun e => e.1 == c) = none := by
      rw [List.find?_eq_none]
      exact fun e he => List.any_eq_false.1 hnew e he
    rw [readEntry_host (by rw [queueOf_setQueue, if_pos rfl]; exact hdev), readEntry_host hdev, readEntry_host hdev, queueOf_setQueue, if_pos rfl,
      List.find?_append]
    by_cases hk : c = k
    · subst hk
      simp [hfind]
    · have hlast : [(c, (((queueOf s q).fetched.find? (fun e => e.1 == c)).map (·.2)).getD
          (readHost s (Queue.sqSlot (queueOf s q) c) 64))].find? (fun e => e.1 == k) = none := by simp [hk]
      rw [hlast, Option.or_none]
      rfl
  others := fun p hp => by rw [queueOf_setQueue, if_neg hp]

/-- The fetch of one entry that was not fetched before. -/
def fetchOne (s : State) (q : Nat) (c : U32) : State :=
  if (queueOf s q).fetched.any (fun e => e.1 == c) then s
  else setQueue s q { queueOf s q with fetched := (queueOf s q).fetched ++ [(c, (readEntry s q c).1)] }

theorem fetchEntries_succ {s : State} {q : Nat} (hdev : (queueOf s q).sqDev = false) (c : U32) (n : Nat) :
    fetchEntries s q c (n + 1) = fetchEntries (fetchOne s q c) q (c + 1) n := by
  rw [fetchEntries, fetchOne, readEntry_host hdev]
  rfl

theorem fetchOne_fetchedMore {s : State} {q : Nat} (hdev : (queueOf s q).sqDev = false) (c : U32) : FetchedMore s (fetchOne s q c) q := by
  unfold fetchOne
  split
  · exact .refl s q
  · exact fetchedMore_append hdev (Bool.eq_false_iff.2 ‹_›)

theorem fetchOne_has (s : State) (q : Nat) (c : U32) : (queueOf (fetchOne s q c) q).fetched.any (fun e => e.1 == c) = true := by
  unfold fetchOne
  split
  · assumption
  · rw [queueOf_setQueue, if_pos rfl]
    simp

theorem fetchEntries_fetchedMore {s : State} {q : Nat} (hdev : (queueOf s q).sqDev = false) (c : U32) (n : Nat) :
    FetchedMore s (fetchEntries s q c n) q
    ∧ ∀ i, i < n → (queueOf (fetchEntries s q c n) q).fetched.any (fun e => e.1 == c + BitVec.ofNat 32 i) = true := by
  induction n generalizing s c with
  | zero => exact ⟨.refl s q, fun i hi => absurd hi (Nat.not_lt_zero i)⟩
  | succ n ih =>
    have hmore := fetchOne_fetchedMore hdev c
    obtain ⟨hrest, hall⟩ := ih (hmore.sqDev.trans hdev) (c + 1)
    rw [fetchEntries_succ hdev]
    refine ⟨hmore.trans hrest, fun i hi => ?_⟩
    cases i with
    | zero =>
      obtain ⟨e, he, hc⟩ := List.any_eq_true.1 (fetchOne_has s q c)
      exact List.any_eq_true.2 ⟨e, hrest.grows he, by simpa using hc⟩
    | succ i =>
      have := hall i (by omega)
      rwa [BitVec.add_assoc, show (1 : U32) + BitVec.ofNat 32 i = BitVec.ofNat 32 (i + 1) by rw [BitVec.ofNat_add, BitVec.add_comm]; rfl] at this

theorem fetchedMore_of_memory {s t : State} (h : OnlyMemory s t) {q : Nat} (hdev : (queueOf s q).sqDev = false) : FetchedMore s t q := by
  have hq := h.sameFront.queueOf
  have hhost : ∀ a n, readHost t a n = readHost s a n := fun a n => by unfold readHost; rw [h.hostMem]
  refine ⟨h.hostMem, by rw [hq], by rw [hq]; exact fun _ he => he, fun k => ?_, fun p _ => hq p⟩
  rw [readEntry_host (by rw [hq]; exact hdev), readEntry_host hdev, hq, hhost]

theorem fetchedMore_buffer {s : State} {q : Nat} (hdev : (queueOf s q).sqDev = false) (l : List (Nat × List Byte)) :
    FetchedMore s (setQueue s q { queueOf s q with fetchedBuffer := l }) q := by
  have hown : queueOf (setQueue s q { queueOf s q with fetchedBuffer := l }) q = { queueOf s q with fetchedBuffer := l } := by simp
  refine ⟨rfl, by rw [hown], by rw [hown]; exact fun _ he => he, fun k => ?_, fun p hp => by rw [queueOf_setQueue, if_neg hp]⟩
  rw [readEntry_host (by rw [hown]; exact hdev), readEntry_host hdev, hown]
  rfl

theorem fetchInner_fetchedMore {s : State} {q : Nat} (hdev : (queueOf s q).sqDev = false) (a n : Nat) : FetchedMore s (fetchInner s q a n) q := by
  induction n generalizing s a with
  | zero => exact .refl s q
  | succ n ih =>
    have hread : FetchedMore s (readInner s q a).2.2 q := fetchedMore_of_memory (readInner_only s q a) hdev
    rw [fetchInner]
    generalize readInner s q a = x at hread
    obtain ⟨b, bad, u⟩ := x
    dsimp only
    split
    · exact hread.trans (ih (hread.sqDev.trans hdev) (a + 64))
    · have ht := hread.trans (fetchedMore_buffer (hread.sqDev.trans hdev) ((queueOf u q).fetchedBuffer ++ [(a, b)]))
      exact ht.trans (ih (ht.sqDev.trans hdev) (a + 64))

/-- What every command keeps is not seen by a fetch. -/
theorem fetchedMore_keep (s : State) {t : State} {q : Nat} (hdev : (queueOf t q).sqDev = false) : FetchedMore t (keep s t) q where
  hostMem := rfl
  sqDev := rfl
  grows := fun _ he => he
  reads := fun k => by
    rw [readEntry_host hdev, readEntry_host (s := keep s t) hdev]
    rfl
  others := fun _ _ => rfl

theorem prefetchOn_fetchedMore {s : State} {q : Nat} {c : Cmd} (hrun : (queueOf s q).state = .running) (hcur : (queueOf s q).cur = some c)
    (hdev : (queueOf s q).sqDev = false) :
    FetchedMore (fetchEntries s q ((queueOf s q).sqHead + 1) (Queue.waiting (queueOf s q) - 1)) (prefetchOn q s) q := by
  have hmore := (fetchEntries_fetchedMore hdev ((queueOf s q).sqHead + 1) (Queue.waiting (queueOf s q) - 1)).1
  unfold prefetchOn
  dsimp only
  rw [hrun, hcur]
  dsimp only
  split
  · exact .refl ..
  · split
    · exact fetchInner_fetchedMore (hmore.sqDev.trans hdev) ..
    · exact .refl ..

/-- Settles O25: what is fetched is what stands in the ring, so that the fetch is not seen. -/
theorem prefetchRow : Obligations.PrefetchRow := by
  unfold Obligations.PrefetchRow
  intro s q c hq hrun hcur hdev
  obtain ⟨hmore, hall⟩ := fetchEntries_fetchedMore hdev ((queueOf s q).sqHead + 1) (Queue.waiting (queueOf s q) - 1)
  have hrest := prefetchOn_fetchedMore hrun hcur hdev
  have hpre := hmore.trans hrest
  have h := hpre.trans (fetchedMore_keep s (hpre.sqDev.trans hdev))
  refine ⟨_, onQueue_next hq rfl, h.hostMem, fun i hi => ?_, h.reads, h.others⟩
  obtain ⟨e, he, hc⟩ := List.any_eq_true.1 (hall i (by omega))
  exact List.any_eq_true.2 ⟨e, hrest.grows he, hc⟩

/-! ### The start of commands (R250, R251) -/

/-- A READY device whose queue 0 has, with no command buffer open, an inner command that waits on an errored object and a ring command
behind it that waits too. -/
def strayInner : State :=
  { State.reset with
    regs := [(0x40, 0x10)], fns := [(0, { qCount := 1 })], syncs := [(0, { error := true })]
    queues := [(0, { state := .running, cur := some { bytes := [] }, innerCur := some { bytes := [] } })] }

/-- The turns of the front ends in the state that a step leaves. -/
def frontsAfter : Result → Table FrontEnd
  | .next t => t.fronts
  | _ => []

/-- Refutes O18: the statement makes every command whose wait ends take the turn; in `strayInner` the waiting ring command becomes the active
one when the inner command ends, and the front end, which takes no turn for a queue that waits, keeps its turn. -/
theorem not_commandStart : ¬ Obligations.CommandStart := by
  unfold Obligations.CommandStart
  intro h
  obtain ⟨hact, -⟩ := h.1 strayInner 0 0 { turn := 0, taken := 1 } (by decide) (by decide) (by decide)
  have hfronts := congrArg frontsAfter (hact true { bytes := [] } rfl)
  exact absurd hfronts (by decide)

end Sys2Proof.Machine

/-! # The checks of a command (O19)

What every check keeps of the state, given that reads of device memory and free values keep it; and that a span which a check lets pass in device
memory lies in its function's partition and below the capacity (Table 11-5). -/

namespace Sys2Proof.Machine

/-! ### What the checks keep -/

/-- Reads of device memory and the drawing of free values keep P. -/
structure ReadsKeep (P : State → Prop) : Prop where
  read : ∀ s fn a n, P s → P (readDev s fn a n).2.2
  draw : ∀ s k, P s → P { s with draws := k }

section Keeps
variable {P : State → Prop} (hP : ReadsKeep P)
include hP

theorem ReadsKeep.pickEntry {s : State} (h : P s) (new : List Byte) (old : List (List Byte)) : P (pickEntry s new old).2 := by
  unfold Machine.pickEntry
  split
  · exact h
  · exact hP.draw s _ h

theorem ReadsKeep.relocate {s : State} (h : P s) (old : List (Nat × List Byte)) (fn k : Nat) (need : Need) (off len : Nat) :
    P (relocate s old fn k need off len).2 := by
  unfold Machine.relocate
  dsimp only
  split
  · exact h
  · have hread := hP.read s fn ((fnOf s fn).htBase.toNat + 32 * (k % 2 ^ 24)) 32 h
    generalize readDev s fn ((fnOf s fn).htBase.toNat + 32 * (k % 2 ^ 24)) 32 = x at hread
    obtain ⟨e, _ | ⟨a, bad⟩, u⟩ := x
    · exact hP.pickEntry hread ..
    · exact hread

theorem ReadsKeep.checkHandle {s : State} (h : P s) (fn : Nat) (c : Cmd) (off : Nat) (need : Need) (o n : Nat) :
    P (checkHandle s fn c off need o n).2 := by
  have hr := hP.relocate h c.stale fn (Cmd.fld c off 4) need o n
  unfold Machine.checkHandle
  generalize Machine.relocate s c.stale fn (Cmd.fld c off 4) need o n = x at hr
  obtain ⟨_ | _ | _, u⟩ := x
  · exact hr
  · exact hr
  · exact hr

theorem ReadsKeep.checkRule {s : State} (h : P s) (fn : Nat) (c : Cmd) (off : Nat) (r : Rule) : P (checkRule s fn c off r).2 := by
  cases r with
  | value => exact h
  | handle => exact hP.checkHandle h ..
  | optional =>
    unfold Machine.checkRule
    dsimp only
    split
    · exact h
    · exact hP.checkHandle h ..
  | plan => exact h
  | context =>
    unfold Machine.checkRule
    dsimp only
    split
    · exact h
    · exact h
  | sync => exact h

theorem ReadsKeep.checkBody {s : State} (h : P s) (fn : Nat) (c : Cmd) (n : Nat) : P (checkBody s fn c n).2 := by
  induction n generalizing s c with
  | zero => exact h
  | succ n ih =>
    unfold Machine.checkBody
    dsimp only
    split
    · exact h
    · split
      · exact ih h c
      · next r _ =>
        have hr := hP.checkRule h fn c (0x40 - (n + 1)) r
        generalize Machine.checkRule s fn c (0x40 - (n + 1)) r = x at hr
        obtain ⟨_ | d, u⟩ := x
        · exact hr
        · exact ih hr d

theorem ReadsKeep.checkCommand {s : State} (h : P s) (fn : Nat) (c : Cmd) : P (checkCommand s fn c).2 := by
  unfold Machine.checkCommand
  split
  · exact h
  · split
    · split
      · exact h
      · split
        · exact h
        · exact hP.checkBody h ..
    · have hr := hP.relocate h c.stale fn (Cmd.indHandle c) (onDevice rd) 0 32
      generalize Machine.relocate s c.stale fn (Cmd.indHandle c) (onDevice rd) 0 32 = x at hr
      obtain ⟨p | _ | _, u⟩ := x
      · dsimp only
        split
        · exact hr
        · have hblock := hP.read u fn p.addr 32 hr
          generalize readDev u fn p.addr 32 = y at hblock
          obtain ⟨blk, _ | ⟨a, bad⟩, v⟩ := y
          · exact hP.checkBody hblock ..
          · exact hblock
      · exact hr
      · exact hr

end Keeps

/-- The checks change device memory and what its accesses change, and nothing else. -/
theorem readsKeep_memory (s : State) : ReadsKeep (OnlyMemory s) :=
  ⟨fun _ _ _ _ h => h.trans (readDev_only ..), fun _ _ h => h.trans (.of rfl rfl rfl)⟩

/-! ### What the checks let pass (R257, R258) -/

/-- A span in device memory is not empty and lies in the partition of function fn and below the capacity. -/
def InPartition (s : State) (fn : Nat) (p : Span) : Prop :=
  p.host = false →
    (fnOf s fn).memBase.toNat ≤ p.addr ∧ p.addr + p.len ≤ (fnOf s fn).memLimit.toNat + 1 ∧ p.addr + p.len ≤ capacity s ∧ 0 < p.len

theorem OnlyMemory.capacity {s t : State} (h : OnlyMemory s t) : capacity t = capacity s := by
  obtain ⟨_, _, _, _, _, _, _, _, _, _, _, _, _, _, _, _, _, _, _, _, rfl, -, hr⟩ := h
  unfold Machine.capacity channels
  dsimp only
  rw [hr]

theorem OnlyMemory.fnOf {s t : State} (h : OnlyMemory s t) (fn : Nat) : fnOf t fn = fnOf s fn := by
  obtain ⟨_, _, _, _, _, _, _, _, _, _, _, _, _, _, _, _, _, _, _, _, rfl, -, -⟩ := h
  rfl

theorem OnlyMemory.inPartition {s t : State} (h : OnlyMemory s t) (fn : Nat) (p : Span) : InPartition t fn p ↔ InPartition s fn p := by
  unfold InPartition
  rw [h.capacity, h.fnOf]

/-- Check 5 of Table 11-5, and the length of check 2. -/
theorem inPartition_of_checkEntry {s : State} {fn h : Nat} {e : List Byte} {need : Need} {off len : Nat} {p : Span}
    (hok : checkEntry s fn h e need off len = .ok p) : InPartition s fn p := by
  unfold checkEntry at hok
  extract_lets addr length flags host c at hok
  split at hok
  · exact absurd hok nofun
  · next hvalid =>
    split at hok
    · exact absurd hok nofun
    · split at hok
      · exact absurd hok nofun
      · split at hok
        · exact absurd hok nofun
        · next hplace =>
          split at hok
          · exact absurd hok nofun
          · cases hok
            intro hdev
            simp only [show host = false from hdev, Bool.not_false, Bool.true_and, Bool.or_eq_true, decide_eq_true_eq, not_or] at hplace
            have hlen : length ≠ 0 := fun h0 => hvalid (.inr (.inl h0))
            rw [show c = fnOf s fn from rfl] at hplace
            clear_value addr length
            dsimp only
            omega

theorem inPartition_of_relocate {s u : State} {old : List (Nat × List Byte)} {fn h : Nat} {need : Need} {off len : Nat} {p : Span}
    (hok : relocate s old fn h need off len = (.ok p, u)) : InPartition s fn p := by
  unfold relocate at hok
  dsimp only at hok
  split at hok
  · exact absurd hok nofun
  · split at hok
    · next e t hread =>
      have hmem : OnlyMemory s t := by
        have := readDev_only s fn ((fnOf s fn).htBase.toNat + 32 * (h % 2 ^ 24)) 32
        rwa [hread] at this
      have hpick := (readsKeep_memory s).pickEntry hmem e ((old.filter (fun x => x.1 == (fnOf s fn).htBase.toNat + 32 * (h % 2 ^ 24))).map (·.2))
      obtain ⟨hentry, -⟩ := Prod.mk.inj hok
      exact (hpick.inPartition fn p).1 (inPartition_of_checkEntry hentry)
    · exact absurd hok nofun

/-- Every span of a command lies in its function's partition. -/
def SpansIn (s : State) (fn : Nat) (c : Cmd) : Prop := ∀ e ∈ c.spans, InPartition s fn e.2

theorem OnlyMemory.spansIn {s t : State} (h : OnlyMemory s t) (fn : Nat) (c : Cmd) : SpansIn t fn c ↔ SpansIn s fn c :=
  forall₂_congr fun e _ => h.inPartition fn e.2

section Spans
variable {s u : State} {fn : Nat} {c d : Cmd}

theorem checkHandle_spansIn {off o n : Nat} {need : Need} (hc : SpansIn s fn c) (hok : checkHandle s fn c off need o n = (.ok d, u)) :
    SpansIn s fn d := by
  unfold checkHandle at hok
  split at hok
  · next p t hp =>
    cases hok
    intro e he
    rcases List.mem_append.1 he with he | he
    · exact hc e he
    · rw [List.mem_singleton.1 he]
      exact inPartition_of_relocate hp
  · exact absurd hok nofun
  · exact absurd hok nofun

/-- A rule that lets a command pass without relocating leaves it as it is. -/
theorem spansIn_of_guard {b : Prop} [Decidable b] {o : Outcome3} (hc : SpansIn s fn c)
    (hok : ((if b then .ok c else .error o : Checked), s) = (.ok d, u)) : SpansIn s fn d := by
  split at hok
  · cases hok
    exact hc
  · exact absurd hok nofun

theorem checkRule_spansIn {off : Nat} {r : Rule} (hc : SpansIn s fn c) (hok : checkRule s fn c off r = (.ok d, u)) : SpansIn s fn d := by
  cases r with
  | value bad =>
    cases bad with
    | true => exact absurd hok nofun
    | false => cases hok; exact hc
  | handle need o n => exact checkHandle_spansIn hc hok
  | optional need o n =>
    unfold checkRule at hok
    dsimp only at hok
    split at hok
    · cases hok
      exact hc
    · exact checkHandle_spansIn hc hok
  | plan => exact spansIn_of_guard hc hok
  | context =>
    unfold checkRule at hok
    dsimp only at hok
    split at hok
    · exact absurd hok nofun
    · exact spansIn_of_guard hc hok
  | sync => exact spansIn_of_guard hc hok

theorem checkBody_spansIn {n : Nat} (hc : SpansIn s fn c) (hok : checkBody s fn c n = (.ok d, u)) : SpansIn s fn d := by
  induction n generalizing s c with
  | zero => cases hok; exact hc
  | succ n ih =>
    unfold checkBody at hok
    dsimp only at hok
    split at hok
    · exact absurd hok nofun
    · split at hok
      · exact ih hc hok
      · next r _ =>
        split at hok
        · next e t hr =>
          have hmem : OnlyMemory s t := by
            have := (readsKeep_memory s).checkRule (.refl s) fn c (0x40 - (n + 1)) r
            rwa [hr] at this
          exact (hmem.spansIn fn d).1 (ih ((hmem.spansIn fn e).2 (checkRule_spansIn hc hr)) hok)
        · exact absurd hok nofun

theorem checkCommand_spansIn (hc : SpansIn s fn c) (hok : checkCommand s fn c = (.ok d, u)) : SpansIn s fn d := by
  unfold checkCommand at hok
  split at hok
  · exact absurd hok nofun
  · split at hok
    · split at hok
      · exact absurd hok nofun
      · split at hok
        · exact absurd hok nofun
        · exact checkBody_spansIn hc hok
    · split at hok
      · exact absurd hok nofun
      · exact absurd hok nofun
      · next p t hp =>
        have hmem : OnlyMemory s t := by
          have := (readsKeep_memory s).relocate (.refl s) c.stale fn (Cmd.indHandle c) (onDevice rd) 0 32
          rwa [hp] at this
        split at hok
        · exact absurd hok nofun
        · split at hok
          · exact absurd hok nofun
          · next blk v hread =>
            have hmem' : OnlyMemory s v := hmem.trans (by
              have := readDev_only t fn p.addr 32
              rwa [hread] at this)
            exact (hmem'.spansIn fn d).1 (checkBody_spansIn
              (c := { c with bytes := replaceWords c.bytes blk (Cmd.indMask c), indirect := Cmd.indMask c }) ((hmem'.spansIn fn _).2 hc) hok)

end Spans

/-- Settles O19: a command without spans starts in bounds, and each check keeps it there. -/
theorem relocationSafe : Obligations.RelocationSafe := by
  unfold Obligations.RelocationSafe
  intro s u fn c d hc hok e he
  exact checkCommand_spansIn (by rw [SpansIn, hc]; exact nofun) hok e he

end Sys2Proof.Machine

/-! # The PCI Express attachment (O51)

One lemma for each access: the branch that it takes under the premises of its row, and for the vectors what unmasking does to the pending bit
and to the messages sent. -/

namespace Sys2Proof.Machine

variable {s : State} {fn : Nat}

theorem onFn_next {t : State} {f : State → State} (hfn : fn < 16) (hf : f s = t) : onFn fn s f = .next (keep s t) := hf ▸ onFn_eq hfn

/-! ### BAR0 accesses of a wrong size (R343) -/

theorem discard_frame (s : State) : ∃ r, discard s = { s with regs := r } := by
  unfold discard addCount
  exact setReg_frame (by decide) ..

theorem keep_discard (s : State) : keep s (discard s) = discard s := by
  obtain ⟨_, h⟩ := discard_frame s
  rw [h]
  rfl

theorem keep_answerStatus_discard (s : State) (st : Nat) : keep s (answerStatus (discard s) st) = answerStatus (discard s) st := by
  obtain ⟨_, h⟩ := discard_frame s
  rw [h]
  rfl

theorem bar0BadAccessOn_discards {off size : Nat} (ha : awake s = true) (hbad : ¬ ((size = 4 ∨ size = 8) ∧ off % size = 0)) (isRead : Bool) :
    bar0BadAccessOn off size isRead s = if isRead then answerStatus (discard s) 1 else discard s := by
  unfold bar0BadAccessOn
  rw [if_neg (by simp only [ha, Bool.true_eq_false, false_or]; exact hbad)]
  rfl

/-! ### BAR2 (R344, R345, R347) -/

/-- The access is the whole of what a window takes: it stays below the frames, in what the window reaches, and out of a partition that is
being rewritten. -/
structure InWindow (s : State) (fn off n : Nat) : Prop where
  nonempty : 0 < n
  below : off + n ≤ bar2Size s fn - 2 ^ 31
  reach : windowBase s fn + off + n ≤ windowEnd s fn
  settled : beingZeroed s (windowBase s fn + off) = false

namespace InWindow
variable {off n : Nat} (h : InWindow s fn off n)
include h

theorem fits : ¬ bar2Size s fn < off + n := by have := h.below; omega

theorem notFrame : ¬ bar2Size s fn - framesBytes ≤ off := by
  have h1 := h.below
  have h2 := h.nonempty
  unfold framesBytes
  omega

theorem reached : min n (windowEnd s fn - (windowBase s fn + off)) = n := by have := h.reach; omega

end InWindow

theorem bar2ReadOn_window {off n : Nat} {r : U16} {b : List Byte} {u : State} (ha : awake s = true) (hr : isReady s = true) (hn : n ≤ 4096)
    (hw : InWindow s fn off n) (hread : readDev s fn (windowBase s fn + off) n = (b, [], u)) : bar2ReadOn fn off n r s = answer u b := by
  simp [bar2ReadOn, Nat.min_eq_left hn, ha, hr, hw.fits, hw.notFrame, hw.reached, hw.settled, hw.nonempty.ne', hread, answerBad, answer]

theorem bar2ReadOn_early {off n : Nat} {r : U16} (ha : awake s = true) (hr : isReady s = false) (hpos : 0 < n) (hn : n ≤ 4096)
    (hfits : off + n ≤ bar2Size s fn) : bar2ReadOn fn off n r s = answer s (List.replicate n 0) := by
  simp [bar2ReadOn, Nat.min_eq_left hn, ha, hr, hpos.ne', Nat.not_lt.2 hfits]

theorem bar2WriteOn_window {off : Nat} {b : List Byte} {r : U16} (ha : awake s = true) (hr : isReady s = true) (hw : InWindow s fn off b.length) :
    bar2WriteOn fn off b false r s = writeDev (noteStale s (windowBase s fn + off) b.length) fn (windowBase s fn + off) b := by
  have hne : b ≠ [] := List.length_pos_iff.1 hw.nonempty
  simp [bar2WriteOn, ha, hr, hw.fits, hw.notFrame, hw.reached, hw.settled, hne]

theorem bar2WriteOn_poisoned {off : Nat} {b : List Byte} {r : U16} (ha : awake s = true) (hr : isReady s = true) (hw : InWindow s fn off b.length) :
    bar2WriteOn fn off b true r s =
      reportAer (logPoison (poisonSpan s (windowBase s fn + off) b.length) fn (windowBase s fn + off) 0 r) fn 12 false := by
  have hne : b ≠ [] := List.length_pos_iff.1 hw.nonempty
  simp [bar2WriteOn, ha, hr, hw.fits, hw.notFrame, hw.reached, hw.settled, hne, aerPoisoned]

/-- The upper 2 GiB of the window are the frames of the peers. -/
theorem bar2WriteOn_frame {x : Nat} {b : List Byte} {r : U16} (ha : awake s = true) (hr : isReady s = true) (hne : b ≠ [])
    (hx : x + b.length ≤ 2 ^ 31) (hsize : 2 ^ 31 ≤ bar2Size s fn) :
    bar2WriteOn fn (bar2Size s fn - 2 ^ 31 + x) b false r s = frameWriteOn r (x / 2 ^ 29) (x % 2 ^ 29) b s := by
  have hfits : ¬ bar2Size s fn < bar2Size s fn - 2 ^ 31 + x + b.length := by omega
  unfold bar2WriteOn framesBytes
  dsimp only
  rw [if_neg (by simp only [ha, hr, hfits, Bool.true_eq_false, List.length_eq_zero_iff, hne, or_self, not_false_eq_true]),
    if_pos (Nat.le_add_right ..), if_neg Bool.false_ne_true, Nat.add_sub_cancel_left]

theorem noteStale_frame (s : State) (a n : Nat) : noteStale s a n = { s with stale := (noteStale s a n).stale } := by
  unfold noteStale
  dsimp only
  split
  · rfl
  · rfl

/-! ### Configuration requests (R340, R348, R360) -/

section Config
variable (hmain : s.board.mainOk = true) (hperst : s.board.perst = false)
include hmain hperst

theorem configRequestOn_early (hphase : phaseOf s < 3) (a : ConfigAccess) : configRequestOn fn a s = answerStatus s 2 := by
  simp [configRequestOn, hmain, hperst, configUp, Nat.not_le.2 hphase, cplRetry]

theorem configRequestOn_absent (hphase : 3 ≤ phaseOf s) (hp : fnPresent s fn = false) (a : ConfigAccess) :
    configRequestOn fn a s = answerStatus s 1 := by
  simp [configRequestOn, hmain, hperst, configUp, hphase, hp, cplUnsupported]

theorem configRequestOn_read (hphase : 3 ≤ phaseOf s) (hp : fnPresent s fn = true) (o : Nat) :
    configRequestOn fn (.read o) s = answer (cfgRead s fn (o % 4096 / 4 * 4)).2 (toLE 4 (cfgRead s fn (o % 4096 / 4 * 4)).1) := by
  simp [configRequestOn, hmain, hperst, configUp, hphase, hp]

theorem configRequestOn_write (hphase : 3 ≤ phaseOf s) (hp : fnPresent s fn = true) (o : Nat) (v : U32) :
    configRequestOn fn (.write o v) s = answer (cfgWrite s fn (o % 4096 / 4 * 4) v) [] := by
  simp [configRequestOn, hmain, hperst, configUp, hphase, hp]

end Config

/-- The device's identity: a register of which every bit is known. -/
theorem cfgRead_identity (s : State) : (cfgRead s 0 0).1 = 0x72001F6E := by
  have hword : cfgWord s 0 0 = cfgAll 0x72001F6E := rfl
  unfold cfgRead
  rw [hword]
  exact (congrArg (Nat.lor _) (Nat.and_zero _)).trans rfl

/-! ### MSI-X (R358) -/

theorem sendMsg_frame (s : State) (m : Msg) : ∃ p, sendMsg s m = { s with pcie := p } ∧ p.unmasked = s.pcie.unmasked ∧ p.pending = s.pcie.pending
    ∧ (s.board.l1 = none → p.sent = s.pcie.sent ++ [m]) := by
  unfold sendMsg
  split
  · next h => exact ⟨_, rfl, rfl, rfl, fun h0 => absurd h (by simp [h0])⟩
  · exact ⟨_, rfl, rfl, rfl, fun _ => rfl⟩

/-- A vector unmasked. -/
def unmaskedAt (s : State) (fn v : Nat) : State :=
  { s with pcie := { s.pcie with unmasked := tset (fun _ => false) s.pcie.unmasked (vectorKey fn v) true } }

/-- A vector unmasked, its pending bit clear. -/
def releasedAt (s : State) (fn v : Nat) : State :=
  { unmaskedAt s fn v with
    pcie := { (unmaskedAt s fn v).pcie with pending := tset (fun _ => false) s.pcie.pending (vectorKey fn v) false } }

theorem unmaskVector_eq {v : Nat} (hv : v < tableSize fn) :
    unmaskVector s fn v = if vectorPending s fn v then sendMsg (releasedAt s fn v) (.msix fn v) else unmaskedAt s fn v :=
  if_neg (Nat.not_le.2 hv)

theorem vectorUnmasked_unmaskedAt (s : State) (fn v : Nat) : vectorUnmasked (unmaskedAt s fn v) fn v = true := by
  simp [vectorUnmasked, unmaskedAt]

theorem vectorPending_releasedAt (s : State) (fn v : Nat) : vectorPending (releasedAt s fn v) fn v = false := by
  simp [vectorPending, releasedAt]

/-- Unmasking: the pending bit goes out as one message and is clear afterwards. -/
theorem unmaskVector_spec {v : Nat} (hv : v < tableSize fn) : ∃ p, unmaskVector s fn v = { s with pcie := p }
    ∧ vectorUnmasked { s with pcie := p } fn v = true ∧ vectorPending { s with pcie := p } fn v = false
    ∧ (s.board.l1 = none → p.sent = s.pcie.sent ++ (if vectorPending s fn v then [.msix fn v] else [])) := by
  rw [unmaskVector_eq hv]
  cases hp : vectorPending s fn v with
  | true =>
    obtain ⟨p, hmsg, hunmasked, hpending, hsent⟩ := sendMsg_frame (releasedAt s fn v) (.msix fn v)
    refine ⟨p, hmsg, ?_, ?_, hsent⟩
    · rw [← vectorUnmasked_unmaskedAt s fn v]
      exact congrArg (fun t => tget (fun _ => false) t (vectorKey fn v)) hunmasked
    · rw [← vectorPending_releasedAt s fn v]
      exact congrArg (fun t => tget (fun _ => false) t (vectorKey fn v)) hpending
  | false => exact ⟨_, rfl, vectorUnmasked_unmaskedAt s fn v, hp, fun _ => (List.append_nil _).symm⟩

theorem msixWrite_spec (s : State) (fn off : Nat) (w : U32) : ∃ p, msixWrite s fn off w = { s with pcie := p }
    ∧ (off / 16 < tableSize fn → off % 16 ≠ 12 → msixWord { s with pcie := p } fn off = w.toNat)
    ∧ (off / 16 < tableSize fn → off % 16 = 12 → vectorUnmasked { s with pcie := p } fn (off / 16) = !w.getLsbD 0) := by
  unfold msixWrite
  dsimp only
  split
  · next hv => exact ⟨_, rfl, fun h => absurd h (Nat.not_lt.2 hv), fun h => absurd h (Nat.not_lt.2 hv)⟩
  · next hv =>
    split
    · next hword =>
      refine ⟨_, rfl, fun h _ => ?_, fun _ h => absurd h hword⟩
      unfold msixWord
      dsimp only
      rw [if_pos h, if_neg hword, tget_tset, if_pos rfl]
    · next hctl =>
      split
      · next hmask => exact ⟨_, rfl, fun _ h => absurd h hctl, fun _ _ => by simp [vectorUnmasked, hmask]⟩
      · next hmask =>
        obtain ⟨p, ht, hunmasked, -, -⟩ := unmaskVector_spec (s := s) (Nat.not_le.1 hv)
        exact ⟨p, ht, fun _ h => absurd h hctl, fun _ _ => by rw [hunmasked, Bool.eq_false_iff.2 hmask]; rfl⟩

/-- Settles O51: each access by the lemma of its row. -/
theorem pcieRows : Obligations.PcieRows := by
  unfold Obligations.PcieRows
  intro s fn hfn
  refine ⟨?bar0, ?read, ?early, ?write, ?frame, ?config, ?resize, ?unmask, ?table, ?ats⟩
  case bar0 =>
    intro off size ha hbad
    refine ⟨(onFn_eq hfn).trans ?_, (onFn_eq hfn).trans ?_⟩
    · rw [bar0BadAccessOn_discards ha hbad, if_pos rfl, keep_answerStatus_discard]
    · rw [bar0BadAccessOn_discards ha hbad, if_neg Bool.false_ne_true, keep_discard]
  case read =>
    intro off n r b u ha hr hpos hn hbelow hreach hset hread
    refine (onFn_eq hfn).trans ?_
    rw [bar2ReadOn_window ha hr hn ⟨hpos, hbelow, hreach, hset⟩ hread]
  case early =>
    intro off n r ha hr hpos hn hfits
    refine (onFn_eq hfn).trans ?_
    rw [bar2ReadOn_early ha hr hpos hn hfits]
    rfl
  case write =>
    intro off b r ha hr hne hbelow hreach hset
    have hw : InWindow s fn off b.length := ⟨List.length_pos_iff.2 hne, hbelow, hreach, hset⟩
    refine ⟨⟨(onFn_eq hfn).trans ?_, noteStale_frame ..⟩, (onFn_eq hfn).trans ?_⟩
    · rw [bar2WriteOn_window ha hr hw]
    · rw [bar2WriteOn_poisoned ha hr hw]
  case frame =>
    intro x b r ha hr hne hx hsize
    refine (onFn_eq hfn).trans ?_
    rw [bar2WriteOn_frame ha hr hne hx hsize]
  case config =>
    intro hmain hperst
    refine ⟨fun a hphase => ?_, fun a hphase hp => ?_, fun o v hphase hp => ?_, fun o hphase hp => ?_, fun hphase h0 => ?_⟩
    · refine (onFn_eq hfn).trans ?_
      rw [configRequestOn_early hmain hperst hphase]
      rfl
    · refine (onFn_eq hfn).trans ?_
      rw [configRequestOn_absent hmain hperst hphase hp]
      rfl
    · refine (onFn_eq hfn).trans ?_
      rw [configRequestOn_write hmain hperst hphase hp]
    · refine (onFn_eq hfn).trans ?_
      rw [configRequestOn_read hmain hperst hphase hp]
      rfl
    · subst h0
      refine ⟨_, onFn_eq hfn, ?_⟩
      rw [configRequestOn_read hmain hperst hphase rfl, show 0 % 4096 / 4 * 4 = 0 from rfl, cfgRead_identity]
      rfl
  case resize =>
    intro k hlo hhi
    have hin : ¬ (k < 34 ∨ 40 < k) := by omega
    refine ⟨fun h0 hoff => (onFn_eq hfn).trans ?_, fun h0 hoff => (onFn_eq hfn).trans ?_⟩
    · rw [resizeBarOn, if_neg hin, if_pos h0, hoff, if_neg Bool.false_ne_true]
      rfl
    · rw [resizeBarOn, if_neg hin, if_neg h0, hoff, if_neg Bool.false_ne_true]
      rfl
  case unmask =>
    intro v hv
    obtain ⟨p, ht, hunmasked, hpending, hsent⟩ := unmaskVector_spec (s := s) hv
    exact ⟨_, onFn_next hfn ht, hunmasked, hpending, hsent, rfl⟩
  case table =>
    intro off ha hlt halign
    have hoff : off / 4 * 4 = off := by omega
    have hin : ¬ (awake s = false ∨ bar4Size s fn ≤ off) := by simp [ha, hlt]
    refine ⟨(onFn_eq hfn).trans ?_, fun w => ?_⟩
    · rw [msixUnmaskOn, if_neg hin, hoff]
      rfl
    · obtain ⟨p, ht, hword, hctl⟩ := msixWrite_spec s fn off w
      have hon : msixUnmaskOn fn (.write off w) s = { s with pcie := p } := by rw [msixUnmaskOn, if_neg hin, hoff, ht]
      exact ⟨_, onFn_next hfn hon, rfl, hword, hctl⟩
  case ats =>
    intro p
    obtain ⟨_, ht, -⟩ := sendMsg_frame s (.invalidated fn p)
    refine (onFn_eq hfn).trans ?_
    rw [ht]
    rfl

end Sys2Proof.Machine

/-! # Device memory as its accesses leave it

Which accesses leave the words of device memory as they are, which words a store touches, and that reads of words without errors, poison and
stale seals change none (R290 to R301).  The facts that O22 and O12 rest on. -/

namespace Sys2Proof.Machine

/-! ### What leaves device memory alone -/

/-- The words of device memory are as they were: their bytes, tags and errors. -/
structure SameWords (s t : State) : Prop where
  mem : t.mem = s.mem
  tags : t.memMeta = s.memMeta
  errs : t.memErr = s.memErr

theorem SameWords.refl (s : State) : SameWords s s := ⟨rfl, rfl, rfl⟩

theorem SameWords.trans {s t u : State} (h : SameWords s t) (k : SameWords t u) : SameWords s u :=
  ⟨k.mem.trans h.mem, k.tags.trans h.tags, k.errs.trans h.errs⟩

theorem OnlyFlags.sameWords {s t : State} (h : OnlyFlags s t) : SameWords s t := by
  obtain ⟨_, _, _, rfl⟩ := h
  exact ⟨rfl, rfl, rfl⟩

theorem OnlyRegs.sameWords {s t : State} (h : OnlyRegs s t) : SameWords s t := h.flags.sameWords

theorem OnlyHealth.sameWords {s t : State} (h : OnlyHealth s t) : SameWords s t := by
  obtain ⟨_, _, _, _, rfl, -⟩ := h
  exact ⟨rfl, rfl, rfl⟩

theorem logEvent_sameWords (s : State) (block code fn : Nat) (payload : List Byte) : SameWords s (logEvent s block code fn payload) :=
  (logEvent_health ..).sameWords

theorem addLife_sameWords (s : State) (i n : Nat) : SameWords s (addLife s i n) := by
  have hentry : ∀ l, SameWords s { s with lifetime := l } := fun _ => ⟨rfl, rfl, rfl⟩
  exact (hentry _).trans (checkLifetime_health _).sameWords

theorem markRowFaulty_sameWords (s : State) (k : Nat) : SameWords s (markRowFaulty s k) := by
  unfold markRowFaulty
  split
  · exact .refl s
  · exact ⟨rfl, rfl, rfl⟩

theorem unparkEast_sameWords (s : State) : SameWords s (unparkEast s) := by
  unfold unparkEast
  split
  · exact (setFld_only ..).sameWords
  · split
    · exact ⟨rfl, rfl, rfl⟩
    · exact .refl s

theorem wakeEast_sameWords (s : State) : SameWords s (wakeEast s) := by
  unfold wakeEast
  split
  · exact .refl s
  · exact (unparkEast_sameWords s).trans ⟨rfl, rfl, rfl⟩

theorem reachWord_sameWords (s : State) (w : Nat) : SameWords s (reachWord s w) := by
  unfold reachWord
  split
  · exact .refl s
  · exact wakeEast_sameWords s

theorem redraw_sameWords (s : State) (r : List (Nat × Nat)) (a : Nat) (b : List Byte) : SameWords s (redraw s r a b).2 := by
  unfold redraw
  split
  · exact ⟨rfl, rfl, rfl⟩
  · exact .refl s

theorem fixDev_sameWords (s : State) (a n : Nat) : SameWords s (fixDev s a n) := ⟨rfl, rfl, rfl⟩

/-! ### The shared slices lie apart -/

theorem setSliceErr_sameWords (s : State) (n w : Nat) (u : Upset) : SameWords s (setSliceErr s n w u) := ⟨rfl, rfl, rfl⟩

theorem pokeSlice_sameWords (s : State) (n o : Nat) (b : List Byte) : SameWords s (pokeSlice s n o b) := ⟨rfl, rfl, rfl⟩

theorem readSlice_sameWords (s : State) (n w : Nat) (back march : Bool) : SameWords s (readSlice s n w back march).2 := by
  have count : ∀ p, SameWords s (countCE (setSliceInfo s n w p false march) (slicePage n)) :=
    fun p => (setReg_only ..).sameWords.trans (countCE_only ..).sameWords
  unfold readSlice
  dsimp only
  split
  · exact .refl s
  · split
    · exact (count _).trans ((pokeSlice_sameWords ..).trans (setSliceErr_sameWords ..))
    · exact count _
  · exact (setReg_only ..).sameWords.trans (countUE_only ..).sameWords

theorem writeSlice_sameWords (s : State) (n o : Nat) (b : List Byte) : SameWords s (writeSlice s n o b) := by
  unfold writeSlice
  dsimp only
  split
  · exact (pokeSlice_sameWords ..).trans (setSliceErr_sameWords ..)
  · exact (readSlice_sameWords ..).trans (pokeSlice_sameWords ..)

theorem preempt_sameWords (s : State) (n : Nat) : SameWords s (preempt s n) := by
  have hmarch : SameWords s (setMarch s n { marchOf s n with testing := false }) := ⟨rfl, rfl, rfl⟩
  exact hmarch.trans ((setFld_only ..).sameWords.trans (addSat_only ..).sameWords)

theorem strikeSlice_sameWords (s : State) (n : Nat) (p : PortAccess) : SameWords s (strikeSlice s n p) := by
  cases p with
  | read => exact setSliceErr_sameWords ..
  | write => exact .refl s

theorem portRead_sameWords (s : State) (n : Nat) (taken : Nat → Bool) (p : PortAccess) : SameWords s (portRead s n taken p).2.2 := by
  cases p with
  | write => exact .refl s
  | read o len u =>
    have h := readSlice_sameWords s n (o % sliceBytes / 32) (!taken (o % sliceBytes / 32)) false
    unfold portRead
    dsimp only
    generalize readSlice s n (o % sliceBytes / 32) (!taken (o % sliceBytes / 32)) false = x at h
    obtain ⟨_ | d, t⟩ := x
    · exact h
    · exact h

theorem portWrite_sameWords (s : State) (n : Nat) (p : PortAccess) : SameWords s (portWrite s n p) := by
  cases p with
  | read => exact .refl s
  | write => exact writeSlice_sameWords ..

theorem serve_sameWords (s : State) (n : Nat) (ports : List PortAccess) : SameWords s (serve s n ports).2.2 := by
  unfold serve
  extract_lets s1 m s2 s3 writes taken
  have h1 : SameWords s s1 := by
    unfold s1
    split
    · exact wakeEast_sameWords s
    · exact .refl s
  have h2 : SameWords s s2 := by
    unfold s2
    split
    · exact h1.trans (preempt_sameWords ..)
    · exact h1
  have h3 : SameWords s s3 := List.foldlRecOn ports _ h2 (fun _ h _ _ => h.trans (strikeSlice_sameWords ..))
  have h4 := List.foldlRecOn (motive := fun acc : List Byte × List Nat × State => SameWords s acc.2.2) ports
    (fun acc p =>
      let (b, bad, s) := portRead acc.2.2 n taken p
      (acc.1 ++ b, acc.2.1 ++ bad, s)) (b := ([], [], s3)) h3 (fun _ h _ _ => h.trans (portRead_sameWords ..))
  generalize List.foldl _ _ ports = x at h4 ⊢
  obtain ⟨b, bad, s4⟩ := x
  have h5 : SameWords s (writes.foldl (fun s p => portWrite s n p) s4) := List.foldlRecOn writes _ h4 (fun _ h _ _ => h.trans (portWrite_sameWords ..))
  dsimp only
  generalize List.foldl _ s4 writes = u at h5 ⊢
  clear_value taken writes
  split
  · split
    · exact h5.trans (add64_only ..).sameWords
    · exact h5
  · exact h5

theorem readSlices_sameWords (s : State) (o n k : Nat) : SameWords s (readSlices s o n k).2.2 := by
  induction k generalizing s o n with
  | zero => exact .refl s
  | succ k ih =>
    unfold readSlices
    dsimp only
    split
    · exact .refl s
    · exact (serve_sameWords s (o / sliceBytes) [.read (o % sliceBytes) (min n (32 - o % 32)) 0]).trans (ih _ _ _)

theorem writeSlices_sameWords (s : State) (o : Nat) (b : List Byte) (k : Nat) : SameWords s (writeSlices s o b k) := by
  induction k generalizing s o b with
  | zero => exact .refl s
  | succ k ih =>
    unfold writeSlices
    split
    · exact .refl s
    · exact (serve_sameWords ..).trans (ih ..)

theorem readAbove_sameWords (s : State) (fn a n : Nat) : SameWords s (readAbove s fn a n).2.2 := by
  unfold readAbove
  split
  · exact readSlices_sameWords ..
  · exact logEvent_sameWords ..

theorem writeAbove_sameWords (s : State) (fn a : Nat) (b : List Byte) : SameWords s (writeAbove s fn a b) := by
  unfold writeAbove
  split
  · exact writeSlices_sameWords ..
  · exact logEvent_sameWords ..

/-! ### Stores of words -/

/-- Of the bytes of device memory only those of words in P may differ. -/
structure OnlyAt (P : Nat → Prop) (s t : State) : Prop where
  bytes : ∀ b, ¬ P (b / 32) → tget memDefault t.mem b = tget memDefault s.mem b

section OnlyAt
variable {P Q : Nat → Prop} {s t u : State}

theorem OnlyAt.of_mem (h : t.mem = s.mem) : OnlyAt P s t := ⟨fun b _ => by rw [h]⟩

theorem OnlyAt.refl (s : State) : OnlyAt P s s := .of_mem rfl

theorem OnlyAt.trans (h : OnlyAt P s t) (k : OnlyAt P t u) : OnlyAt P s u := ⟨fun b hb => (k.bytes b hb).trans (h.bytes b hb)⟩

theorem OnlyAt.mono (h : OnlyAt P s t) (hPQ : ∀ w, P w → Q w) : OnlyAt Q s t := ⟨fun b hb => h.bytes b (fun hp => hb (hPQ _ hp))⟩

theorem SameWords.onlyAt (h : SameWords s t) : OnlyAt P s t := .of_mem h.mem

theorem OnlyAt.rewritten (h : OnlyAt P s t) (r : List Nat) : OnlyAt P s { t with rewritten := r } := ⟨h.bytes⟩

end OnlyAt

theorem pokeDev_onlyAt (s : State) (w : Nat) {d : List Byte} (hd : d.length ≤ 32) : OnlyAt (· = w) s (pokeDev s (w * 32) d) := by
  refine ⟨fun b hb => ?_⟩
  unfold pokeDev
  rw [tget_writeCells, if_neg]
  show ¬ (w * 32 ≤ b ∧ b < w * 32 + d.length)
  omega

theorem putWord_onlyAt (s : State) (w : Nat) {d : List Byte} (hd : d.length ≤ 32) (poison : Bool) : OnlyAt (· = w) s (putWord s w d poison) :=
  ⟨(pokeDev_onlyAt s w hd).bytes⟩

theorem wordData_length (s : State) (w : Nat) : (wordData s w).length = 32 := readCells_length ..

theorem settleWord_onlyAt (s : State) (w : Nat) (fix : Option (Nat × Byte)) : OnlyAt (· = w) s (settleWord s w fix) := by
  unfold settleWord
  extract_lets c c' d m same d'
  have hlen : d'.length ≤ 32 := by
    unfold d'
    split
    · exact List.length_take_le ..
    · split
      · exact (wordData_length s w).le
      · exact (toLE_length ..).le
  clear_value d'
  exact ⟨(pokeDev_onlyAt s w hlen).bytes⟩

theorem poisonWord_onlyAt (s : State) (w : Nat) : OnlyAt (· = w) s (poisonWord s w) :=
  (putWord_onlyAt s w (by simp) true).trans (fixDev_sameWords ..).onlyAt

theorem onCorrected_onlyAt (s : State) (w pos : Nat) (s0 : Byte) (scrub : Bool) : OnlyAt (· = w) s (onCorrected s w pos s0 scrub) := by
  unfold onCorrected
  extract_lets ch injected again s1 s2 s3 s4 s5 k ws ws' s6
  have h1 : OnlyAt (· = w) s s1 := settleWord_onlyAt ..
  clear_value s1
  have h3 : OnlyAt (· = w) s s3 := h1.trans (.trans (t := s2) (.of_mem rfl) ((setErrInfo_only ..).sameWords.trans (countCE_only ..).sameWords).onlyAt)
  have h5 : OnlyAt (· = w) s s5 := h3.trans ((addLife_sameWords ..).trans (logEvent_sameWords ..)).onlyAt
  clear_value s5
  split
  · exact h5
  · split
    · exact h5.trans (.trans (t := s6) (.of_mem rfl) (markRowFaulty_sameWords ..).onlyAt)
    · exact h5.trans (.of_mem rfl)

theorem onUncorrectable_onlyAt (s : State) (w : Nat) (s0 : Byte) (scrub : Bool) : OnlyAt (· = w) s (onUncorrectable s w s0 scrub) := by
  unfold onUncorrectable
  extract_lets ch injected again s1 s2 s3 s4
  have h1 : OnlyAt (· = w) s s1 := poisonWord_onlyAt ..
  clear_value s1
  have h2 : OnlyAt (· = w) s s2 := h1.trans (.of_mem rfl)
  clear_value s2
  have h4 : OnlyAt (· = w) s s4 :=
    h2.trans ((setErrInfo_only ..).sameWords.trans ((countUE_only ..).sameWords.trans (logEvent_sameWords ..))).onlyAt
  split
  · exact h4.trans (markRowFaulty_sameWords ..).onlyAt
  · exact h4

/-- What a read finds once its word is settled: its data, or none of a word that is poisoned or that no key opens. -/
def openWord (s : State) (w : Nat) (scrub : Bool) : Option (List Byte) × State :=
  if poisonBit (metaOf s w) then (none, addSat s (reg (channelPage (wordPlace s w).1) 0x58) 1)
  else match sealKey s (w * 32) (versionBits (metaOf s w)) with
    | some k => (some (readUnder s w k), s)
    | none => (none, onUncorrectable s w 0 scrub)

theorem visitWord_eq (s : State) (w : Nat) (scrub : Bool) : visitWord s w scrub = match checkWord s w with
    | .clean => openWord { (if errOf s w = 0 then s else settleWord s w none) with rewritten := s.rewritten.filter (· != w) } w scrub
    | .corrected p s0 =>
      openWord { onCorrected s w p s0 scrub with rewritten := (onCorrected s w p s0 scrub).rewritten.filter (· != w) } w scrub
    | .uncorrectable s0 => (none, onUncorrectable s w s0 scrub) := by
  unfold visitWord openWord
  cases checkWord s w <;> rfl

theorem openWord_onlyAt (s : State) (w : Nat) (scrub : Bool) : OnlyAt (· = w) s (openWord s w scrub).2 := by
  unfold openWord
  split
  · exact (addSat_only ..).sameWords.onlyAt
  · split
    · exact .refl s
    · exact onUncorrectable_onlyAt ..

theorem readUnder_length (s : State) (w k : Nat) : (readUnder s w k).length = 32 := by
  unfold readUnder
  split
  · exact wordData_length ..
  · exact toLE_length ..

theorem openWord_length {s : State} {w : Nat} {scrub : Bool} {d : List Byte} {t : State} (h : openWord s w scrub = (some d, t)) : d.length = 32 := by
  unfold openWord at h
  split at h
  · exact absurd h nofun
  · split at h
    · cases h
      exact readUnder_length ..
    · exact absurd h nofun

theorem visitWord_onlyAt (s : State) (w : Nat) (scrub : Bool) : OnlyAt (· = w) s (visitWord s w scrub).2 := by
  rw [visitWord_eq]
  cases checkWord s w with
  | clean =>
    refine .trans (.rewritten ?_ _) (openWord_onlyAt ..)
    split
    · exact .refl s
    · exact settleWord_onlyAt s w none
  | corrected p s0 => exact ((onCorrected_onlyAt s w p s0 scrub).rewritten _).trans (openWord_onlyAt ..)
  | uncorrectable s0 => exact onUncorrectable_onlyAt ..

theorem visitWord_length {s : State} {w : Nat} {scrub : Bool} {d : List Byte} {t : State} (h : visitWord s w scrub = (some d, t)) : d.length = 32 := by
  rw [visitWord_eq] at h
  cases hc : checkWord s w with
  | clean => rw [hc] at h; exact openWord_length h
  | corrected p s0 => rw [hc] at h; exact openWord_length h
  | uncorrectable s0 => rw [hc] at h; exact absurd h nofun

theorem storeWord_onlyAt (s : State) (w : Nat) {d : List Byte} (hd : d.length ≤ 32) : OnlyAt (· = w) s (storeWord s w d) := by
  unfold storeWord
  extract_lets s1 s2 a v s3
  have h1 : OnlyAt (· = w) s s1 := putWord_onlyAt s w hd false
  clear_value s1
  have h2 : OnlyAt (· = w) s s2 := h1.trans (.of_mem rfl)
  clear_value s2
  split
  · have h3 : OnlyAt (· = w) s s3 := h2.trans ((setReg_only s2 0 a (v % 128)).sameWords.onlyAt.trans (.of_mem rfl))
    exact h3.trans (.of_mem rfl)
  · exact h2

theorem writeWord_onlyAt (s : State) (w o : Nat) {d : List Byte} (hd : o + d.length ≤ 32) : OnlyAt (· = w) s (writeWord s w o d) := by
  unfold writeWord
  extract_lets s1 s2
  have h2 : OnlyAt (· = w) s s2 := ((reachWord_sameWords s w).trans (add64_only ..).sameWords).onlyAt
  clear_value s2
  split
  · exact h2.trans ((storeWord_onlyAt s2 w (by omega)).trans (fixDev_sameWords ..).onlyAt)
  · split
    · exact h2
    · have hvisit := visitWord_onlyAt s2 w false
      split
      · next old u hv =>
        have hold := visitWord_length hv
        rw [hv] at hvisit
        have hmerged : (old.take o ++ d ++ old.drop (o + d.length)).length ≤ 32 := by
          simp only [List.length_append, List.length_take, List.length_drop]
          omega
        exact h2.trans (hvisit.trans ((storeWord_onlyAt u w hmerged).trans (fixDev_sameWords ..).onlyAt))
      · next u hv =>
        rw [hv] at hvisit
        exact h2.trans hvisit

/-! ### Stores of bytes -/

/-- Words that n bytes at address a touch. -/
def Touched (a n w : Nat) : Prop := 0 < n ∧ a / 32 ≤ w ∧ 32 * w < a + n

theorem Touched.mono {a n a' n' w : Nat} (h : Touched a' n' w) (ha : a ≤ a') (hn : 0 < n' → a' + n' ≤ a + n) : Touched a n w := by
  obtain ⟨h0, h1, h2⟩ := h
  have := hn h0
  exact ⟨by omega, by omega, by omega⟩

theorem OnlyAt.onlyWords {a n : Nat} {s t : State} (h : OnlyAt (Touched a n) s t) : OnlyWords s t a n := by
  intro b hb
  have hout : ¬ Touched a n (b / 32) := fun ⟨h0, h1, h2⟩ => by omega
  exact congrArg (fun x => [x]) (h.bytes b hout)

theorem writeChunks_onlyAt (s : State) (a : Nat) (b : List Byte) (k : Nat) : OnlyAt (Touched a b.length) s (writeChunks s a b k) := by
  induction k generalizing s a b with
  | zero => exact .refl s
  | succ k ih =>
    unfold writeChunks
    split
    · exact .refl s
    · next hne =>
      extract_lets o d
      have hpos : 0 < b.length := List.length_pos_iff.2 (fun h0 => hne (by rw [h0]; rfl))
      have hlen : d.length = min (32 - a % 32) b.length := List.length_take
      have hword : OnlyAt (Touched a b.length) s (writeWord s (a / 32) o d) :=
        (writeWord_onlyAt s (a / 32) o (by rw [hlen]; omega)).mono (fun w hw => hw ▸ ⟨hpos, le_rfl, by omega⟩)
      refine hword.trans ((ih _ (a + d.length) (b.drop d.length)).mono (fun w hw => hw.mono (by omega) (fun _ => ?_)))
      rw [List.length_drop]
      omega

theorem writeDev_onlyAt (s : State) (fn a : Nat) (b : List Byte) : OnlyAt (Touched a b.length) s (writeDev s fn a b) := by
  have hbelow : OnlyAt (Touched a b.length) s (writeChunks s a (b.take (min b.length (capacity s - a))) (min b.length (capacity s - a) / 32 + 2)) :=
    (writeChunks_onlyAt ..).mono (fun w hw => hw.mono le_rfl (fun _ => by simp only [List.length_take]; omega))
  unfold writeDev
  dsimp only
  split
  · exact hbelow
  · exact hbelow.trans (writeAbove_sameWords ..).onlyAt

theorem poisonSpan_onlyAt (s : State) (a n : Nat) : OnlyAt (Touched a n) s (poisonSpan s a n) := by
  unfold poisonSpan
  split
  · exact .refl s
  · refine List.foldlRecOn _ _ (.refl s) (fun t ht i hi => ht.trans ((poisonWord_onlyAt t (a / 32 + i)).mono (fun w hw => ?_)))
    have := List.mem_range.1 hi
    subst hw
    exact ⟨by omega, by omega, by omega⟩

/-! ### Reads of words without errors -/

/-- No word of device memory has an error, is poisoned, or is under a seal that no key opens. -/
def Calm (s : State) : Prop :=
  ∀ w, errOf s w = 0 ∧ poisonBit (metaOf s w) = false ∧ (sealKey s (w * 32) (versionBits (metaOf s w))).isSome = true

theorem Plain.calm {s : State} (h : Plain s) : Calm s := by
  intro w
  obtain ⟨herr, hmeta⟩ := h w
  exact ⟨herr, by rw [hmeta]; rfl, by rw [hmeta]; rfl⟩

/-- t is s after reads of device memory that changed no word of it. -/
structure Still (s t : State) : Prop where
  only : OnlyMemory s t
  words : SameWords s t

theorem Still.refl (s : State) : Still s s := ⟨.refl s, .refl s⟩

theorem Still.trans {s t u : State} (h : Still s t) (k : Still t u) : Still s u := ⟨h.only.trans k.only, h.words.trans k.words⟩

theorem OnlyFlags.still {s t : State} (h : OnlyFlags s t) : Still s t := ⟨h.memory, h.sameWords⟩

/-- What the tag of a word and the keys of its function are read from, beside the words themselves. -/
theorem OnlyMemory.seals {s t : State} (h : OnlyMemory s t) : t.part = s.part ∧ t.flash.retired = s.flash.retired ∧ t.areaSealed = s.areaSealed
    ∧ t.areaKey = s.areaKey ∧ t.ranges = s.ranges ∧ t.fns = s.fns ∧ t.seals = s.seals := by
  obtain ⟨_, _, _, _, _, _, _, _, _, _, _, _, _, _, _, _, _, _, _, _, rfl, -, hr⟩ := h
  exact ⟨rfl, hr, rfl, rfl, rfl, rfl, rfl⟩

theorem Still.calm {s t : State} (h : Still s t) (hs : Calm s) : Calm t := by
  obtain ⟨hpart, hretired, hsealed, hkey, hranges, hfns, hseals⟩ := h.only.seals
  have harea : firmwareArea t = firmwareArea s := by unfold firmwareArea channels; rw [hpart, hretired]
  have herr : ∀ w, errOf t w = errOf s w := fun w => by unfold errOf; rw [h.words.errs]
  have hmeta : ∀ w, metaOf t w = metaOf s w := fun w => by unfold metaOf tagOf implicitTag; rw [h.words.tags, harea, hsealed, hranges]
  have hsealKey : ∀ a v, sealKey t a v = sealKey s a v := fun a v => by
    unfold sealKey ownerOf fnOf sealOf
    rw [harea, hkey, hfns, hseals]
  intro w
  rw [herr, hmeta, hsealKey]
  exact hs w

section Calm
variable {s : State} (hs : Calm s)
include hs

theorem visitWord_still (w : Nat) (scrub : Bool) : Still s (visitWord s w scrub).2 := by
  obtain ⟨herr, hpoison, hkey⟩ := hs w
  refine ⟨visitWord_only s w scrub, ?_⟩
  have hclean : checkWord s w = .clean := if_pos herr
  rw [visitWord_eq, hclean]
  dsimp only
  rw [if_pos herr]
  obtain ⟨k, hk⟩ := Option.isSome_iff_exists.1 hkey
  unfold openWord
  rw [if_neg (by exact Bool.eq_false_iff.1 hpoison)]
  split
  · exact ⟨rfl, rfl, rfl⟩
  · next hnone => exact absurd (hk.symm.trans hnone) nofun

theorem readWord_still (w : Nat) : Still s (readWord s w).2 := by
  have h1 : Still s (reachWord s w) := ⟨reachWord_only s w, reachWord_sameWords s w⟩
  unfold readWord
  extract_lets s1
  have h2 : Still s (add64 s1 (reg (channelPage (wordPlace s1 w).1) 0x60) 32) := h1.trans (add64_only ..).flags.still
  clear_value s1
  have h3 := h2.trans (visitWord_still (h2.calm hs) w false)
  generalize visitWord (add64 s1 (reg (channelPage (wordPlace s1 w).1) 0x60) 32) w false = x at h3
  obtain ⟨_ | d, u⟩ := x
  · exact h3
  · exact h3.trans ⟨redraw_only .., redraw_sameWords ..⟩

theorem readWords_still (w n : Nat) : Still s (readWords s w n).2.2 := by
  induction n generalizing s w with
  | zero => exact .refl s
  | succ n ih =>
    have h := readWord_still hs w
    unfold readWords
    generalize readWord s w = x at h
    obtain ⟨_ | d, u⟩ := x
    · exact h.trans (ih (h.calm hs) (w + 1))
    · exact h.trans (ih (h.calm hs) (w + 1))

theorem readDev_still (fn a n : Nat) : Still s (readDev s fn a n).2.2 := by
  have h : Still s (readBelow s a (min n (capacity s - a))).2.2 := by
    unfold readBelow
    split
    · exact .refl s
    · exact readWords_still hs ..
  unfold readDev
  dsimp only
  split
  · exact h
  · exact h.trans ⟨readAbove_only .., readAbove_sameWords ..⟩

/-- Reads from a device without errors, poison and stale seals change no word. -/
theorem readsKeep_still : ReadsKeep (Still s) :=
  ⟨fun _ fn a n h => h.trans (readDev_still (h.calm hs) fn a n), fun _ _ h => h.trans ⟨.of rfl rfl rfl, rfl, rfl, rfl⟩⟩

end Calm

end Sys2Proof.Machine

/-! # Completion records on their way to the ring (O22)

Each outcome of the first record as an equation of `advanceOut`, and what writing a record changes of its queue and of memory. -/

namespace Sys2Proof.Machine

/-- A record that has made its signal. -/
def OutRec.sent (r : OutRec) : OutRec := { r with signalled := true }

section Advance
variable {s : State} {q : Nat} {r : OutRec} {rest : List OutRec}

/-! ### The first record, signalled -/

theorem advanceOut_quiet (hout : (queueOf s q).out = r :: rest) (hquiet : r.quiet = true) : advanceOut s q = popOut (signalOut s q) q := by
  have hown := (queueOf_signalOut hout q).trans (if_pos rfl)
  unfold advanceOut
  dsimp only
  rw [hown]
  exact if_pos hquiet

/-- A record that QUIET does not drop is written when its slot is free and no undelivered record stands before it. -/
theorem advanceOut_put (hout : (queueOf s q).out = r :: rest) (hquiet : r.quiet = false) (hund : (queueOf s q).undelivered = [])
    (hroom : Queue.records (queueOf s q) < Queue.size (queueOf s q)) : advanceOut s q = putRecord (signalOut s q) q (OutRec.sent r) := by
  have hown := (queueOf_signalOut hout q).trans (if_pos rfl)
  unfold advanceOut
  dsimp only
  rw [hown]
  show (if r.quiet = true then _ else if (!(queueOf s q).undelivered.isEmpty) = true then _
    else if Queue.records (queueOf s q) < Queue.size (queueOf s q) then _ else _) = _
  rw [hquiet, hund, if_neg Bool.false_ne_true, if_neg (by decide), if_pos hroom]
  rfl

/-- A queue whose first record waits for room. -/
def heldFirst (Q : Queue) (now : Nat) : Queue := { Q with recordHeld := true, heldSince := now }

theorem advanceOut_hold (hout : (queueOf s q).out = r :: rest) (hquiet : r.quiet = false) (hund : (queueOf s q).undelivered = [])
    (hfull : Queue.size (queueOf s q) ≤ Queue.records (queueOf s q)) (hheld : (queueOf s q).recordHeld = false) :
    advanceOut s q = setQueue (signalOut s q) q (heldFirst (signalledFirst (queueOf s q) r rest) (signalOut s q).us) := by
  have hown := (queueOf_signalOut hout q).trans (if_pos rfl)
  unfold advanceOut
  dsimp only
  rw [hown]
  show (if r.quiet = true then _ else if (!(queueOf s q).undelivered.isEmpty) = true then _
    else if Queue.records (queueOf s q) < Queue.size (queueOf s q) then _ else if (queueOf s q).recordHeld = true then _ else _) = _
  rw [hquiet, hund, hheld, if_neg Bool.false_ne_true, if_neg (by decide), if_neg (Nat.not_lt.2 hfull), if_neg Bool.false_ne_true]
  rfl

end Advance

/-! ### A record written (R254, R272) -/

/-- Memory with a record of the queue in the slot of CQ_TAIL. -/
def slotWritten (s : State) (q : Nat) (r : OutRec) : State :=
  if (queueOf s q).cqDev then writeDev s (queueFn s q) (Queue.cqSlot (queueOf s q)) (recordBytes (queueOf s q) r)
  else writeHost s (Queue.cqSlot (queueOf s q)) (recordBytes (queueOf s q) r)

/-- The same with CQ_TAIL past the slot. -/
def slotTaken (s : State) (q : Nat) (r : OutRec) : State :=
  setQueue (slotWritten s q r) q { queueOf (slotWritten s q r) q with cqTail := (queueOf s q).cqTail + 1 }

/-- A queue whose first record is in the ring. -/
def delivered (Q : Queue) (now : Nat) : Queue := popped { Q with cqTail := Q.cqTail + 1 } now

section Put
variable (s : State) (q : Nat) (r : OutRec)

theorem slotWritten_front : SameFront s (slotWritten s q r) ∧ (slotWritten s q r).syncs = s.syncs ∧ (slotWritten s q r).us = s.us := by
  unfold slotWritten
  split
  · obtain ⟨-, -, hqueues, hsyncs, -, -, hruns, -, -, -, -, hus⟩ := (writeDev_only s (queueFn s q) (Queue.cqSlot (queueOf s q))
      (recordBytes (queueOf s q) r)).frame
    exact ⟨⟨hqueues, hruns⟩, hsyncs, hus⟩
  · exact ⟨⟨rfl, rfl⟩, rfl, rfl⟩

/-- Beside memory, writing a record changes its own queue, the counters and what the vector raises. -/
theorem putRecord_front : ∃ qs, OnlyFlags { slotWritten s q r with queues := qs } (putRecord s q r)
    ∧ ∀ p, queueOf (putRecord s q r) p = if p = q then delivered (queueOf s q) s.us else queueOf s p := by
  obtain ⟨hfront, -, hus⟩ := slotWritten_front s q r
  have hpop : OnlyFlags { slotWritten s q r with queues := (popOut (slotTaken s q r) q).queues } (popOut (slotTaken s q r) q) := by
    obtain ⟨_, _, hc⟩ := countCmd_only (slotTaken s q r) q
    rw [popOut_eq, hc]
    exact ⟨_, _, _, rfl⟩
  have hput : OnlyFlags (popOut (slotTaken s q r) q) (putRecord s q r) := by
    unfold putRecord
    dsimp only
    split
    · exact raiseVector_only ..
    · exact .refl _
  have htaken : ∀ p, queueOf (slotTaken s q r) p = if p = q then { queueOf s q with cqTail := (queueOf s q).cqTail + 1 } else queueOf s p :=
    fun p => by rw [slotTaken, queueOf_setQueue, hfront.queueOf, hfront.queueOf]
  refine ⟨_, hpop.trans hput, fun p => ?_⟩
  rw [hput.memory.sameFront.queueOf, queueOf_popOut, htaken, htaken, if_pos rfl, show (slotTaken s q r).us = s.us from hus]
  split
  · rfl
  · rfl

theorem putRecord_syncs : (putRecord s q r).syncs = s.syncs := by
  obtain ⟨qs, h, -⟩ := putRecord_front s q r
  obtain ⟨-, -, -, hsyncs, -⟩ := h.memory.frame
  exact hsyncs.trans (slotWritten_front s q r).2.1

theorem putRecord_host (h : (queueOf s q).cqDev = false) : (putRecord s q r).mem = s.mem
    ∧ (putRecord s q r).hostMem = writeCells s.hostMem (Queue.cqSlot (queueOf s q)) (recordBytes (queueOf s q) r) := by
  obtain ⟨qs, hflags, -⟩ := putRecord_front s q r
  have hw : slotWritten s q r = writeHost s (Queue.cqSlot (queueOf s q)) (recordBytes (queueOf s q) r) := by
    unfold slotWritten
    rw [h, if_neg Bool.false_ne_true]
  have hmem := hflags.sameWords.mem
  have hhost := hflags.memory.hostMem
  rw [hw] at hmem hhost
  exact ⟨hmem, hhost⟩

theorem putRecord_dev (h : (queueOf s q).cqDev = true) : (putRecord s q r).hostMem = s.hostMem
    ∧ OnlyAt (Touched (Queue.cqSlot (queueOf s q)) 32) s (putRecord s q r) := by
  obtain ⟨qs, hflags, -⟩ := putRecord_front s q r
  have hw : slotWritten s q r = writeDev s (queueFn s q) (Queue.cqSlot (queueOf s q)) (recordBytes (queueOf s q) r) := by
    unfold slotWritten
    rw [h, if_pos rfl]
  have hmem := hflags.sameWords.mem
  have hhost := hflags.memory.hostMem
  have hstore := writeDev_onlyAt s (queueFn s q) (Queue.cqSlot (queueOf s q)) (recordBytes (queueOf s q) r)
  have hkeep := writeDev_only s (queueFn s q) (Queue.cqSlot (queueOf s q)) (recordBytes (queueOf s q) r)
  rw [recordBytes_length] at hstore
  rw [← hw] at hstore hkeep
  exact ⟨hhost.trans hkeep.hostMem, hstore.trans (.of_mem hmem)⟩

end Put

/-- Host memory after a store, outside and at the store. -/
theorem readHost_of_writeCells {s t : State} {a : Nat} {b : List Byte} (h : t.hostMem = writeCells s.hostMem a b) :
    readHost t a b.length = b ∧ ∀ x, x < a ∨ a + b.length ≤ x → readHost t x 1 = readHost s x 1 := by
  unfold readHost
  rw [h]
  refine ⟨readCells_writeCells .., fun x hx => congrArg (fun y => [y]) ?_⟩
  rw [tget_writeCells, if_neg (by omega)]

/-! ### The end of a command buffer (R263) -/

theorem closeBuffer_unbuffered {s : State} {q : Nat} (h : (queueOf s q).buffer = none) : closeBuffer s q = s := by
  unfold closeBuffer
  dsimp only
  rw [h]

/-- A buffer with a record still waiting stays open. -/
theorem closeBuffer_waiting {s : State} {q : Nat} (h : (queueOf s q).out ≠ []) : closeBuffer s q = s := by
  unfold closeBuffer
  dsimp only
  split
  · exact if_neg (fun hc => h (List.isEmpty_iff.1 hc.2.2))
  · rfl

theorem closeBuffer_closes {s : State} {q : Nat} {b : BufferRun} {c : Cmd} (hb : (queueOf s q).buffer = some b) (hc : (queueOf s q).cur = some c)
    (hend : b.next = b.count) (hinner : (queueOf s q).innerCur = none) (hout : (queueOf s q).out = []) :
    closeBuffer s q = conclude s q false c (okWith b.count) none := by
  simp [closeBuffer, hb, hc, hend, hinner, hout]

/-! ### The rows -/

section Rows
variable {s : State} {q : Nat} {r : OutRec} {rest : List OutRec}

/-- The signal of the first record, as the rows state it. -/
theorem syncOf_sent (hout : (queueOf s q).out = r :: rest) : (∀ g v, r.signal = some (g, v) → r.signalled = false →
      (syncOf (signalOut s q) g).value.toNat = max (syncOf s g).value.toNat v.toNat
      ∧ (syncOf (signalOut s q) g).error = ((syncOf s g).error || isError r.out))
    ∧ ∀ g, (r.signalled = true ∨ ∀ v, r.signal ≠ some (g, v)) → syncOf (signalOut s q) g = syncOf s g := by
  constructor
  · intro g v hr hfresh
    rw [syncOf_signalOut hout hr hfresh, if_pos rfl]
    exact ⟨signalled_value v.isLt _ _, rfl⟩
  · intro g hg
    have hsame : (signalOut s q).syncs = s.syncs → syncOf (signalOut s q) g = syncOf s g := fun h => by unfold syncOf; rw [h]
    cases hsig : r.signalled with
    | true => exact hsame (syncs_signalOut hout (.inl hsig))
    | false =>
      have hother := hg.resolve_left (by simp [hsig])
      cases hr : r.signal with
      | none => exact hsame (syncs_signalOut hout (.inr hr))
      | some e =>
        obtain ⟨g', v⟩ := e
        have hne : g ≠ g' := fun h => hother v (by rw [hr, h])
        rw [syncOf_signalOut hout hr hsig, if_neg hne]

/-- The row of either command whose record goes out. -/
theorem completion_goes {i : Instr} (hq : q < 4096) (hout : (queueOf s q).out = r :: rest) (hund : (queueOf s q).undelivered = [])
    (hi : (i = .completionWrite q ∧ (queueOf s q).recordHeld = false) ∨ (i = .cqRoom q ∧ (queueOf s q).recordHeld = true))
    (hquiet : r.quiet = false) (hroom : Queue.records (queueOf s q) < Queue.size (queueOf s q)) :
    exec i s = .next (keep s (closeBuffer (putRecord (signalOut s q) q (OutRec.sent r)) q)) := by
  rcases hi with ⟨rfl, hheld⟩ | ⟨rfl, hheld⟩
  · refine onQueue_next hq ?_
    rw [completionWriteOn, hheld, if_neg Bool.false_ne_true, advanceOut_put hout hquiet hund hroom]
  · refine onQueue_next hq ?_
    unfold cqRoomOn
    dsimp only
    rw [hheld, if_pos (by simpa using hroom), advanceOut_put hout hquiet hund hroom]

theorem signalOut_keeps (hout : (queueOf s q).out = r :: rest) : (signalOut s q).hostMem = s.hostMem ∧ (signalOut s q).mem = s.mem
    ∧ (signalOut s q).us = s.us := by
  rw [signalOut_frame hout]
  exact ⟨rfl, rfl, rfl⟩

/-- The queue after its first record has been signalled and written. -/
theorem queueOf_goes (hout : (queueOf s q).out = r :: rest) (p : Nat) : queueOf (putRecord (signalOut s q) q (OutRec.sent r)) p =
    if p = q then delivered (signalledFirst (queueOf s q) r rest) s.us else queueOf s p := by
  obtain ⟨-, -, h⟩ := putRecord_front (signalOut s q) q (OutRec.sent r)
  obtain ⟨-, -, hus⟩ := signalOut_keeps (s := s) hout
  rw [h, queueOf_signalOut hout, queueOf_signalOut hout, if_pos rfl, hus]
  split
  · rfl
  · rfl

theorem goes_host (hout : (queueOf s q).out = r :: rest) (h : (queueOf s q).cqDev = false) :
    (putRecord (signalOut s q) q (OutRec.sent r)).mem = s.mem ∧ (putRecord (signalOut s q) q (OutRec.sent r)).hostMem =
      writeCells s.hostMem (Queue.cqSlot (queueOf s q)) (recordBytes (queueOf s q) r) := by
  have hown := (queueOf_signalOut hout q).trans (if_pos rfl)
  obtain ⟨hmem, hhost⟩ := putRecord_host (signalOut s q) q (OutRec.sent r) (by rw [hown]; exact h)
  obtain ⟨hhost', hmem', -⟩ := signalOut_keeps (s := s) hout
  rw [hown, hhost'] at hhost
  exact ⟨hmem.trans hmem', hhost⟩

theorem goes_dev (hout : (queueOf s q).out = r :: rest) (h : (queueOf s q).cqDev = true) :
    (putRecord (signalOut s q) q (OutRec.sent r)).hostMem = s.hostMem
    ∧ OnlyAt (Touched (Queue.cqSlot (queueOf s q)) 32) s (putRecord (signalOut s q) q (OutRec.sent r)) := by
  have hown := (queueOf_signalOut hout q).trans (if_pos rfl)
  obtain ⟨hhost, hstore⟩ := putRecord_dev (signalOut s q) q (OutRec.sent r) (by rw [hown]; exact h)
  rw [hown] at hstore
  obtain ⟨hhost', hmem', -⟩ := signalOut_keeps (s := s) hout
  exact ⟨hhost.trans hhost', .trans (.of_mem hmem') hstore⟩

end Rows

/-- Settles O22: a record that has room goes out after its signal; the other rows by the branch of `advanceOut` that they take. -/
theorem recordRows : Obligations.RecordRows := by
  unfold Obligations.RecordRows
  intro s q r rest hq hout hund Q
  have hown := (queueOf_goes (s := s) hout q).trans (if_pos rfl)
  refine ⟨?goes, ?held, ?quiet, ?last⟩
  case goes =>
    intro i hi hquiet hroom hbuf
    have hexec := completion_goes hq hout hund hi hquiet hroom
    rw [closeBuffer_unbuffered (by rw [hown]; exact hbuf)] at hexec
    obtain ⟨hsignal, hothers⟩ := syncOf_sent (s := s) hout
    have hsync : ∀ g, syncOf (putRecord (signalOut s q) q (OutRec.sent r)) g = syncOf (signalOut s q) g := fun g => by
      unfold syncOf
      rw [putRecord_syncs]
    refine ⟨_, hexec, ?_, ?_, ?_, ?_, fun hdev => ?host, fun hdev => ?device, fun g v hr hfresh => ?signal, fun g hg => ?silent, fun p hp => ?others⟩
    · exact congrArg Queue.cqTail hown
    · exact congrArg Queue.out hown
    · exact congrArg Queue.recordHeld hown
    · exact (congrArg Queue.sqHead hown :)
    case host =>
      obtain ⟨hmem, hhost⟩ := goes_host (s := s) hout hdev
      have hcells := readHost_of_writeCells hhost
      rw [recordBytes_length] at hcells
      exact ⟨hcells.1, hmem, hcells.2⟩
    case device =>
      obtain ⟨hhost, hstore⟩ := goes_dev (s := s) hout hdev
      exact ⟨hhost, hstore.onlyWords⟩
    case signal => rw [show syncOf (keep s _) g = _ from hsync g]; exact hsignal g v hr hfresh
    case silent => exact (hsync g).trans (hothers g hg)
    case others => exact (queueOf_goes hout p).trans (if_neg hp)
  case held =>
    intro hheld hquiet hfull
    have hadv := advanceOut_hold hout hquiet hund hfull hheld
    have hqueue : queueOf (advanceOut s q) q = heldFirst (signalledFirst Q r rest) (signalOut s q).us := by
      rw [hadv, queueOf_setQueue, if_pos rfl]
    have hexec : exec (.completionWrite q) s = .next (keep s (advanceOut s q)) := by
      refine onQueue_next hq ?_
      rw [completionWriteOn, hheld, if_neg Bool.false_ne_true, closeBuffer_waiting (by rw [hqueue]; exact List.cons_ne_nil (OutRec.sent r) rest)]
    refine ⟨_, hexec, congrArg Queue.recordHeld hqueue, (congrArg Queue.cqTail hqueue :), ?_, ?_⟩
    · rw [show Q.out = r :: rest from hout]
      exact congrArg (fun P : Queue => P.out.length) hqueue
    · rw [hadv, signalOut_frame hout]
      rfl
  case quiet =>
    intro hheld hquiet hbuf
    have hadv := advanceOut_quiet (s := s) hout hquiet
    have hqueue : queueOf (advanceOut s q) q = popped (signalledFirst Q r rest) (signalOut s q).us := by
      rw [hadv, queueOf_popOut, if_pos rfl, queueOf_signalOut hout, if_pos rfl]
    have hexec : exec (.completionWrite q) s = .next (keep s (advanceOut s q)) := by
      refine onQueue_next hq ?_
      rw [completionWriteOn, hheld, if_neg Bool.false_ne_true, closeBuffer_unbuffered (by rw [hqueue]; exact hbuf)]
    refine ⟨_, hexec, congrArg Queue.out hqueue, (congrArg Queue.cqTail hqueue :), ?_, ?_⟩
    · rw [hadv, popOut_frame hq (signalOut s q), signalOut_frame hout]
      rfl
    · have hcount := get64_popOut hq (signalOut s q)
      rw [← hadv] at hcount
      rw [signalOut_frame hout] at hcount
      exact hcount
  case last =>
    intro b c hheld hquiet hroom hrest hbuf hend hinner hcur
    subst hrest
    have hexec := completion_goes hq hout hund (.inl ⟨rfl, hheld⟩) hquiet hroom
    rw [closeBuffer_closes (c := { c with since := c.since + (if Q.recordHeld then s.us - Q.heldSince else 0) })
      (by rw [hown]; exact hbuf) (by rw [hown]; exact congrArg (Option.map _) hcur) hend (by rw [hown]; exact hinner) (by rw [hown]; rfl)] at hexec
    refine ⟨_, hexec, ?_⟩
    show _ ∧ _
    rw [conclude_eq]
    refine ⟨?_, ?_, ?_, ?_⟩
    all_goals
      show _ = _
      simp only [show ∀ t : State, queueOf (keep s t) q = queueOf t q from fun _ => rfl, queueOf_setQueue, if_pos, hown]
      rfl

end Sys2Proof.Machine

/-! # What reading an image keeps (R47, R56, R139, R150)

Whatever reads of device memory and the drawing of free values keep, the checks and loads of an image keep: each function of the scaler by the
reads that it makes.  For O12. -/

namespace Sys2Proof.Machine

section Images
variable {P : State → Prop} (hP : ReadsKeep P)
include hP

theorem ReadsKeep.readSpan {s : State} (h : P s) (fn : Nat) (p : Span) (off n : Nat) : P (readSpan s fn p off n).2.2 := by
  unfold Machine.readSpan
  split
  · unfold redraw
    dsimp only
    split
    · exact hP.draw s _ h
    · exact h
  · exact hP.read s fn _ n h

theorem ReadsKeep.fetchSpan {s : State} (h : P s) (fn : Nat) (p : Span) (off n : Nat) : P (fetchSpan s fn p off n).2 := by
  have hr := hP.readSpan h fn p off n
  unfold Machine.fetchSpan
  generalize Machine.readSpan s fn p off n = x at hr
  obtain ⟨b, _ | ⟨a, bad⟩, u⟩ := x
  · exact hr
  · exact hr

theorem ReadsKeep.readImage {s : State} (h : P s) (p : ImageAt) (off n : Nat) : P (readImage s p off n).2 := by
  unfold Machine.readImage
  split
  · exact h
  · extract_lets k
    have h1 := hP.fetchSpan h p.fn p.main off k
    generalize Machine.fetchSpan s p.fn p.main off k = x at h1
    obtain ⟨_ | b, u⟩ := x
    · exact h1
    · dsimp only
      split
      · exact h1
      · have h2 := hP.fetchSpan h1 p.fn p.spill (off + k - p.main.len) (min (n - k) (p.spill.len - (off + k - p.main.len)))
        generalize Machine.fetchSpan u p.fn p.spill (off + k - p.main.len) (min (n - k) (p.spill.len - (off + k - p.main.len))) = y at h2
        obtain ⟨_ | c, v⟩ := y
        · exact h2
        · exact hP.draw v _ h2

theorem ReadsKeep.checkHeader {s : State} (h : P s) (p : ImageAt) : P (checkHeader s p).2 := by
  unfold Machine.checkHeader
  split
  · exact h
  · have h1 := hP.readImage h p 0 64
    generalize Machine.readImage s p 0 64 = x at h1
    obtain ⟨_ | b, u⟩ := x
    · exact h1
    · dsimp only
      split
      · exact h1
      · split
        · split
          · exact h1
          · have h2 := hP.readImage h1 p (256 + 8 * (parseImageHdr b).np) 8
            generalize Machine.readImage u p (256 + 8 * (parseImageHdr b).np) 8 = y at h2
            obtain ⟨_ | c, v⟩ := y
            · exact h2
            · exact h2
        · exact h1

theorem ReadsKeep.checkImage {s : State} (h : P s) (p : ImageAt) : P (checkImage s p).2 := by
  have h1 := hP.checkHeader h p
  unfold Machine.checkImage
  generalize Machine.checkHeader s p = x at h1
  obtain ⟨_ | ⟨hd, k⟩, u⟩ := x
  · exact h1
  · dsimp -zeta only
    extract_lets len
    clear_value len
    have h2 := hP.readImage h1 p 256 (len - 256)
    split
    · next hb => rwa [hb] at h2
    · next b v hb =>
      rw [hb] at h2
      split
      · exact h2
      · dsimp only
        split
        · exact h2
        · exact h2

theorem ReadsKeep.readPieces {s : State} (h : P s) (p : ImageAt) (l : List (Nat × Nat)) : P (readPieces s p l).2 := by
  induction l generalizing s with
  | nil => exact h
  | cons e l ih =>
    obtain ⟨o, n⟩ := e
    have h1 := hP.readImage h p o n
    unfold Machine.readPieces
    generalize Machine.readImage s p o n = x at h1
    obtain ⟨_ | b, u⟩ := x
    · exact h1
    · have h2 := ih h1
      dsimp only
      generalize Machine.readPieces u p l = y at h2
      obtain ⟨_ | c, v⟩ := y
      · exact h2
      · exact h2

theorem ReadsKeep.imagePart_dense {s : State} (h : P s) (p : ImageAt) (hd : ImageHdr) (j w nb : Nat) (want : List Nat) :
    P (imagePart.go p hd j w nb s want).2 := by
  induction want generalizing s with
  | nil => exact h
  | cons q r ih =>
    have h1 := hP.readImage h p (256 + denseAt hd j (64 * q)) (64 * w)
    unfold imagePart.go
    generalize Machine.readImage s p (256 + denseAt hd j (64 * q)) (64 * w) = x at h1
    obtain ⟨_ | b, u⟩ := x
    · exact h1
    · have h2 := hP.readImage h1 p (256 + (j / 64 * nb + q)) 1
      dsimp only
      generalize Machine.readImage u p (256 + (j / 64 * nb + q)) 1 = y at h2
      obtain ⟨_ | e, v⟩ := y
      · exact h2
      · have h3 := ih h2
        dsimp only
        generalize imagePart.go p hd j w nb v r = z at h3
        obtain ⟨_ | l, t⟩ := z
        · exact h3
        · exact h3

theorem ReadsKeep.imagePart {s : State} (h : P s) (p : ImageAt) (hd : ImageHdr) (j : Nat) (want : List Nat) : P (imagePart s p hd j want).2 := by
  unfold Machine.imagePart
  split
  · have h1 := hP.readImage h p (256 + 8 * j) 16
    generalize Machine.readImage s p (256 + 8 * j) 16 = x at h1
    obtain ⟨_ | b, u⟩ := x
    · exact h1
    · dsimp only
      generalize List.map _ (_ : List (Nat × Nat)) = pieces
      have h2 := hP.readPieces h1 p pieces
      generalize Machine.readPieces u p pieces = y at h2
      obtain ⟨_ | c, v⟩ := y
      · exact h2
      · exact h2
  · exact hP.imagePart_dense h p hd j (ImageHdr.width hd) (hd.np / 64) want

theorem ReadsKeep.imageRow {s : State} (h : P s) (p : ImageAt) (hd : ImageHdr) (j lo n : Nat) : P (imageRow s p hd j lo n).2 := by
  unfold Machine.imageRow
  generalize List.map _ (List.range _) = want
  have h1 := hP.imagePart h p hd j want
  generalize Machine.imagePart s p hd j want = x at h1
  obtain ⟨_ | l, u⟩ := x
  · exact h1
  · exact h1

theorem ReadsKeep.loadStore_columns {s : State} (h : P s) (p : ImageAt) (hd : ImageHdr) (lo n v k : Nat) : P (loadStore.go p hd lo n s v k).2 := by
  induction k generalizing s v with
  | zero => exact h
  | succ k ih =>
    have h1 := hP.imageRow h p hd (lo + v) lo n
    unfold loadStore.go
    generalize Machine.imageRow s p hd (lo + v) lo n = x at h1
    obtain ⟨_ | c, u⟩ := x
    · exact h1
    · have h2 := ih h1 (v + 1)
      dsimp only
      generalize loadStore.go p hd lo n u (v + 1) k = y at h2
      obtain ⟨_ | l, t⟩ := y
      · exact h2
      · exact h2

theorem ReadsKeep.loadStore {s : State} (h : P s) (p : ImageAt) (hd : ImageHdr) (lo n : Nat) : P (loadStore s p hd lo n).2 := by
  have h1 := hP.loadStore_columns h p hd lo n 0 n
  unfold Machine.loadStore
  generalize loadStore.go p hd lo n s 0 n = x at h1
  obtain ⟨_ | l, u⟩ := x
  · exact h1
  · exact h1

theorem ReadsKeep.loadLinear {s : State} (h : P s) (p : ImageAt) (hd : ImageHdr) (k lo n : Nat) : P (loadLinear s p hd k lo n).2 := by
  unfold Machine.loadLinear
  extract_lets at0
  have h1 := hP.readImage h p (at0 + 4 * lo) (4 * n)
  generalize Machine.readImage s p (at0 + 4 * lo) (4 * n) = x at h1
  obtain ⟨_ | b, u⟩ := x
  · exact h1
  · exact h1

theorem ReadsKeep.imageSum {s : State} (h : P s) (p : ImageAt) (hd : ImageHdr) (j k : Nat) : P (imageSum s p hd j k).2 := by
  induction k generalizing s j with
  | zero => exact h
  | succ k ih =>
    have h1 := hP.imageRow h p hd j j (hd.np - j)
    unfold Machine.imageSum
    generalize Machine.imageRow s p hd j j (hd.np - j) = x at h1
    obtain ⟨_ | row, u⟩ := x
    · exact h1
    · have h2 := ih h1 (j + 1)
      dsimp only
      generalize Machine.imageSum u p hd (j + 1) k = y at h2
      obtain ⟨_ | t, v⟩ := y
      · exact h2
      · exact h2

theorem ReadsKeep.imageEntries {s : State} (h : P s) (p : ImageAt) (hd : ImageHdr) : P (imageEntries s p hd).2 := by
  unfold Machine.imageEntries
  split
  · have h1 := hP.readImage h p (256 + 8 * hd.np) 8
    generalize Machine.readImage s p (256 + 8 * hd.np) 8 = x at h1
    obtain ⟨_ | b, u⟩ := x
    · exact h1
    · exact h1
  · exact h

theorem ReadsKeep.imageEnergy {s : State} (h : P s) (p : ImageAt) (hd : ImageHdr) : P (imageEnergy s p hd).2 := by
  have h1 := hP.imageSum h p hd 0 hd.np
  unfold Machine.imageEnergy
  generalize Machine.imageSum s p hd 0 hd.np = x at h1
  obtain ⟨_ | j, u⟩ := x
  · exact h1
  · have h2 := hP.imageEntries h1 p hd
    dsimp only
    generalize Machine.imageEntries u p hd = y at h2
    obtain ⟨_ | k, v⟩ := y
    · exact h2
    · have h3 := hP.loadLinear h2 p hd k 0 hd.np
      dsimp only
      generalize Machine.loadLinear v p hd k 0 hd.np = z at h3
      obtain ⟨_ | l, t⟩ := z
      · exact h3
      · exact h3

/-! ### Contexts (R277) -/

theorem ReadsKeep.fillFrame {s : State} (h : P s) (x : Ctx) : P (fillFrame s x).2 := by
  have h1 := hP.checkHeader h (ctxImage x)
  unfold Machine.fillFrame
  generalize Machine.checkHeader s (ctxImage x) = y at h1
  obtain ⟨_ | ⟨hd, k⟩, u⟩ := y
  · exact h1
  · have h2 := hP.loadStore h1 (ctxImage x) hd 0 x.np
    dsimp only
    generalize Machine.loadStore u (ctxImage x) hd 0 x.np = z at h2
    obtain ⟨_ | st, v⟩ := z
    · exact h2
    · exact h2

theorem ReadsKeep.createChecks {s : State} (h : P s) (fn : Nat) (c : Cmd) : P (createChecks s fn c).2 := by
  have h1 := hP.checkHeader h { fn, main := Cmd.span c 0x28 }
  unfold Machine.createChecks
  dsimp only
  generalize Machine.checkHeader s { fn, main := Cmd.span c 0x28 } = x at h1
  obtain ⟨_ | ⟨hd, _⟩, u⟩ := x
  · exact h1
  · dsimp only
    generalize (if ImageHdr.bsi16 hd = true then 2048 else 4096) = widest
    split
    · exact h1
    · have h2 := hP.checkImage h1 { fn, main := Cmd.span c 0x28 }
      generalize Machine.checkImage u { fn, main := Cmd.span c 0x28 } = y at h2
      obtain ⟨_ | ⟨hd, _⟩, v⟩ := y
      · exact h2
      · dsimp only
        split
        · exact h2
        · have h3 := hP.fetchSpan h2 fn (Cmd.span c 0x2C) 0 (min 32 (Cmd.span c 0x2C).len)
          generalize Machine.fetchSpan v fn (Cmd.span c 0x2C) 0 (min 32 (Cmd.span c 0x2C).len) = z at h3
          obtain ⟨_ | b, w⟩ := z
          · exact h3
          · dsimp only
            split
            · exact h3
            · have h4 := hP.fetchSpan h3 fn (Cmd.span c 0x2C) 0 (max 32 (leAt b 8 8))
              generalize Machine.fetchSpan w fn (Cmd.span c 0x2C) 0 (max 32 (leAt b 8 8)) = z' at h4
              obtain ⟨_ | b', t⟩ := z'
              · exact h4
              · dsimp only
                split
                · exact h4
                · split
                  · exact h4
                  · split
                    · exact h4
                    · have h5 := hP.imageEnergy h4 { fn, main := Cmd.span c 0x28 } hd
                      generalize Machine.imageEnergy t { fn, main := Cmd.span c 0x28 } hd = e at h5
                      obtain ⟨_ | e, t'⟩ := e
                      · exact h5
                      · dsimp only
                        split
                        · exact h5
                        · exact h5

end Images

end Sys2Proof.Machine

/-! # Where the commands store (O12)

What a command's destination takes of a store, what a change of a context's descriptor writes (R276), and that the rest of each command only
reads. -/

namespace Sys2Proof.Machine

/-! ### The rest of a command -/

/-- Neither memory differs. -/
structure SameBytes (s t : State) : Prop where
  mem : t.mem = s.mem
  host : t.hostMem = s.hostMem

theorem SameBytes.refl (s : State) : SameBytes s s := ⟨rfl, rfl⟩

theorem SameBytes.trans {s t u : State} (h : SameBytes s t) (k : SameBytes t u) : SameBytes s u := ⟨k.mem.trans h.mem, k.host.trans h.host⟩

theorem Still.sameBytes {s t : State} (h : Still s t) : SameBytes s t := ⟨h.words.mem, h.only.hostMem⟩

theorem keep_sameBytes (s t : State) : SameBytes t (keep s t) := ⟨rfl, rfl⟩

theorem finishTo_sameBytes (s : State) (q : Nat) (o : Outcome3) (dest : Option (Nat × Span)) : SameBytes s (finishTo s q o dest) := by
  obtain ⟨_, h⟩ := finishTo_only s q o dest
  rw [h]
  exact ⟨rfl, rfl⟩

theorem finish_sameBytes (s : State) (q : Nat) (o : Outcome3) : SameBytes s (finish s q o) := finishTo_sameBytes ..

theorem setQueue_sameBytes (s : State) (q : Nat) (Q : Queue) : SameBytes s (setQueue s q Q) := ⟨rfl, rfl⟩

theorem holdCmd_sameBytes (s : State) (q : Nat) (h : Hold) : SameBytes s (holdCmd s q h) := by
  have hwake : SameBytes s (if h = .tiles then wakeEast s else s) := by
    split
    · exact ⟨(wakeEast_sameWords s).mem, (wakeEast_only s).hostMem⟩
    · exact .refl s
  unfold holdCmd
  dsimp only
  split
  · exact hwake.trans (setQueue_sameBytes ..)
  · exact hwake

theorem updateCmd_sameBytes (s : State) (q : Nat) (f : Cmd → Cmd) : SameBytes s (updateCmd s q f) := by
  unfold updateCmd
  split
  · exact setQueue_sameBytes ..
  · exact .refl s

/-- A row that answers a next state of what `onQueue` makes of it. -/
theorem onQueue_inv {q : Nat} {s t : State} {f : State → State} (h : onQueue q s f = .next t) : SameBytes (f s) t := by
  unfold onQueue at h
  split at h
  · cases h
    exact keep_sameBytes ..
  · exact absurd h nofun

/-- A stage or command that is not the active one changes nothing. -/
theorem onStarted_keeps {P : State → Prop} {s : State} {q : Nat} {want : Cmd → Bool} {f : Nat → Cmd → State → State} (h0 : P s)
    (h : ∀ c, P (f (queueFn s q) c s)) : P (onStarted q want f s) := by
  unfold onStarted
  split
  · split
    · exact h _
    · exact h0
  · exact h0

/-! ### Commands that write no memory -/

theorem nopOn_sameBytes (q : Nat) (s : State) : SameBytes s (nopOn q s) := onStarted_keeps (.refl s) (fun _ => finish_sameBytes ..)

theorem execBufferOn_sameBytes (q : Nat) (s : State) : SameBytes s (execBufferOn q s) :=
  onStarted_keeps (.refl s) (fun _ => setQueue_sameBytes ..)

theorem syncClearOn_sameBytes (q : Nat) (s : State) : SameBytes s (syncClearOn q s) := by
  refine onStarted_keeps (.refl s) (fun c => ?_)
  split
  · exact .trans (t := setSync s _ _) ⟨rfl, rfl⟩ (finish_sameBytes ..)
  · exact finish_sameBytes ..

theorem releasePlanOn_sameBytes (q : Nat) (s : State) : SameBytes s (releasePlanOn q s) := by
  refine onStarted_keeps (.refl s) (fun c => ?_)
  split
  · exact finish_sameBytes ..
  · split
    · exact .trans (t := setPlan s _ _) ⟨rfl, rfl⟩ ((updateCmd_sameBytes ..).trans (holdCmd_sameBytes ..))
    · exact .trans (t := delPlan s _) ⟨rfl, rfl⟩ (finish_sameBytes ..)

/-- The checks of a command read, and its start changes queues. -/
theorem beginCmd_sameBytes {s : State} (hs : Calm s) (q : Nat) : SameBytes s (beginCmd s q) := by
  unfold beginCmd
  split
  · exact .refl s
  · next inner c hact =>
    extract_lets Q t
    have ht : SameBytes s t ∧ Calm t := by
      unfold t
      split
      · split
        · exact ⟨setQueue_sameBytes .., hs⟩
        · exact ⟨.refl s, hs⟩
      · exact ⟨.refl s, hs⟩
    clear_value t
    obtain ⟨hbytes, hcalm⟩ := ht
    split
    · exact hbytes.trans (finish_sameBytes ..)
    · have hchecks := (readsKeep_still hcalm).checkCommand (.refl t) (queueFn t q) { c with stale := staleFor t q }
      split
      · next d u hok =>
        rw [hok] at hchecks
        exact hbytes.trans (hchecks.sameBytes.trans (setQueue_sameBytes ..))
      · next o u hbad =>
        rw [hbad] at hchecks
        exact hbytes.trans (hchecks.sameBytes.trans (finish_sameBytes ..))

theorem waitSatisfiedOn_sameBytes {s : State} (hs : Calm s) (q : Nat) : SameBytes s (waitSatisfiedOn q s) := by
  have hturn : ∀ F, SameBytes s { s with fronts := F } ∧ Calm { s with fronts := F } := fun _ => ⟨⟨rfl, rfl⟩, hs⟩
  unfold waitSatisfiedOn
  split
  · split
    · unfold endWait
      split
      · exact (hturn _).1.trans (finish_sameBytes ..)
      · exact (hturn _).1.trans (beginCmd_sameBytes (hturn _).2 q)
    · exact .refl s
  · exact .refl s

/-! ### Stores to a span -/

theorem OnlyWords.of_bytes {s t u : State} {a n : Nat} (h : OnlyWords s t a n ∧ t.hostMem = s.hostMem) (k : SameBytes t u) :
    OnlyWords s u a n ∧ u.hostMem = s.hostMem := by
  unfold OnlyWords peekDev at h ⊢
  rw [k.mem, k.host]
  exact h

theorem OnlyWords2.of_bytes {s t u : State} {a n a' n' : Nat} (h : OnlyWords2 s t a n a' n' ∧ t.hostMem = s.hostMem) (k : SameBytes t u) :
    OnlyWords2 s u a n a' n' ∧ u.hostMem = s.hostMem := by
  unfold OnlyWords2 peekDev at h ⊢
  rw [k.mem, k.host]
  exact h


theorem StoresTo.of_bytes {s t u : State} {p : Span} {off n : Nat} (h : StoresTo s t p off n) (k : SameBytes t u) : StoresTo s u p off n := by
  unfold StoresTo OnlyWords readHost peekDev at h ⊢
  rw [k.mem, k.host]
  exact h

/-- A store of at most n bytes to a span, after reads that changed no word. -/
theorem writeSpan_storesTo {s u : State} (h : SameBytes s u) (fn : Nat) (p : Span) (off : Nat) {n : Nat} {b : List Byte} (hn : b.length ≤ n) :
    StoresTo s (writeSpan u fn p off b) p off n := by
  unfold StoresTo writeSpan
  split
  · refine ⟨h.mem, fun a ha => ?_⟩
    have hcells : (writeHost u (p.addr + off) b).hostMem = writeCells s.hostMem (p.addr + off) b := by rw [← h.host]; rfl
    exact (readHost_of_writeCells hcells).2 a (by omega)
  · refine ⟨(writeDev_only ..).hostMem.trans h.host, OnlyAt.onlyWords ?_⟩
    exact .trans (.of_mem h.mem) ((writeDev_onlyAt ..).mono (fun w hw => hw.mono le_rfl (fun _ => by omega)))

/-- The parts of a copy between its bad words, and the words of its destination that a bad word poisons, lie in the destination. -/
theorem copySpan_storesTo {s : State} (hs : Calm s) (fn : Nat) (src : Span) (so : Nat) (dst : Span) (d n : Nat) :
    StoresTo s (copySpan s fn src so dst d n).2 dst d n := by
  have hlen := readSpan_length s fn src so n
  have hread := (readsKeep_still hs).readSpan (.refl s) fn src so n
  unfold copySpan
  generalize readSpan s fn src so n = x at hlen hread
  obtain ⟨b, bad, u⟩ := x
  dsimp only at hlen hread ⊢
  split
  · exact writeSpan_storesTo hread.sameBytes fn dst d hlen
  · next hdev =>
    have hdev' : dst.host = false := Bool.eq_false_iff.2 hdev
    have hparts : ∀ l : List (Nat × Nat), OnlyMemory u (l.foldl (fun s e => writeSpan s fn dst (d + e.1) ((b.drop e.1).take e.2)) u)
        ∧ OnlyAt (Touched (dst.addr + d) n) u (l.foldl (fun s e => writeSpan s fn dst (d + e.1) ((b.drop e.1).take e.2)) u) := by
      intro l
      refine List.foldlRecOn (motive := fun t => OnlyMemory u t ∧ OnlyAt (Touched (dst.addr + d) n) u t) l _ ⟨.refl u, .refl u⟩ ?_
      intro t ⟨hmem, hat⟩ e _
      unfold writeSpan
      rw [hdev', if_neg Bool.false_ne_true]
      refine ⟨hmem.trans (writeDev_only ..), hat.trans ((writeDev_onlyAt ..).mono (fun w hw => hw.mono (by omega) (fun hpos => ?_)))⟩
      simp only [List.length_take, List.length_drop] at hpos ⊢
      omega
    have hpoisons : ∀ t, OnlyMemory t (poisonCopied t (src.addr + so) n (dst.addr + d) bad)
        ∧ OnlyAt (Touched (dst.addr + d) n) t (poisonCopied t (src.addr + so) n (dst.addr + d) bad) := by
      intro t
      refine List.foldlRecOn (motive := fun t' => OnlyMemory t t' ∧ OnlyAt (Touched (dst.addr + d) n) t t') bad _ ⟨.refl t, .refl t⟩ ?_
      intro t' ⟨hmem, hat⟩ w _
      exact ⟨hmem.trans (poisonSpan_only ..), hat.trans ((poisonSpan_onlyAt ..).mono (fun v hv => hv.mono (by omega) (fun _ => by omega)))⟩
    obtain ⟨hmem, hat⟩ := hparts (goodParts (src.addr + so) n 0 bad)
    obtain ⟨hmem', hat'⟩ := hpoisons ((goodParts (src.addr + so) n 0 bad).foldl
      (fun s e => writeSpan s fn dst (d + e.1) ((b.drop e.1).take e.2)) u)
    unfold StoresTo
    rw [hdev', if_neg Bool.false_ne_true]
    exact ⟨(hmem.trans hmem').hostMem.trans hread.only.hostMem, OnlyAt.onlyWords (.trans (.of_mem hread.words.mem) (hat.trans hat'))⟩

theorem patternBytes_length {p : List Byte} (hp : p.length ≤ 8) (n : Nat) : (patternBytes p n).length ≤ n := by
  unfold patternBytes
  rw [List.length_flatten, List.map_replicate, List.sum_replicate, smul_eq_mul]
  calc n / 8 * p.length ≤ n / 8 * 8 := Nat.mul_le_mul_left _ hp
    _ ≤ n := Nat.div_mul_le_self n 8

theorem ctxBytes_length (x : Ctx) : (ctxBytes x).length = 128 := by
  unfold ctxBytes
  simp only [List.length_append, toLE_length, List.length_singleton]

/-! ### Descriptors of contexts (R276) -/

theorem ctxAddr_aligned (s : State) (g : Nat) : ctxAddr s g = ctxAddr s g / 32 * 32 := by
  unfold ctxAddr firmwareArea GiB
  omega

theorem ctxAddr_area (s : State) (g : Nat) : firmwareArea s ≤ ctxAddr s g := Nat.le_add_right ..

/-- A change of a descriptor stores its four words. -/
theorem setCtx_onlyAt (s : State) (g : Nat) (x : Ctx) : OnlyAt (Touched (ctxAddr s g) 128) s (setCtx s g x) := by
  have haligned := ctxAddr_aligned s g
  unfold setCtx
  dsimp only
  refine List.foldlRecOn (motive := fun t => OnlyAt (Touched (ctxAddr s g) 128) s t) _ _ (.of_mem rfl) (fun t ht i hi => ht.trans ?_)
  have hi4 := List.mem_range.1 hi
  exact (putWord_onlyAt t _ (List.length_take_le ..) false).mono (fun w hw => hw ▸ ⟨by decide, by omega, by omega⟩)

theorem OnlyAt.onlyWords2 {s t : State} {a n a' n' : Nat} (h : OnlyAt (fun w => Touched a n w ∨ Touched a' n' w) s t) :
    OnlyWords2 s t a n a' n' := by
  intro b hb hb'
  have hout : ¬ (Touched a n (b / 32) ∨ Touched a' n' (b / 32)) := by
    rintro (⟨_, _, _⟩ | ⟨_, _, _⟩)
    · omega
    · omega
  exact congrArg (fun x => [x]) (h.bytes b hout)

/-- A store to a span of device memory and then a change of a descriptor. -/
theorem writeDev_setCtx_onlyWords2 {s u : State} (h : Still s u) (fn a g : Nat) (x : Ctx) {b : List Byte} {n : Nat} (hn : b.length ≤ n) :
    OnlyWords2 s (setCtx (writeDev u fn a b) g x) a n (ctxAddr s g) 128 ∧ (setCtx (writeDev u fn a b) g x).hostMem = s.hostMem := by
  have hmem := h.only.trans (writeDev_only u fn a b)
  have haddr : ctxAddr (writeDev u fn a b) g = ctxAddr s g := by
    obtain ⟨hpart, hretired, -⟩ := hmem.seals
    unfold ctxAddr firmwareArea channels
    rw [hpart, hretired]
  have hctx := setCtx_onlyAt (writeDev u fn a b) g x
  rw [haddr] at hctx
  refine ⟨OnlyAt.onlyWords2 ?_, by rw [setCtx_hostMem, hmem.hostMem]⟩
  refine .trans (.of_mem h.words.mem) (.trans ?_ (hctx.mono (fun w hw => .inr hw)))
  exact (writeDev_onlyAt u fn a b).mono (fun w hw => .inl (hw.mono le_rfl (fun _ => by omega)))

/-! ### Frames made and taken in the firmware area (R280) -/

theorem setTag_metaOf (s : State) (w : Nat) (t : Tag) (v : Nat) : metaOf (setTag s w t) v = if v = w then t.md else metaOf s v := by
  have himplicit : ∀ a, implicitTag (setTag s w t) a = implicitTag s a := fun _ => rfl
  unfold metaOf tagOf
  rw [himplicit]
  unfold setTag
  dsimp only
  rw [tget_tset]
  by_cases hv : v = w
  · subst hv
    rw [if_pos rfl, if_pos rfl]
    split
    · next ht => rw [Option.getD_none, ← ht]
    · rfl
  · rw [if_neg hv, if_neg hv]

/-- A word of the firmware area that is written now can be read. -/
theorem putWord_calm {s : State} (hs : Calm s) {w : Nat} (hw : firmwareArea s ≤ w * 32) (d : List Byte) : Calm (putWord s w d false) := by
  intro v
  have herr : errOf (putWord s w d false) v = if v = w then 0 else errOf s v := errOf_setErr ..
  have hmeta : metaOf (putWord s w d false) v = if v = w then (writeTag s (w * 32) false).md else metaOf s v :=
    setTag_metaOf (pokeDev s (w * 32) d) w (writeTag s (w * 32) false) v
  have hkey : ∀ a k, sealKey (putWord s w d false) a k = sealKey s a k := fun _ _ => rfl
  rw [herr, hmeta, hkey]
  by_cases hv : v = w
  · subst hv
    rw [if_pos rfl, if_pos rfl]
    unfold writeTag sealKey
    rw [if_pos hw, if_pos hw]
    cases s.areaKey
    · rw [Bool.and_false]
      exact ⟨rfl, rfl, rfl⟩
    · cases s.areaSealed
      · exact ⟨rfl, rfl, rfl⟩
      · exact ⟨rfl, rfl, rfl⟩
  · rw [if_neg hv, if_neg hv]
    exact hs v

theorem putWords_calm {s : State} (hs : Calm s) (w : Nat → Nat) (d : Nat → List Byte) (l : List Nat) (hw : ∀ i ∈ l, firmwareArea s ≤ w i * 32) :
    Calm (l.foldl (fun t i => putWord t (w i) (d i) false) s) := by
  induction l generalizing s with
  | nil => exact hs
  | cons i l ih =>
    exact ih (putWord_calm hs (hw i List.mem_cons_self) (d i)) (fun j hj => hw j (List.mem_cons_of_mem i hj))

/-- t is s with words of the firmware area written, all of which can be read. -/
structure AreaOnly (s t : State) : Prop where
  area : firmwareArea t = firmwareArea s
  host : t.hostMem = s.hostMem
  below : ∀ b, b < firmwareArea s → tget memDefault t.mem b = tget memDefault s.mem b
  calm : Calm s → Calm t

theorem AreaOnly.refl (s : State) : AreaOnly s s := ⟨rfl, rfl, fun _ _ => rfl, id⟩

theorem AreaOnly.trans {s t u : State} (h : AreaOnly s t) (k : AreaOnly t u) : AreaOnly s u where
  area := k.area.trans h.area
  host := k.host.trans h.host
  below := fun b hb => (k.below b (h.area ▸ hb)).trans (h.below b hb)
  calm := fun hs => k.calm (h.calm hs)

theorem setCtx_areaOnly (s : State) (g : Nat) (x : Ctx) : AreaOnly s (setCtx s g x) := by
  obtain ⟨_, _, _, hframe⟩ := setCtx_frame s g x
  refine ⟨by rw [hframe]; rfl, setCtx_hostMem .., fun b hb => (setCtx_onlyAt s g x).bytes b ?_, fun hs => ?_⟩
  · have := ctxAddr_area s g
    rintro ⟨-, h, -⟩
    have := ctxAddr_aligned s g
    omega
  · have haligned := ctxAddr_aligned s g
    have harea := ctxAddr_area s g
    exact putWords_calm (s := { s with ctxs := tset (fun _ => {}) s.ctxs g x }) hs _ _ _ (fun i _ => show firmwareArea s ≤ _ by omega)

theorem dropFrame_areaOnly (s : State) (x : Ctx) : AreaOnly s (dropFrame s x) := by
  unfold dropFrame
  split
  · exact .refl s
  · exact ⟨rfl, rfl, fun _ _ => rfl, id⟩

theorem delFrame_areaOnly (s : State) (k : Nat) : AreaOnly s (delFrame s k) := ⟨rfl, rfl, fun _ _ => rfl, id⟩

theorem parkTile_areaOnly (s : State) (tile : Nat) : AreaOnly s (parkTile s tile) :=
  List.foldlRecOn (motive := AreaOnly s) _ _ (.refl s) (fun _ ht _ _ => ht.trans ((setCtx_areaOnly ..).trans (delFrame_areaOnly ..)))

theorem setMode_areaOnly (s : State) (tile m : Nat) : AreaOnly s (setMode s tile m) := by
  unfold setMode
  split
  · exact .refl s
  · exact (parkTile_areaOnly s tile).trans ⟨rfl, rfl, fun _ _ => rfl, id⟩

theorem chooseFrame_areaOnly {s u : State} {m records terms : Nat} {forRun : Bool} {place : Nat × Nat × Nat}
    (h : chooseFrame s m records terms forRun = some (place, u)) : AreaOnly s u := by
  unfold chooseFrame at h
  dsimp only at h
  split at h
  · cases h
    exact .refl s
  · split at h
    · cases h
      exact setMode_areaOnly ..
    · split at h
      · exact absurd h nofun
      · obtain ⟨e, -, he⟩ := Option.map_eq_some_iff.1 h
        cases he
        exact (setCtx_areaOnly ..).trans (delFrame_areaOnly ..)

theorem SameBytes.areaOnly_bytes {s t u : State} (h : AreaOnly s t) (k : SameBytes t u) :
    (∀ b, b < firmwareArea s → peekDev u b 1 = peekDev s b 1) ∧ u.hostMem = s.hostMem := by
  refine ⟨fun b hb => congrArg (fun x => [x]) ?_, k.host.trans h.host⟩
  rw [k.mem]
  exact h.below b hb

/-- MAKE_RESIDENT, from any state, writes descriptors alone. -/
theorem makeResidentOn_bytes {s : State} (hs : Calm s) (q : Nat) : ∃ t, AreaOnly s t ∧ SameBytes t (makeResidentOn q s) := by
  unfold makeResidentOn ctxOp
  have plain : ∀ u, SameBytes s u → ∃ t, AreaOnly s t ∧ SameBytes t u := fun u h => ⟨s, .refl s, h⟩
  refine onStarted_keeps (P := fun u => ∃ t, AreaOnly s t ∧ SameBytes t u) (plain s (.refl s)) (fun c => ?_)
  dsimp only
  split
  · exact plain _ (finish_sameBytes ..)
  · next g _ =>
    split
    · split
      · exact plain _ (holdCmd_sameBytes ..)
      · next t l f u hframe =>
        have hu := chooseFrame_areaOnly hframe
        have hfill := (readsKeep_still (hu.calm hs)).fillFrame (.refl u) (ctxOf s g)
        split
        · next e v hv =>
          rw [hv] at hfill
          exact ⟨u, hu, hfill.sameBytes.trans (finish_sameBytes ..)⟩
        · next st v hv =>
          rw [hv] at hfill
          have hload : AreaOnly u (setFrame v (frameKey t l f) { ctx := g, store := st, lastRun := (ctxOf s g).lastRun }) := by
            obtain ⟨hpart, hretired, -⟩ := hfill.only.seals
            refine ⟨?_, hfill.only.hostMem, fun b _ => ?_, fun hc => hfill.calm hc⟩
            · show firmwareArea v = firmwareArea u
              unfold firmwareArea channels
              rw [hpart, hretired]
            · show tget memDefault v.mem b = _
              rw [hfill.words.mem]
          exact ⟨_, hu.trans (hload.trans (setCtx_areaOnly ..)), finish_sameBytes ..⟩
    · split
      · exact plain _ (holdCmd_sameBytes ..)
      · exact plain _ (finish_sameBytes ..)

/-! ### The rows -/

section Rows
variable {s t : State} {q : Nat} {inner : Bool} {c : Cmd} {g : Nat}

/-- The next state of a row is what it answers. -/
theorem next_sameBytes {i : Instr} {u : State} (hu : exec i s = .next (keep s u)) (ht : exec i s = .next t) : SameBytes u t := by
  rw [hu] at ht
  cases ht
  exact keep_sameBytes ..

theorem copyOn_storesTo (hs : Calm s) (h : Serving s q opCopy inner c) :
    StoresTo s (copyOn q s) (Cmd.span c 0x24) (Cmd.fld c 0x38 8) (Cmd.fld c 0x28 8) := by
  have hcopy := copySpan_storesTo hs (queueFn s q) (Cmd.span c 0x20) (Cmd.fld c 0x30 8) (Cmd.span c 0x24) (Cmd.fld c 0x38 8) (Cmd.fld c 0x28 8)
  rw [copyOn, onStarted_serving h]
  dsimp only
  split
  · exact hcopy.of_bytes (finishTo_sameBytes ..)
  · exact hcopy.of_bytes (finishTo_sameBytes ..)

theorem createOn_stores (hs : Calm s) (h : ServingContext s q 0 inner c g) :
    OnlyWords2 s (createOn q s) (Cmd.span c 0x30).addr 512 (ctxAddr s g) 128 ∧ (createOn q s).hostMem = s.hostMem := by
  have hchecks := (readsKeep_still hs).createChecks (.refl s) (queueFn s q) c
  rw [createOn, ctxOp_eq h]
  dsimp only
  split
  · next o u hbad =>
    rw [hbad] at hchecks
    have hlog : SameBytes u (logCreate u q o) := by
      unfold logCreate
      split
      · exact ⟨(logEvent_sameWords ..).mem, (logEvent_only ..).hostMem⟩
      · exact .refl u
    exact OnlyWords2.of_bytes (t := s) ⟨fun _ _ _ => rfl, rfl⟩ (hchecks.sameBytes.trans (hlog.trans (finish_sameBytes ..)))
  · next hd set u hok =>
    rw [hok] at hchecks
    have hstored := writeDev_setCtx_onlyWords2 hchecks (queueFn s q) (Cmd.span c 0x30).addr g (createdCtx (queueFn s q) c hd set)
      (b := List.replicate 512 0) (n := 512) (List.length_replicate ..).le
    exact OnlyWords2.of_bytes hstored (finish_sameBytes ..)

theorem setCtx_dropFrame_stores (s : State) (g q : Nat) (x y : Ctx) (o : Outcome3) :
    OnlyWords s (finish (setCtx (dropFrame s x) g y) q o) (ctxAddr s g) 128 ∧ (finish (setCtx (dropFrame s x) g y) q o).hostMem = s.hostMem := by
  have hdrop := dropFrame_areaOnly s x
  have hmem : (dropFrame s x).mem = s.mem := by
    unfold dropFrame
    split
    · rfl
    · rfl
  have hctx := setCtx_onlyAt (dropFrame s x) g y
  have haddr : ctxAddr (dropFrame s x) g = ctxAddr s g := by
    unfold ctxAddr
    rw [hdrop.area]
  rw [haddr] at hctx
  have hend := finish_sameBytes (setCtx (dropFrame s x) g y) q o
  exact ⟨OnlyAt.onlyWords (.trans (.of_mem hmem) (hctx.trans (.of_mem hend.mem))), by rw [hend.host, setCtx_hostMem, hdrop.host]⟩

theorem readStateOn_storesTo (hs : Calm s) (h : ServingContext s q 4 inner c g) :
    StoresTo s (readStateOn q s) (Cmd.span c 0x28) 0 (stateBytes (ctxOf s g).n) := by
  have hread := readDev_still hs (queueFn s q) (ctxOf s g).stateAddr (stateBytes (ctxOf s g).n)
  have hlen := readDev_length s (queueFn s q) (ctxOf s g).stateAddr (stateBytes (ctxOf s g).n)
  rw [readStateOn, ctxOp_eq h]
  split
  · next hbad =>
    rw [hbad] at hread
    refine StoresTo.of_bytes (t := s) ?_ (hread.sameBytes.trans (finish_sameBytes ..))
    unfold StoresTo
    split
    · exact ⟨rfl, fun _ _ => rfl⟩
    · exact ⟨rfl, fun _ _ => rfl⟩
  · next hok =>
    rw [hok] at hread hlen
    exact (writeSpan_storesTo hread.sameBytes _ _ 0 hlen).of_bytes (finishTo_sameBytes ..)

theorem writeStateOn_stores (hs : Calm s) (h : ServingContext s q 5 inner c g) :
    OnlyWords2 s (writeStateOn q s) (ctxOf s g).stateAddr (stateBytes (ctxOf s g).n) (ctxAddr s g) 128
    ∧ (writeStateOn q s).hostMem = s.hostMem := by
  have hread := (readsKeep_still hs).fetchSpan (.refl s) (queueFn s q) (Cmd.span c 0x28) 0 (stateBytes (ctxOf s g).n)
  have hlen := readSpan_length s (queueFn s q) (Cmd.span c 0x28) 0 (stateBytes (ctxOf s g).n)
  rw [writeStateOn, ctxOp_eq h]
  split
  · next hbad =>
    rw [hbad] at hread
    exact OnlyWords2.of_bytes (t := s) ⟨fun _ _ _ => rfl, rfl⟩ (hread.sameBytes.trans (finish_sameBytes ..))
  · next b u hok =>
    have hfetched : b.length ≤ stateBytes (ctxOf s g).n := by
      unfold fetchSpan at hok
      generalize readSpan s (queueFn s q) (Cmd.span c 0x28) 0 (stateBytes (ctxOf s g).n) = x at hok hlen
      obtain ⟨b', _ | ⟨a, bad⟩, v⟩ := x
      · cases hok
        exact hlen
      · exact absurd hok nofun
    rw [hok] at hread
    exact OnlyWords2.of_bytes (writeDev_setCtx_onlyWords2 hread (queueFn s q) (ctxOf s g).stateAddr g _ hfetched) (finish_sameBytes ..)

end Rows

/-- Settles O12: each command stores to its destination or its descriptors, and reads of plain words change none. -/
theorem storeFrame : Obligations.StoreFrame := by
  unfold Obligations.StoreFrame
  intro s t q inner c g hplain
  have hs := hplain.calm
  refine ⟨fun h ht => ?patch, fun h ht => ?fill, fun h ht => ?copy, fun h ht => ?timestamp, fun h ht => ?create, fun o i hi h ht => ?descriptor,
    fun ht => ?resident, fun h ht => ?readState, fun h ht => ?writeState, fun h ht => ?query, fun i hi ht => ?others⟩
  case patch =>
    exact (writeSpan_storesTo (.refl s) _ _ _ (List.length_take_le ..)).of_bytes ((finish_sameBytes ..).trans (next_sameBytes (exec_patch h) ht))
  case fill =>
    have hpattern := patternBytes_length (p := (c.bytes.drop 0x38).take 8) (List.length_take_le ..) (Cmd.fld c 0x28 8)
    exact (writeSpan_storesTo (.refl s) _ _ _ hpattern).of_bytes ((finishTo_sameBytes ..).trans (next_sameBytes (exec_fill h) ht))
  case copy => exact (copyOn_storesTo hs h).of_bytes (onQueue_inv ht)
  case timestamp =>
    exact (writeSpan_storesTo (.refl s) _ _ _ (toLE_length ..).le).of_bytes ((finishTo_sameBytes ..).trans (next_sameBytes (exec_timestamp h) ht))
  case create => exact OnlyWords2.of_bytes (createOn_stores hs h) (onQueue_inv ht)
  case descriptor =>
    simp only [List.mem_cons, Prod.mk.injEq, List.not_mem_nil, or_false] at hi
    rcases hi with ⟨rfl, rfl⟩ | ⟨rfl, rfl⟩
    · have hpark := onQueue_inv (f := parkOn q) ht
      rw [parkOn, ctxOp_eq h] at hpark
      exact OnlyWords.of_bytes (setCtx_dropFrame_stores ..) hpark
    · have hfree := onQueue_inv (f := freeOn q) ht
      rw [freeOn, ctxOp_eq h] at hfree
      exact OnlyWords.of_bytes (setCtx_dropFrame_stores ..) hfree
  case resident =>
    obtain ⟨u, harea, hbytes⟩ := makeResidentOn_bytes hs q
    exact SameBytes.areaOnly_bytes harea (hbytes.trans (onQueue_inv ht))
  case readState => exact (readStateOn_storesTo hs h).of_bytes (onQueue_inv ht)
  case writeState => exact OnlyWords2.of_bytes (writeStateOn_stores hs h) (onQueue_inv ht)
  case query =>
    have hquery := onQueue_inv (f := queryOn q) ht
    rw [queryOn, ctxOp_eq h] at hquery
    exact (writeSpan_storesTo (.refl s) _ _ _ (ctxBytes_length _).le).of_bytes ((finishTo_sameBytes ..).trans hquery)
  case others =>
    have hall : SameBytes s t := by
      simp only [List.mem_cons, List.not_mem_nil, or_false] at hi
      rcases hi with rfl | rfl | rfl | rfl | rfl
      · exact (nopOn_sameBytes q s).trans (onQueue_inv ht)
      · exact (execBufferOn_sameBytes q s).trans (onQueue_inv ht)
      · exact (releasePlanOn_sameBytes q s).trans (onQueue_inv ht)
      · exact (syncClearOn_sameBytes q s).trans (onQueue_inv ht)
      · exact (waitSatisfiedOn_sameBytes hs q).trans (onQueue_inv ht)
    exact ⟨hall.mem, hall.host⟩

end Sys2Proof.Machine

/-! # Channels in service and the interleave (O5 to O8)

Every row but TRAINING answers a state that `keep` made, which has the part and the retired channels of the state before; TRAINING retires
channels of the fit that were not retired, and refuses to go on when a half would lose more than two (R297).  The interleave of R286 has
`unplace` as its inverse. -/

namespace Sys2Proof.Machine

/-! ### What a row keeps -/

/-- A next state, if the row answers one, has the queue, the part and the retired channels of s. -/
structure KeepsPart (s : State) (r : Result) : Prop where
  inv : ∀ t, r = .next t → ∃ u, t = keep s u

theorem keepsPart_next (s u : State) : KeepsPart s (.next (keep s u)) := ⟨fun _ h => ⟨u, (Host.Outcome.next.inj h).symm⟩⟩

theorem keepsPart_ite {p : Prop} [Decidable p] {s : State} {r : Result} {f : Fault} (h : KeepsPart s r) :
    KeepsPart s (if p then r else .fault f) := by
  split
  · exact h
  · exact ⟨fun _ h => by simp at h⟩

/-- A row that checks one operand and then takes effect. -/
theorem keepsPart_guard {p : Prop} [Decidable p] {s u : State} {f : Fault} : KeepsPart s (if p then .next (keep s u) else .fault f) :=
  keepsPart_ite (keepsPart_next s u)

theorem keepsPart_commit (fn : Nat) (management : Bool) (s : State) : KeepsPart s (execCommit fn management s) := by
  cases management <;> exact keepsPart_guard

theorem keepsPart_present (fn : Nat) (mctp : Option (List Byte)) (s : State) : KeepsPart s (execPresent fn mctp s) := by
  cases mctp <;> exact keepsPart_guard

theorem keepsPart_plRselSeqWrite (reader : LogReader) (seq : U32) (bad : Bool) (s : State) :
    KeepsPart s (execPlRselSeqWrite reader seq bad s) := by
  cases reader <;> exact keepsPart_guard

theorem keepsPart_plLatchDone (reader : LogReader) (s : State) : KeepsPart s (execPlLatchDone reader s) := by
  cases reader <;> exact keepsPart_guard

/-- No command but TRAINING changes the part or the retired channels. -/
theorem exec_keepsPart {i : Instr} (hi : ∀ failed, i ≠ .training failed) (s : State) : KeepsPart s (exec i s) := by
  cases i with
  | training failed => exact absurd rfl (hi failed)
  | rngBlockComplete | rngTestFail | rngRestartDone | memRead | memWrite | rowRepair | ppRampDone | beatWindow | powerSample | rhoCorrection
  | thermalPacingStep | parkDone | unparkDone | d3hotEntry | d3hotExit | timerTrim | twilightTargetAccess | linkUp | linkReplay | l1Entry
  | l1Exit | l0pWidthChange | hotReset | perstAssert | perstDeassert | boot | identity | selftest | calibration | meminit | rngTest | ready
  | mainLost | mainPowerReturn | auxPowerOn | auxLost | thermtrip | firmwareUpdate | seSelftestDone | unlockTokenChecked | pldmEffecterSet
  | pldmSensorRead | surfaceFlush | stormSummary | lifetimeFlush | lifetimeMinute => exact keepsPart_next ..
  | mcInjectWrite | constellationWrite | constellationRead => exact keepsPart_ite keepsPart_guard
  | commit => exact keepsPart_commit ..
  | present => exact keepsPart_present ..
  | plRselSeqWrite => exact keepsPart_plRselSeqWrite ..
  | plLatchDone => exact keepsPart_plLatchDone ..
  | _ => exact keepsPart_guard

/-! ### TRAINING (R297) -/

theorem OnlyMemory.retired {s t : State} (h : OnlyMemory s t) : t.flash.retired = s.flash.retired := h.seals.2.1

theorem endPhase_only (s : State) (n : Nat) : OnlyRegs s (endPhase s n) := (setFld_only ..).trans (setFld_only ..)

theorem failPhase_only (s : State) (cause : Nat) : OnlyMemory s (failPhase s cause) :=
  ((setFld_only ..).trans ((setFld_only ..).trans (setFld_only ..))).memory.trans ((logEvent_only ..).trans (lastWord_only ..))

theorem setChannels_only (s : State) (east : Bool) (v : Nat) : OnlyRegs s (setChannels s east v) := by
  refine List.foldlRecOn _ _ (.refl s) (fun t ht c _ => ?_)
  split
  · exact ht
  · exact ht.trans (setFld_only ..)

theorem repairHard_only (s : State) (e : Nat × Nat) : OnlyMemory s (repairHard s e) := by
  unfold repairHard
  split
  · exact .refl s
  · exact (setFld_only ..).memory.trans (logEvent_only ..)

theorem retireChannels_retired (s : State) (new : List Nat) : (retireChannels s new).flash.retired = s.flash.retired ++ new := by
  unfold retireChannels
  split
  · next h => rw [List.isEmpty_iff.1 h, List.append_nil]
  · exact (raiseReplace_only _ 2).retired

/-- Channels of the fit that are not retired yet, by a condition of TRAINING's. -/
def retirable (p : Part) (l : List Nat) (why : Nat → Bool) : List Nat :=
  (List.range 48).filter (fun c => decide (c < physChannels p) && !l.contains c && why c)

theorem retirable_mem {p : Part} {l : List Nat} {why : Nat → Bool} {c : Nat} (h : c ∈ retirable p l why) : c < physChannels p ∧ c ∉ l := by
  obtain ⟨-, hc⟩ := List.mem_filter.1 h
  simp only [Bool.and_eq_true, decide_eq_true_eq, Bool.not_eq_true', List.contains_eq_mem, decide_eq_false_iff_not] at hc
  exact hc.1

/-- More channels are retired without breaking the invariant as long as no half loses more than two. -/
theorem retiredOk_append_retirable {p : Part} {l : List Nat} {why : Nat → Bool} (h : RetiredOk p l)
    (hw : ((l ++ retirable p l why).filter (westPhys p)).length ≤ 2)
    (he : ((l ++ retirable p l why).filter (fun c => !westPhys p c)).length ≤ 2) : RetiredOk p (l ++ retirable p l why) := by
  obtain ⟨hnodup, hfit, -, -⟩ := h
  have hnew : (retirable p l why).Nodup := List.nodup_range.filter _
  refine ⟨List.nodup_append'.2 ⟨hnodup, hnew, fun c hl hc => (retirable_mem hc).2 hl⟩, fun c hc => ?_, hw, he⟩
  rcases List.mem_append.1 hc with hl | hn
  · exact hfit c hl
  · exact (retirable_mem hn).1

/-- TRAINING leaves the retired channels, or adds some that it may add. -/
theorem trainingOn_retired (failed : List Nat) (s : State) (h : ChannelInv s) : RetiredOk s.part (trainingOn failed s).flash.retired := by
  have hlogs : ∀ l : List Nat, OnlyMemory s (l.foldl (fun s c => logEvent s (blockId 0x20 c c) 0x104 noFn (toLE 1 c ++ [Config.logCode 5])) s) :=
    fun l => List.foldlRecOn l _ (.refl s) (fun t ht c _ => ht.trans (logEvent_only ..))
  unfold trainingOn inPhase
  split
  case isFalse => exact h
  case isTrue =>
    beta_reduce
    extract_lets fit lost s1 new all f2 s2 s3 s4 f5 s5
    have h1 : OnlyMemory s s1 := hlogs lost
    clear_value s1
    have hall : all = s.flash.retired ++ retirable s.part s.flash.retired (fun c => failed.contains c || s1.flash.retireMarks.contains c) := by
      unfold all
      rw [h1.retired]
      rfl
    have hpart : s2.part = s.part := h1.seals.1
    have h2 : s2.flash.retired = s.flash.retired := h1.retired
    split
    · rw [(failPhase_only s2 5).retired, h2]
      exact h
    · next hfew =>
      have h4 : OnlyMemory s3 s4 := List.foldlRecOn _ _ (.refl s3) (fun t ht e _ => ht.trans (repairHard_only t e))
      have h5 : OnlyMemory s5 (endPhase (setChannels s5 false 0) 4) := ((setChannels_only ..).trans (endPhase_only ..)).memory
      have hretired : (endPhase (setChannels s5 false 0) 4).flash.retired = all := by
        rw [h5.retired]
        exact h4.retired.trans ((retireChannels_retired s2 new).trans (by rw [h2, ← h1.retired]))
      rw [hretired, hall]
      rw [hall, hpart, not_or, Nat.not_lt, Nat.not_lt] at hfew
      exact retiredOk_append_retirable h hfew.1 hfew.2

/-- Settles O6: the rows keep part and retired channels (`exec_keepsPart`), and TRAINING adds to them within R297's limits. -/
theorem stepKeepsInv : Obligations.StepKeepsInv := by
  unfold Obligations.StepKeepsInv
  intro s t hs hstep
  unfold step at hstep
  split at hstep
  · cases hstep
    have htick : (tickUs s).part = s.part ∧ (tickUs s).flash = s.flash := by
      unfold tickUs
      extract_lets u
      split
      · exact ⟨rfl, rfl⟩
      · split <;> exact ⟨rfl, rfl⟩
    unfold ChannelInv
    rw [htick.1, htick.2]
    exact hs
  · next c r _ =>
    have hrest : ChannelInv { s with pending := r } := hs
    by_cases hc : ∃ failed, c = .training failed
    · obtain ⟨failed, rfl⟩ := hc
      cases hstep
      exact trainingOn_retired failed _ hrest
    · obtain ⟨u, rfl⟩ := (exec_keepsPart (fun failed h => hc ⟨failed, h⟩) _).inv t hstep
      exact hrest

/-! ### The channels in service (R284, R287) -/

/-- Settles O5: reset retires no channel. -/
theorem resetInv : Obligations.ResetInv := by
  unfold Obligations.ResetInv ChannelInv RetiredOk
  exact ⟨List.nodup_nil, nofun, by decide, by decide⟩

theorem physChannels_cases (p : Part) : physChannels p = 48 ∨ physChannels p = 24 := by cases p <;> decide

theorem channels_le (s : State) : channels s ≤ 48 := by
  have := physChannels_cases s.part
  unfold channels
  omega

/-- The channels that are not retired are as many as the fit has beyond the retired ones. -/
theorem channelMap_length {s : State} (h : ChannelInv s) : (channelMap s).length = channels s := by
  obtain ⟨hnodup, hfit, -, -⟩ := h
  have hsplit := List.length_eq_length_filter_add (l := List.range (physChannels s.part)) (fun c => s.flash.retired.contains c)
  have hperm : ((List.range (physChannels s.part)).filter (fun c => s.flash.retired.contains c)).Perm s.flash.retired := by
    refine (List.perm_ext_iff_of_nodup (List.nodup_range.filter _) hnodup).2 (fun c => ?_)
    simp only [List.mem_filter, List.mem_range, List.contains_eq_mem, decide_eq_true_eq, and_iff_right_iff_imp]
    exact hfit c
  rw [List.length_range, hperm.length_eq] at hsplit
  unfold channels channelMap
  omega

/-- Settles O7: at most four channels are retired, so that C is at least 20. -/
theorem channelsInService : Obligations.ChannelsInService := by
  unfold Obligations.ChannelsInService
  intro s hs
  have hfew : s.flash.retired.length ≤ 4 := by
    obtain ⟨-, -, hw, he⟩ := hs
    have := List.length_eq_length_filter_add (l := s.flash.retired) (westPhys s.part)
    omega
  have hphys := physChannels_cases s.part
  have hc : channels s = physChannels s.part - s.flash.retired.length := rfl
  refine ⟨channelMap_length hs, by omega, ?_, ?_⟩
  · unfold capacity GiB
    omega
  · unfold firmwareArea capacity GiB
    omega

/-! ### The interleave (R286) -/

/-- The pseudocode of R286 shifts where `place` divides. -/
theorem place_shifts (c a : Nat) : place a c =
    (let q := a >>> 8 / c
     ((a >>> 8 % c + (q + q >>> 6 + q >>> 12 + q >>> 18 + q >>> 24) % c) % c, q <<< 8 ||| (a &&& 0xFF))) := by
  have hlow : a &&& 0xFF = a % 256 := Nat.and_two_pow_sub_one_eq_mod a 8
  have hword : ∀ q, q <<< 8 ||| a % 256 = q * 256 + a % 256 := fun q =>
    (Nat.shiftLeft_add_eq_or_of_lt (Nat.mod_lt a (by decide)) q).symm.trans (by rw [Nat.shiftLeft_eq])
  unfold place
  rw [hlow]
  dsimp only
  rw [hword]
  simp only [Nat.shiftRight_eq_div_pow]

/-- A sum modulo c has one solution below c. -/
theorem rotate_unrotate {c ch f : Nat} (hch : ch < c) (hf : f < c) : ((ch + c - f) % c + f) % c = ch := by
  rw [Nat.mod_add_mod, Nat.sub_add_cancel (by omega), Nat.add_mod_right, Nat.mod_eq_of_lt hch]

/-- The rotation that R286 adds to the channel of granule row q. -/
def spread (q c : Nat) : Nat := (q + q / 2 ^ 6 + q / 2 ^ 12 + q / 2 ^ 18 + q / 2 ^ 24) % c

theorem place_eq (a c : Nat) : place a c = ((a / 256 % c + spread (a / 256 / c) c) % c, a / 256 / c * 256 + a % 256) := rfl

theorem unplace_eq (ch o c : Nat) : unplace ch o c = (o / 256 * c + (ch + c - spread (o / 256) c) % c) * 256 + o % 256 := rfl

theorem place_lt {c a : Nat} (hc : 0 < c) (ha : a < c * 18 * 2 ^ 30) : (place a c).1 < c ∧ (place a c).2 < 18 * 2 ^ 30 := by
  rw [place_eq]
  refine ⟨Nat.mod_lt _ hc, ?_⟩
  have hq : a / 256 / c < 18 * 2 ^ 22 := by
    rw [Nat.div_div_eq_div_mul]
    refine Nat.div_lt_of_lt_mul ?_
    calc a < c * 18 * 2 ^ 30 := ha
      _ = 256 * c * (18 * 2 ^ 22) := by ring
  show a / 256 / c * 256 + a % 256 < 18 * 2 ^ 30
  omega

theorem place_injective {c a b : Nat} (hc : 0 < c) (h : place a c = place b c) : a = b := by
  rw [place_eq, place_eq, Prod.mk.injEq] at h
  obtain ⟨hch, ho⟩ := h
  have hq : a / 256 / c = b / 256 / c := by omega
  have hlow : a % 256 = b % 256 := by omega
  have hr : a / 256 % c = b / 256 % c := by
    rw [hq] at hch
    have hmod : a / 256 % c ≡ b / 256 % c [MOD c] := Nat.ModEq.add_right_cancel' _ hch
    exact hmod.eq_of_lt_of_lt (Nat.mod_lt _ hc) (Nat.mod_lt _ hc)
  have hg : a / 256 = b / 256 := by rw [← Nat.div_add_mod (a / 256) c, ← Nat.div_add_mod (b / 256) c, hq, hr]
  omega

theorem place_unplace {c ch o : Nat} (hch : ch < c) : place (unplace ch o c) c = (ch, o) := by
  have hc : 0 < c := by omega
  have hf : spread (o / 256) c < c := Nat.mod_lt _ hc
  have hr : (ch + c - spread (o / 256) c) % c < c := Nat.mod_lt _ hc
  rw [place_eq, unplace_eq]
  have hlow := Nat.mod_lt o (show 0 < 256 by decide)
  generalize hrow : (ch + c - spread (o / 256) c) % c = r at hr
  have hg : ((o / 256 * c + r) * 256 + o % 256) / 256 = c * (o / 256) + r := by rw [Nat.mul_comm c]; omega
  have ho : ((o / 256 * c + r) * 256 + o % 256) % 256 = o % 256 := by omega
  rw [hg, ho, Nat.mul_add_div hc, Nat.div_eq_of_lt hr, Nat.add_zero, Nat.mul_add_mod, Nat.mod_eq_of_lt hr, ← hrow, rotate_unrotate hch hf]
  exact congrArg _ (by omega)

theorem unplace_lt {c ch o : Nat} (hch : ch < c) (ho : o < 18 * 2 ^ 30) : unplace ch o c < c * 18 * 2 ^ 30 := by
  have hr : (ch + c - spread (o / 256) c) % c < c := Nat.mod_lt _ (by omega)
  rw [unplace_eq]
  generalize (ch + c - spread (o / 256) c) % c = r at hr
  have hq : o / 256 + 1 ≤ 18 * 2 ^ 22 := by omega
  have hrows : (o / 256 + 1) * c ≤ 18 * 2 ^ 22 * c := Nat.mul_le_mul_right c hq
  rw [Nat.add_mul, Nat.one_mul] at hrows
  omega

/-- Settles O8: `place` is R286's pseudocode, and `unplace` undoes it. -/
theorem placeBijective : Obligations.PlaceBijective := by
  unfold Obligations.PlaceBijective
  exact ⟨place_shifts, fun c a => place_lt, fun c a b => place_injective, fun c ch o hch => ⟨place_unplace hch, unplace_lt hch⟩⟩

end Sys2Proof.Machine

/-! # The SK256 code (O40)

Multiplication by α is linear and injective, and no power of it below the 36th fixes a nonzero symbol.  With that the three syndromes of a
word as stored are 0, an error in one symbol leaves the pattern of its position, and errors in two symbols leave the pattern of none (R288,
R290). -/

namespace Sys2Proof.Machine

/-! ### Sums of symbols -/

theorem xor_left_comm (a b c : Byte) : a ^^^ (b ^^^ c) = b ^^^ (a ^^^ c) := by ac_rfl

theorem xor_eq_zero {a b : Byte} : a ^^^ b = 0 ↔ a = b := BitVec.xor_eq_zero_iff

/-! ### Multiplication by powers of α -/

theorem gfDouble_xor (a b : Byte) : gfDouble (a ^^^ b) = gfDouble a ^^^ gfDouble b := by
  unfold gfDouble
  rw [BitVec.msb_xor, BitVec.shiftLeft_xor_distrib]
  cases a.msb <;> cases b.msb <;>
    simp [BitVec.xor_assoc, BitVec.xor_comm, xor_left_comm]

theorem gfDouble_eq_zero : ∀ a : Byte, gfDouble a = 0 → a = 0 := by decide

@[simp] theorem gfShift_zero (a : Byte) : gfShift a 0 = a := rfl

theorem gfShift_xor (a b : Byte) (n : Nat) : gfShift (a ^^^ b) n = gfShift a n ^^^ gfShift b n := by
  induction n generalizing a b with
  | zero => rfl
  | succ n ih => simp only [gfShift, gfDouble_xor, ih]

@[simp] theorem gfShift_zero_left (n : Nat) : gfShift 0 n = 0 := by
  induction n with
  | zero => rfl
  | succ n ih => exact ih

theorem gfShift_add (a : Byte) (m n : Nat) : gfShift a (m + n) = gfShift (gfShift a m) n := by
  induction m generalizing a with
  | zero => rw [Nat.zero_add]; rfl
  | succ m ih => rw [Nat.add_right_comm]; exact ih (gfDouble a)

theorem gfShift_comm (a : Byte) (m n : Nat) : gfShift (gfShift a m) n = gfShift (gfShift a n) m := by
  rw [← gfShift_add, ← gfShift_add, Nat.add_comm]

theorem gfShift_eq_zero {a : Byte} {n : Nat} : gfShift a n = 0 ↔ a = 0 := by
  refine ⟨fun h => ?_, fun h => h ▸ gfShift_zero_left n⟩
  induction n generalizing a with
  | zero => exact h
  | succ n ih => exact gfDouble_eq_zero a (ih h)

theorem gfShift_injective {a b : Byte} {n : Nat} (h : gfShift a n = gfShift b n) : a = b := by
  rw [← xor_eq_zero, ← gfShift_xor, gfShift_eq_zero, xor_eq_zero] at h
  exact h

/-- No power of α from the first to the 35th fixes a nonzero symbol: α is of higher order. -/
theorem eq_zero_of_gfShift_fixed : ∀ a : Byte, ∀ k < 36, 0 < k → gfShift a k = a → a = 0 := by decide +kernel

theorem eq_zero_of_gfShift_eq {a : Byte} {p q : Nat} (hp : p < 36) (hq : q < 36) (hne : p ≠ q) (h : gfShift a p = gfShift a q) : a = 0 := by
  have lower : ∀ {m n}, n < 36 → m < n → gfShift a m = gfShift a n → a = 0 := by
    intro m n hn hmn heq
    obtain ⟨k, rfl⟩ := Nat.exists_eq_add_of_le hmn.le
    rw [Nat.add_comm, gfShift_add] at heq
    exact eq_zero_of_gfShift_fixed a k (by omega) (by omega) (gfShift_injective heq).symm
  rcases Nat.lt_or_gt_of_ne hne with hlt | hgt
  · exact lower hq hlt h
  · exact lower hp hgt h.symm

/-! ### Syndromes -/

theorem syndrome_eq_foldr (k : Nat) (c : List Byte) : syndrome k c = c.foldr (fun x acc => gfShift acc k ^^^ x) 0 := List.foldl_reverse ..

theorem syndrome_cons (k : Nat) (x : Byte) (c : List Byte) : syndrome k (x :: c) = gfShift (syndrome k c) k ^^^ x := by
  simp only [syndrome_eq_foldr, List.foldr_cons]

/-- The value at α^k of the polynomial of the check symbols. -/
def checkValue (k : Nat) (c : Byte × Byte × Byte) : Byte := c.1 ^^^ gfShift c.2.1 k ^^^ gfShift c.2.2 (2 * k)

/-- g(x) = x³ + 0x07 x² + 0x0E x + 0x08 is 0 at 1, α and α². -/
theorem generator_root {k : Nat} (hk : k < 3) (t : Byte) :
    gfShift t (3 * k) = checkValue k (gfShift t 3, gfShift t 3 ^^^ gfShift t 2 ^^^ gfShift t 1, gfShift t 2 ^^^ gfShift t 1 ^^^ t) := by
  unfold checkValue
  simp only [gfShift_xor, ← gfShift_add]
  interval_cases k <;>
    simp [BitVec.xor_assoc, BitVec.xor_comm, xor_left_comm]

/-- The remainder is the value of the symbols times α^3k: dividing by g changes nothing at its roots. -/
theorem checkValue_skRemainder {k : Nat} (hk : k < 3) (l : List Byte) (acc : Byte) (c : Byte × Byte × Byte)
    (h : gfShift acc (3 * k) = checkValue k c) :
    gfShift (l.foldl (fun acc x => gfShift acc k ^^^ x) acc) (3 * k) = checkValue k (skRemainder l c) := by
  induction l generalizing acc c with
  | nil => exact h
  | cons d l ih =>
    obtain ⟨c0, c1, c2⟩ := c
    refine ih _ _ ?_
    have hroot := generator_root hk (d ^^^ c2)
    have hacc : gfShift (gfShift acc k) (3 * k) = gfShift c0 k ^^^ gfShift c1 (2 * k) ^^^ gfShift c2 (3 * k) := by
      rw [gfShift_comm, h]
      simp only [checkValue, gfShift_xor, ← gfShift_add]
      rw [show k + k = 2 * k by omega, show 2 * k + k = 3 * k by omega]
    rw [gfShift_xor, hacc]
    rw [gfShift_xor] at hroot
    simp only [checkValue, gfShift_xor, gfShift, BitVec.xor_assoc] at hroot ⊢
    rw [BitVec.xor_comm (gfShift c2 (3 * k)), hroot]
    ac_rfl

theorem syndrome_encodeWord {k : Nat} (hk : k < 3) (d : List Byte) (md : Byte) : syndrome k (encodeWord d md) = 0 := by
  have h := checkValue_skRemainder hk (md :: d.reverse) 0 (0, 0, 0) (by simp only [checkValue, gfShift_zero_left]; rfl)
  have hfold : (md :: d.reverse).foldl (fun acc x => gfShift acc k ^^^ x) 0 = syndrome k (d ++ [md]) := by
    unfold syndrome
    rw [List.reverse_append]
    rfl
  rw [hfold] at h
  unfold encodeWord
  generalize skRemainder (md :: d.reverse) (0, 0, 0) = c at h
  obtain ⟨c0, c1, c2⟩ := c
  simp only [syndrome_cons, gfShift_xor, ← gfShift_add]
  rw [show k + k + k = 3 * k by omega, show k + k = 2 * k by omega, h]
  simp [checkValue, BitVec.xor_assoc, BitVec.xor_comm, xor_left_comm]

theorem encodeWord_length {d : List Byte} (hd : d.length = 32) (md : Byte) : (encodeWord d md).length = 36 := by
  simp [encodeWord, hd]

/-! ### Errors -/

/-- A word with the symbol at position p changed by v. -/
def spoil (p : Nat) (v : Byte) (c : List Byte) : List Byte := c.mapIdx (fun i x => if i = p then x ^^^ v else x)

@[simp] theorem spoil_length (p : Nat) (v : Byte) (c : List Byte) : (spoil p v c).length = c.length := List.length_mapIdx ..

theorem syndrome_spoil (k : Nat) {p : Nat} (v : Byte) {c : List Byte} (hp : p < c.length) :
    syndrome k (spoil p v c) = syndrome k c ^^^ gfShift v (k * p) := by
  induction c generalizing p with
  | nil => exact absurd hp (Nat.not_lt_zero p)
  | cons x c ih =>
    unfold spoil
    rw [List.mapIdx_cons]
    cases p with
    | zero =>
      have hrest : c.mapIdx (fun i x => if i + 1 = 0 then x ^^^ v else x) = c := by
        simp only [Nat.add_eq_zero_iff, one_ne_zero, and_false, if_false]
        exact List.ext_getElem (by simp) (fun i _ _ => by simp)
      rw [hrest, if_pos rfl, syndrome_cons, syndrome_cons, Nat.mul_zero, gfShift_zero, BitVec.xor_assoc]
    | succ p =>
      have hrest : c.mapIdx (fun i x => if i + 1 = p + 1 then x ^^^ v else x) = spoil p v c := by
        simp only [Nat.add_right_cancel_iff]
        rfl
      rw [hrest, if_neg (by omega), syndrome_cons, syndrome_cons, ih (Nat.lt_of_succ_lt_succ hp), gfShift_xor, ← gfShift_add, ← Nat.mul_succ]
      ac_rfl

/-- Errors in two symbols are two errors. -/
theorem spoil_spoil {p p' : Nat} (hne : p ≠ p') (v v' : Byte) (c : List Byte) :
    c.mapIdx (fun i x => if i = p then x ^^^ v else if i = p' then x ^^^ v' else x) = spoil p v (spoil p' v' c) := by
  unfold spoil
  rw [List.mapIdx_mapIdx]
  congr 1
  funext i x
  by_cases h : i = p
  · rw [if_pos h, Function.comp_apply, if_pos h, if_neg (h ▸ hne)]
  · rw [if_neg h, Function.comp_apply, if_neg h]

/-! ### What a read finds -/

theorem decodeWord_clean_iff (c : List Byte) : (syndrome 0 c = 0 ∧ syndrome 1 c = 0 ∧ syndrome 2 c = 0) ↔ decodeWord c = .clean := by
  unfold decodeWord
  dsimp only
  split
  · next h => simp [h]
  · next h =>
    simp only [h, false_iff]
    split
    · simp
    · split <;> simp

/-- A correction names a position of the word whose pattern the syndromes show. -/
theorem decodeWord_corrected {c : List Byte} {p : Nat} {v : Byte} (h : decodeWord c = .corrected p v) :
    p < c.length ∧ v = syndrome 0 c ∧ syndrome 0 c ≠ 0 ∧ syndrome 1 c = gfShift (syndrome 0 c) p ∧ syndrome 2 c = gfShift (syndrome 1 c) p := by
  unfold decodeWord at h
  dsimp only at h
  split at h
  · simp at h
  · split at h
    · simp at h
    · next hzero =>
      split at h
      · next q hq =>
        simp only [Decoded.corrected.injEq] at h
        obtain ⟨rfl, rfl⟩ := h
        obtain ⟨hmatch, hrange, -⟩ := List.find?_range_eq_some.1 hq
        simp only [Bool.and_eq_true, beq_iff_eq] at hmatch
        rw [not_or] at hzero
        exact ⟨List.mem_range.1 hrange, rfl, hzero.1, hmatch.1.symm, hmatch.2.symm⟩
      · simp at h

/-- The position is found where the syndromes show its pattern: a pattern below 36 positions is of one position only. -/
theorem decodeWord_of_pattern {c : List Byte} {p : Nat} (hp : p < c.length) (hlen : c.length ≤ 36) (h0 : syndrome 0 c ≠ 0)
    (h1 : syndrome 1 c = gfShift (syndrome 0 c) p) (h2 : syndrome 2 c = gfShift (syndrome 1 c) p) :
    decodeWord c = .corrected p (syndrome 0 c) := by
  have h1' : syndrome 1 c ≠ 0 := by rw [h1, Ne, gfShift_eq_zero]; exact h0
  have h2' : syndrome 2 c ≠ 0 := by rw [h2, Ne, gfShift_eq_zero]; exact h1'
  have hfind : (List.range c.length).find? (fun q => gfShift (syndrome 0 c) q == syndrome 1 c && gfShift (syndrome 1 c) q == syndrome 2 c) = some p := by
    refine List.find?_range_eq_some.2 ⟨by simp [h1.symm, h2.symm], List.mem_range.2 hp, fun q hq => ?_⟩
    have hother : gfShift (syndrome 0 c) q ≠ syndrome 1 c := fun h =>
      h0 (eq_zero_of_gfShift_eq (by omega) (by omega) (by omega) (h.trans h1))
    simp [hother]
  unfold decodeWord
  dsimp only
  rw [if_neg (fun h => h0 h.1), if_neg (by rw [not_or, not_or]; exact ⟨h0, h1', h2'⟩), hfind]

theorem decodeWord_encodeWord (d : List Byte) (md : Byte) : decodeWord (encodeWord d md) = .clean :=
  (decodeWord_clean_iff _).1 ⟨syndrome_encodeWord (by decide) d md, syndrome_encodeWord (by decide) d md, syndrome_encodeWord (by decide) d md⟩

/-- The syndromes of a codeword with one symbol changed. -/
theorem syndrome_spoil_encodeWord {k : Nat} (hk : k < 3) {d : List Byte} (hd : d.length = 32) (md v : Byte) {p : Nat} (hp : p < 36) :
    syndrome k (spoil p v (encodeWord d md)) = gfShift v (k * p) := by
  rw [syndrome_spoil k v (by rw [encodeWord_length hd]; exact hp), syndrome_encodeWord hk]
  exact BitVec.zero_xor

theorem decodeWord_spoil {d : List Byte} (hd : d.length = 32) (md : Byte) {v : Byte} {p : Nat} (hp : p < 36) (hv : v ≠ 0) :
    decodeWord (spoil p v (encodeWord d md)) = .corrected p v := by
  have h0 : syndrome 0 (spoil p v (encodeWord d md)) = v := by
    rw [syndrome_spoil_encodeWord (by decide) hd md v hp, Nat.zero_mul, gfShift_zero]
  have h1 := syndrome_spoil_encodeWord (k := 1) (by decide) hd md v hp
  have h2 := syndrome_spoil_encodeWord (k := 2) (by decide) hd md v hp
  rw [Nat.one_mul] at h1
  rw [Nat.two_mul, gfShift_add, ← h1] at h2
  have hlen : (spoil p v (encodeWord d md)).length = 36 := by rw [spoil_length, encodeWord_length hd]
  have h := decodeWord_of_pattern (hlen ▸ hp) hlen.le (h0.symm ▸ hv) (by rw [h0, h1]) h2
  rwa [h0] at h

/-- Errors in two symbols leave the pattern of no position: at positions p and p' both v and v' would be the error of position q, which
is neither or only one of them. -/
theorem no_pattern_of_two {v v' : Byte} {p p' q : Nat} (hp : p < 36) (hp' : p' < 36) (hq : q < 36) (hne : p ≠ p') (hv : v ≠ 0) (hv' : v' ≠ 0)
    (h1 : gfShift v p ^^^ gfShift v' p' = gfShift (v ^^^ v') q)
    (h2 : gfShift (gfShift v p) p ^^^ gfShift (gfShift v' p') p' = gfShift (gfShift v p ^^^ gfShift v' p') q) : False := by
  -- what position p's share misses of the pattern of q is what that of p' misses
  have hmiss : gfShift v p ^^^ gfShift v q = gfShift v' p' ^^^ gfShift v' q := by
    rw [gfShift_xor] at h1
    rw [← xor_eq_zero]
    calc gfShift v p ^^^ gfShift v q ^^^ (gfShift v' p' ^^^ gfShift v' q)
        = (gfShift v p ^^^ gfShift v' p') ^^^ (gfShift v q ^^^ gfShift v' q) := by ac_rfl
      _ = 0 := xor_eq_zero.2 h1
  have hmiss2 : gfShift (gfShift v p ^^^ gfShift v q) p = gfShift (gfShift v p ^^^ gfShift v q) p' := by
    conv_rhs => rw [hmiss]
    rw [gfShift_xor] at h2
    rw [gfShift_xor, gfShift_xor, gfShift_comm v q, gfShift_comm v' q, ← xor_eq_zero]
    calc gfShift (gfShift v p) p ^^^ gfShift (gfShift v p) q ^^^ (gfShift (gfShift v' p') p' ^^^ gfShift (gfShift v' p') q)
        = (gfShift (gfShift v p) p ^^^ gfShift (gfShift v' p') p') ^^^ (gfShift (gfShift v p) q ^^^ gfShift (gfShift v' p') q) := by ac_rfl
      _ = 0 := xor_eq_zero.2 h2
  have hzero := eq_zero_of_gfShift_eq hp hp' hne hmiss2
  have hpq : p = q := by
    by_contra hpq
    exact hv (eq_zero_of_gfShift_eq hp hq hpq (xor_eq_zero.1 hzero))
  have hpq' : p' = q := by
    by_contra hpq'
    exact hv' (eq_zero_of_gfShift_eq hp' hq hpq' (xor_eq_zero.1 (hmiss.symm.trans hzero)))
  exact hne (hpq.trans hpq'.symm)

theorem decodeWord_of_two_spoils {d : List Byte} (hd : d.length = 32) (md : Byte) {v v' : Byte} {p p' : Nat} (hp : p < 36) (hp' : p' < 36)
    (hne : p ≠ p') (hv : v ≠ 0) (hv' : v' ≠ 0) :
    decodeWord (spoil p v (spoil p' v' (encodeWord d md))) = .uncorrectable (v ^^^ v') := by
  have hlen : (spoil p v (spoil p' v' (encodeWord d md))).length = 36 := by rw [spoil_length, spoil_length, encodeWord_length hd]
  have hS : ∀ k < 3, syndrome k (spoil p v (spoil p' v' (encodeWord d md))) = gfShift v (k * p) ^^^ gfShift v' (k * p') := by
    intro k hk
    rw [syndrome_spoil k v (by rw [spoil_length, encodeWord_length hd]; exact hp), syndrome_spoil_encodeWord hk hd md v' hp', BitVec.xor_comm]
  have h0 := hS 0 (by decide)
  have h1 := hS 1 (by decide)
  have h2 := hS 2 (by decide)
  rw [Nat.zero_mul, Nat.zero_mul, gfShift_zero, gfShift_zero] at h0
  rw [Nat.one_mul, Nat.one_mul] at h1
  rw [Nat.two_mul, Nat.two_mul, gfShift_add, gfShift_add] at h2
  cases hdec : decodeWord (spoil p v (spoil p' v' (encodeWord d md))) with
  | clean =>
    obtain ⟨z0, z1, -⟩ := (decodeWord_clean_iff _).2 hdec
    rw [h0, xor_eq_zero] at z0
    rw [h1, ← z0, xor_eq_zero] at z1
    exact absurd (eq_zero_of_gfShift_eq hp hp' hne z1) hv
  | corrected q u =>
    obtain ⟨hq, -, -, e1, e2⟩ := decodeWord_corrected hdec
    rw [hlen] at hq
    rw [h0, h1] at e1
    rw [h1, h2] at e2
    exact (no_pattern_of_two hp hp' hq hne hv hv' e1 e2).elim
  | uncorrectable u =>
    refine congrArg _ (Eq.trans ?_ h0)
    unfold decodeWord at hdec
    dsimp only at hdec
    split at hdec
    · simp at hdec
    · split at hdec
      · simpa using hdec.symm
      · split at hdec
        · simp at hdec
        · simpa using hdec.symm

end Sys2Proof.Machine

/-! # What a read of a struck word counts (O40)

A corrected read adds one to ERR_CNT_CE of its channel's page; nothing else that it does writes that register (R293, R445). -/

namespace Sys2Proof.Machine

/-! ### Registers as the physical function reads them -/

/-- The copy that the physical function reads is the one that its writes store. -/
theorem getReg_setReg_zero (s : State) (a v b : Nat) : getReg (setReg s 0 a v) 0 b = if b = a then v % 2 ^ 32 else getReg s 0 b := by
  by_cases h : isPerFn a = true
  · unfold getReg setReg
    rw [if_pos h]
    by_cases hb : b = a
    · subst hb
      simp [h]
    · rw [if_neg hb]
      split
      · rw [tget_tset_ne _ _ _ (by omega)]
      · rfl
  · rw [getReg_setReg (Bool.eq_false_iff.2 h)]

theorem getReg_congr {s t : State} (h : t.regs = s.regs) (h' : t.fnRegs = s.fnRegs) (fn a : Nat) : getReg t fn a = getReg s fn a := by
  unfold getReg
  rw [h, h']

theorem getReg_set64_ne {s : State} {a b v : Nat} (h : b ≠ a) (h' : b ≠ a + 4) : getReg (set64 s a v) 0 b = getReg s 0 b := by
  unfold set64
  rw [getReg_setReg_zero, if_neg h', getReg_setReg_zero, if_neg h]

/-- Registers at different offsets of their pages are different. -/
theorem reg_ne_of_offset {p q o o' : Nat} (h : o % 4096 ≠ o' % 4096) : reg p o ≠ reg q o' := by
  unfold reg
  omega

/-! ### Error counts (R445) -/

/-- Of the registers a vector changes only PX_MSIX's count of vectors beyond the table. -/
theorem getReg_raiseVector {s : State} {fn v a : Nat} (ha : a ≠ reg 3500 0x6C) : getReg (raiseVector s fn v) 0 a = getReg s 0 a := by
  unfold raiseVector
  split
  · unfold addCount
    rw [getReg_setReg_zero, if_neg ha]
  · split
    · unfold sendMsg
      split <;> rfl
    · rfl

theorem getReg_pageEdges {before s : State} {page a : Nat} (ha : a ≠ reg 3500 0x6C) : getReg (pageEdges before s page) 0 a = getReg s 0 a := by
  unfold pageEdges
  refine List.foldlRecOn (motive := fun t => getReg t 0 a = getReg s 0 a) _ _ rfl (fun t ht fn _ => ?_)
  split
  · rw [getReg_raiseVector ha, ht]
  · exact ht

theorem getReg_setErrStat {s : State} {page m a : Nat} (ha : a ≠ reg 3500 0x6C) (ha' : a ≠ reg page 0x18) :
    getReg (setErrStat s page m) 0 a = getReg s 0 a := by
  unfold setErrStat setHeader
  rw [getReg_pageEdges ha, getReg_setReg_zero, if_neg ha']

theorem getReg_countCE (s : State) (page : Nat) :
    getReg (countCE s page) 0 (reg page 0x20) = min (getReg s 0 (reg page 0x20) + 1) (2 ^ 32 - 1) := by
  unfold countCE addSat satAdd
  rw [getReg_setErrStat (reg_ne_of_offset (by decide)) (reg_ne_of_offset (by decide)), getReg_setReg_zero, if_pos rfl]
  exact Nat.mod_eq_of_lt (by omega)

/-- An uncorrectable error is not counted among the corrected ones. -/
theorem getReg_countUE (s : State) (page q : Nat) : getReg (countUE s page) 0 (reg q 0x20) = getReg s 0 (reg q 0x20) := by
  unfold countUE addSat
  rw [getReg_setErrStat (reg_ne_of_offset (by decide)) (reg_ne_of_offset (by decide)), getReg_setReg_zero,
    if_neg (reg_ne_of_offset (by decide))]

theorem getReg_setErrInfo (s : State) (ch w pos : Nat) (ue scrub : Bool) (s0 : Byte) (q : Nat) :
    getReg (setErrInfo s ch w pos ue scrub s0) 0 (reg q 0x20) = getReg s 0 (reg q 0x20) := by
  unfold setErrInfo
  dsimp only
  rw [getReg_set64_ne (reg_ne_of_offset (by decide)) (by unfold reg; omega), getReg_setReg_zero, if_neg (reg_ne_of_offset (by decide))]

theorem getReg_markRowFaulty (s : State) (k fn a : Nat) : getReg (markRowFaulty s k) fn a = getReg s fn a := by
  unfold markRowFaulty
  split <;> rfl

/-! ### A corrected read -/

theorem putWord_frame (s : State) (w : Nat) (d : List Byte) (poison : Bool) :
    ∃ m g e, putWord s w d poison = { s with mem := m, memMeta := g, memErr := e } := ⟨_, _, _, rfl⟩

theorem settleWord_frame (s : State) (w : Nat) (fix : Option (Nat × Byte)) :
    ∃ m g e, settleWord s w fix = { s with mem := m, memMeta := g, memErr := e } := by
  unfold settleWord
  extract_lets c c' d m same d'
  exact ⟨_, _, _, rfl⟩

theorem poisonWord_frame (s : State) (w : Nat) :
    ∃ m g e u, poisonWord s w = { s with mem := m, memMeta := g, memErr := e, unfixedDev := u } := by
  obtain ⟨m, g, e, h⟩ := putWord_frame s w (List.replicate 32 0) true
  unfold poisonWord
  rw [h]
  exact ⟨m, g, e, _, rfl⟩

theorem OnlyMemory.channels {s t : State} (h : OnlyMemory s t) : channels t = channels s := by
  obtain ⟨hpart, hretired, -⟩ := h.seals
  unfold Machine.channels
  rw [hpart, hretired]

theorem OnlyMemory.wordPlace {s t : State} (h : OnlyMemory s t) (w : Nat) : wordPlace t w = wordPlace s w := by
  unfold Machine.wordPlace
  rw [h.channels]

theorem getReg_onCorrected (s : State) (w pos : Nat) (s0 : Byte) (scrub : Bool) :
    getReg (onCorrected s w pos s0 scrub) 0 (reg (channelPage (wordPlace s w).1) 0x20)
      = min (getReg s 0 (reg (channelPage (wordPlace s w).1) 0x20) + 1) (2 ^ 32 - 1) := by
  unfold onCorrected
  extract_lets ch injected again s1 s2 s3 s4 s5 k ws ws' s6
  have h2 : getReg s2 0 (reg (channelPage ch) 0x20) = getReg s 0 (reg (channelPage ch) 0x20) := by
    obtain ⟨m, g, e, h1⟩ := settleWord_frame s w (some (pos, s0))
    unfold s2 s1
    rw [h1]
    rfl
  have h3 : getReg s3 0 (reg (channelPage ch) 0x20) = min (getReg s 0 (reg (channelPage ch) 0x20) + 1) (2 ^ 32 - 1) := by
    unfold s3
    rw [getReg_countCE, getReg_setErrInfo, h2]
  have h5 : getReg s5 0 (reg (channelPage ch) 0x20) = getReg s3 0 (reg (channelPage ch) 0x20) :=
    (getReg_logEvent ..).trans (getReg_addLife (reg_ne_of_offset (by decide)) (reg_ne_of_offset (by decide)))
  rw [← h3, ← h5]
  clear_value s5
  split
  · rfl
  · have h6 : getReg s6 0 (reg (channelPage ch) 0x20) = getReg s5 0 (reg (channelPage ch) 0x20) := getReg_congr rfl rfl ..
    split
    · rw [getReg_markRowFaulty, h6]
    · exact h6

theorem getReg_onUncorrectable (s : State) (w : Nat) (s0 : Byte) (scrub : Bool) (q : Nat) :
    getReg (onUncorrectable s w s0 scrub) 0 (reg q 0x20) = getReg s 0 (reg q 0x20) := by
  unfold onUncorrectable
  extract_lets ch injected again s1 s2 s3 s4
  have h2 : getReg s2 0 (reg q 0x20) = getReg s 0 (reg q 0x20) := by
    obtain ⟨m, g, e, u, h1⟩ := poisonWord_frame s w
    unfold s2 s1
    rw [h1]
    rfl
  have h4 : getReg s4 0 (reg q 0x20) = getReg s 0 (reg q 0x20) := by
    refine (getReg_logEvent ..).trans ?_
    unfold s3
    rw [getReg_countUE, getReg_setErrInfo, h2]
  split
  · rw [getReg_markRowFaulty, h4]
  · exact h4

theorem getReg_openWord (s : State) (w : Nat) (scrub : Bool) (q : Nat) :
    getReg (openWord s w scrub).2 0 (reg q 0x20) = getReg s 0 (reg q 0x20) := by
  unfold openWord
  split
  · unfold addSat
    rw [getReg_setReg_zero, if_neg (reg_ne_of_offset (by decide))]
  · split
    · rfl
    · exact getReg_onUncorrectable ..

/-- Settles O40: the code by the algebra of α, the count by what a corrected read writes. -/
theorem symbolErrors : Obligations.SymbolErrors := by
  unfold Obligations.SymbolErrors
  refine ⟨fun c => ⟨decodeWord_clean_iff c, fun p v => decodeWord_corrected, fun p => decodeWord_of_pattern⟩,
    fun d md v p hd hp hv => ⟨decodeWord_encodeWord d md, decodeWord_spoil hd md hp hv⟩, ?_, ?_⟩
  · intro d md v v' p p' hd hp hp' hne hv hv'
    rw [spoil_spoil hne]
    exact ⟨_, decodeWord_of_two_spoils hd md hp hp' hne hv hv'⟩
  · intro s w p v scrub hcheck
    dsimp only
    rw [visitWord_eq, hcheck, getReg_openWord]
    exact getReg_onCorrected ..

end Sys2Proof.Machine

/-! # Shared slices (O44)

A handshake in its stages: the half is awake and the march test out of the way, upsets strike what is read, reads come before writes, and
port A before port B (R302 to R306).  A word without errors reads as it stands, and a write of less than a word merges into it. -/

namespace Sys2Proof.Machine

/-! ### Common registers of a page -/

/-- The pages from the engines' to the enclave's hold common registers. -/
theorem isPerFn_reg {page off : Nat} (hlo : 22 < page) (hhi : page < 3073) (hoff : off < 4096) : isPerFn (reg page off) = false := by
  have hpage : reg page off / 4096 = page := by unfold reg; omega
  have hne : ∀ k, k ≤ 22 ∨ 3073 ≤ k → (page == k) = false := fun k hk => by rw [beq_eq_false_iff_ne]; omega
  unfold isPerFn
  dsimp only
  rw [hpage, hne 2 (by decide), hne 3073 (by decide), hne 3201 (by decide), hne 3100 (by decide), hne 16 (by decide), hne 22 (by decide)]
  rfl

theorem isPerFn_slicePage {n off : Nat} (hn : n < 128) (hoff : off < 4096) : isPerFn (reg (slicePage n) off) = false :=
  isPerFn_reg (by unfold slicePage; omega) (by unfold slicePage; omega) hoff

theorem isPerFn_channelPage {ch off : Nat} (hch : ch < 48) (hoff : off < 4096) : isPerFn (reg (channelPage ch) off) = false :=
  isPerFn_reg (by unfold channelPage; omega) (by unfold channelPage; omega) hoff

/-! ### Bytes of a memory -/

theorem readCells_drop (m : List Host.Cell) (a n k : Nat) : (readCells m a n).drop k = readCells m (a + k) (n - k) := by
  induction k generalizing a n with
  | zero => rfl
  | succ k ih =>
    cases n with
    | zero => rw [Nat.zero_sub]; rfl
    | succ n =>
      rw [Nat.add_sub_add_right, show a + (k + 1) = a + 1 + k by omega]
      exact ih (a + 1) n

theorem readCells_take (m : List Host.Cell) (a n k : Nat) : (readCells m a n).take k = readCells m a (min k n) := by
  induction n generalizing a k with
  | zero => rw [Nat.min_zero]; exact List.take_nil
  | succ n ih =>
    cases k with
    | zero => rw [Nat.zero_min]; rfl
    | succ k =>
      rw [Nat.succ_min_succ]
      exact congrArg _ (ih (a + 1) k)

/-! ### Words without errors -/

/-- The data symbols of a codeword. -/
theorem encodeWord_data {d : List Byte} (hd : d.length = 32) (md : Byte) : ((encodeWord d md).drop 3).take 32 = d := by
  show (d ++ [md]).take 32 = d
  rw [← hd, List.take_left]

@[simp] theorem upsetAt_zero (p : Nat) : upsetAt 0 p = 0 := by
  unfold upsetAt
  exact BitVec.extractLsb'_zero

theorem mapIdx_upset_zero (c : List Byte) : c.mapIdx (fun p x => x ^^^ upsetAt 0 p) = c :=
  List.ext_getElem (List.length_mapIdx ..) (fun i _ _ => by rw [List.getElem_mapIdx, upsetAt_zero]; exact BitVec.xor_zero)

theorem sliceWord_length (s : State) (n w : Nat) : (sliceWord s n w).length = 32 := readCells_length ..

theorem readSlice_clean {s : State} {n w : Nat} (h : sliceErrOf s n w = 0) (back march : Bool) :
    readSlice s n w back march = (some (sliceWord s n w), s) := by
  have hdata : fixedData (sliceStored s n w) none = sliceWord s n w := by
    unfold fixedData sliceStored
    dsimp only
    rw [h, mapIdx_upset_zero, List.drop_take, List.take_take]
    exact encodeWord_data (sliceWord_length s n w) 0
  unfold readSlice sliceCheck
  rw [if_pos h]
  dsimp only
  rw [hdata]

/-- A word takes the error that it has. -/
theorem sliceErrOf_setSliceErr_same {s : State} {n w : Nat} {e : Upset} (h : e = sliceErrOf s n w) (n' w' : Nat) :
    sliceErrOf (setSliceErr s n w e) n' w' = sliceErrOf s n' w' := by
  unfold sliceErrOf setSliceErr
  rw [tget_tset]
  split
  · next hkey => rw [hkey]; exact h
  · rfl

/-- A write of at most the rest of a word without errors stores its bytes and makes no errors. -/
theorem writeSlice_clean {s : State} {n o : Nat} {b : List Byte} (h : sliceErrOf s n (o / 32) = 0) (hb : o % 32 + b.length ≤ 32) :
    ∃ e, writeSlice s n o b = { s with sliceMem := writeCells s.sliceMem (sliceBytes * n + o) b, sliceErr := e }
      ∧ ∀ n' w', sliceErrOf { s with sliceErr := e } n' w' = sliceErrOf s n' w' := by
  have htake : b.take (32 - o % 32) = b := List.take_of_length_le (by omega)
  unfold writeSlice
  dsimp only
  rw [htake]
  split
  · exact ⟨_, rfl, sliceErrOf_setSliceErr_same h.symm⟩
  · rw [readSlice_clean h]
    exact ⟨_, rfl, fun _ _ => rfl⟩

/-! ### The stages of a handshake -/

theorem wakeEast_frame (s : State) : ∃ r l, wakeEast s = { s with regs := r, limiter := l } := by
  unfold wakeEast unparkEast
  obtain ⟨r, h⟩ := setFld_frame (a := reg 4 0x70) (by decide) s 0 2 3
  split
  · exact ⟨_, _, rfl⟩
  · split
    · rw [h]
      exact ⟨_, _, rfl⟩
    · split <;> exact ⟨_, _, rfl⟩

/-- Of the registers only GL_PARK_STATUS shows that the East half is being unparked. -/
theorem getReg_wakeEast {s : State} {fn a : Nat} (ha : a ≠ reg 4 0x70) : getReg (wakeEast s) fn a = getReg s fn a := by
  unfold wakeEast unparkEast
  split
  · rfl
  · split
    · exact getReg_setFld_ne (by decide) ha
    · split <;> rfl

/-- The half of a slice is awake. -/
def wakeSlice (s : State) (n : Nat) : State := if 64 ≤ n then wakeEast s else s

theorem wakeSlice_frame (s : State) (n : Nat) : ∃ r l, wakeSlice s n = { s with regs := r, limiter := l } := by
  unfold wakeSlice
  split
  · exact wakeEast_frame s
  · exact ⟨_, _, rfl⟩

theorem getReg_wakeSlice {s : State} {n fn a : Nat} (ha : a ≠ reg 4 0x70) : getReg (wakeSlice s n) fn a = getReg s fn a := by
  unfold wakeSlice
  split
  · exact getReg_wakeEast ha
  · rfl

/-- The slice as the ports of a handshake find it: its half awake, and no march test on a window that they access. -/
def readied (s : State) (n : Nat) (ports : List PortAccess) : State :=
  if (marchOf (wakeSlice s n) n).testing && ports.any (fun p => inWindow (marchOf (wakeSlice s n) n) (PortAccess.word p)) then
    preempt (wakeSlice s n) n
  else wakeSlice s n

theorem readied_frame (s : State) (n : Nat) (ports : List PortAccess) :
    ∃ r f l m, readied s n ports = { s with regs := r, fnRegs := f, limiter := l, marches := m } := by
  obtain ⟨r, l, h⟩ := wakeSlice_frame s n
  unfold readied
  rw [h]
  split
  · unfold preempt
    obtain ⟨r', f', h'⟩ := (setFld_only (setMarch { s with regs := r, limiter := l } n
      { marchOf { s with regs := r, limiter := l } n with testing := false }) (reg (slicePage n) 0x40) 0 2 0).trans
      (addSat_only _ (reg (slicePage n) 0x50) 1)
    dsimp only
    rw [h']
    exact ⟨_, _, _, _, rfl⟩
  · exact ⟨_, _, _, _, rfl⟩

theorem marchOf_wakeSlice (s : State) (n k : Nat) : marchOf (wakeSlice s n) k = marchOf s k := by
  obtain ⟨r, l, h⟩ := wakeSlice_frame s n
  rw [h]
  rfl

theorem readied_idle {s : State} {n : Nat} (h : (marchOf s n).testing = false) (ports : List PortAccess) : readied s n ports = wakeSlice s n := by
  unfold readied
  rw [marchOf_wakeSlice, h]
  rfl

theorem OnlyFlags.marchOf {s t : State} (h : OnlyFlags s t) (n : Nat) : marchOf t n = marchOf s n := by
  obtain ⟨_, _, _, rfl⟩ := h
  rfl

theorem marchOf_preempt (s : State) (n : Nat) : marchOf (preempt s n) n = { marchOf s n with testing := false } := by
  unfold preempt
  dsimp only
  rw [((setFld_only ..).trans (addSat_only ..)).flags.marchOf, marchOf_setMarch, if_pos rfl]

/-- A march test whose window is accessed has stopped when the ports are served. -/
theorem marchOf_readied {s : State} {n : Nat} {p : PortAccess} (ht : (marchOf s n).testing = true)
    (hw : inWindow (marchOf s n) (PortAccess.word p) = true) : marchOf (readied s n [p]) n = { marchOf s n with testing := false } := by
  have hhit : ((marchOf s n).testing && [p].any (fun p => inWindow (marchOf s n) (PortAccess.word p))) = true := by
    rw [ht, List.any_cons, hw]
    rfl
  unfold readied
  rw [marchOf_wakeSlice, if_pos hhit, marchOf_preempt, marchOf_wakeSlice]

/-- One read: what its port finds after the upset. -/
theorem serve_read (s : State) (n o len : Nat) (u : Upset) : serve s n [.read o len u] =
    portRead (strikeSlice (readied s n [.read o len u]) n (.read o len u)) n (fun _ => false) (.read o len u) := rfl

theorem serve_write (s : State) (n o : Nat) (b : List Byte) : (serve s n [.write o b]).2.2 =
    portWrite (readied s n [.write o b]) n (.write o b) := rfl

/-! ### Reads -/

/-- A read without an upset strikes no error. -/
theorem strikeSlice_none (s : State) (n o len : Nat) : ∃ e, strikeSlice s n (.read o len 0) = { s with sliceErr := e }
    ∧ ∀ n' w', sliceErrOf { s with sliceErr := e } n' w' = sliceErrOf s n' w' :=
  ⟨_, rfl, sliceErrOf_setSliceErr_same BitVec.xor_zero⟩

/-- What a read of a word without errors returns. -/
theorem portRead_clean {s : State} {n o : Nat} (ho : o < sliceBytes) (h : sliceErrOf s n (o / 32) = 0) (len : Nat) (u : Upset) (taken : Nat → Bool) :
    portRead s n taken (.read o len u) = ((readCells s.sliceMem (sliceBytes * n + o) 32).take (min len (32 - o % 32)), [], s) := by
  have hdata : ((sliceWord s n (o / 32)).drop (o % 32)).take len = (readCells s.sliceMem (sliceBytes * n + o) 32).take (min len (32 - o % 32)) := by
    unfold sliceWord
    rw [readCells_drop, readCells_take, readCells_take, show sliceBytes * n + o / 32 * 32 + o % 32 = sliceBytes * n + o by omega]
    congr 1
    omega
  unfold portRead
  dsimp only
  rw [Nat.mod_eq_of_lt ho, readSlice_clean h]
  dsimp only
  rw [hdata]

/-- The slice without march test as a read finds it, with the upset 0 struck. -/
theorem readied_struck (s : State) (n : Nat) (ports : List PortAccess) (o len : Nat) :
    ∃ r f l m e, strikeSlice (readied s n ports) n (.read o len 0) = { s with regs := r, fnRegs := f, limiter := l, marches := m, sliceErr := e }
      ∧ ∀ n' w', sliceErrOf { s with regs := r, fnRegs := f, limiter := l, marches := m, sliceErr := e } n' w' = sliceErrOf s n' w' := by
  obtain ⟨r, f, l, m, h⟩ := readied_frame s n ports
  obtain ⟨e, he, herr⟩ := strikeSlice_none (readied s n ports) n o len
  rw [h] at he herr
  exact ⟨r, f, l, m, e, by rw [h]; exact he, herr⟩

/-- A read of a word without errors. -/
theorem serve_read_clean {s : State} {n o : Nat} (ho : o < sliceBytes) (h : sliceErrOf s n (o / 32) = 0) (len : Nat) :
    ∃ r f l m e, serve s n [.read o len 0] = ((readCells s.sliceMem (sliceBytes * n + o) 32).take (min len (32 - o % 32)), [],
      { s with regs := r, fnRegs := f, limiter := l, marches := m, sliceErr := e }) := by
  obtain ⟨r, f, l, m, e, hs, herr⟩ := readied_struck s n [.read o len 0] o len
  rw [serve_read, hs, portRead_clean ho ((herr n (o / 32)).trans h)]
  exact ⟨r, f, l, m, e, rfl⟩

/-- A read beside a write to its word: the word as it stood, and then the write. -/
theorem serve_read_write {s : State} {n o o' : Nat} {b : List Byte} (ho : o < sliceBytes) (ho' : o' < sliceBytes) (hw : o / 32 = o' / 32)
    (hb : o' % 32 + b.length ≤ 32) (h : sliceErrOf s n (o / 32) = 0) (len : Nat) :
    (serve s n [.read o len 0, .write o' b]).1 = (readCells s.sliceMem (sliceBytes * n + o) 32).take (min len (32 - o % 32))
      ∧ (serve s n [.read o len 0, .write o' b]).2.2.sliceMem = writeCells s.sliceMem (sliceBytes * n + o') b := by
  obtain ⟨r, f, l, m, e, hs, herr⟩ := readied_struck s n [.read o len 0, .write o' b] o len
  have hread := portRead_clean (s := { s with regs := r, fnRegs := f, limiter := l, marches := m, sliceErr := e }) ho
    ((herr n (o / 32)).trans h) len 0 (fun w => [PortAccess.write o' b].any (fun p => PortAccess.word p == w))
  obtain ⟨e', hwrite, -⟩ := writeSlice_clean (s := { s with regs := r, fnRegs := f, limiter := l, marches := m, sliceErr := e })
    (n := n) ((herr n (o' / 32)).trans (hw ▸ h)) hb
  have hserve : serve s n [.read o len 0, .write o' b] =
      (let x := portRead (strikeSlice (readied s n [.read o len 0, .write o' b]) n (.read o len 0)) n
        (fun w => [PortAccess.write o' b].any (fun p => PortAccess.word p == w)) (.read o len 0)
       (x.1 ++ [], x.2.1 ++ [], writeSlice x.2.2 n (o' % sliceBytes) b)) := rfl
  rw [hserve, hs, hread, Nat.mod_eq_of_lt ho']
  dsimp only
  rw [hwrite]
  exact ⟨List.append_nil _, rfl⟩

/-! ### Writes -/

/-- Two writes to words without errors, one after the other. -/
theorem writeSlice_twice_clean {s : State} {n o o' : Nat} {b b' : List Byte} (h : sliceErrOf s n (o / 32) = 0) (h' : sliceErrOf s n (o' / 32) = 0)
    (hb : o % 32 + b.length ≤ 32) (hb' : o' % 32 + b'.length ≤ 32) : ∃ e, writeSlice (writeSlice s n o b) n o' b' =
      { s with sliceMem := writeCells (writeCells s.sliceMem (sliceBytes * n + o) b) (sliceBytes * n + o') b', sliceErr := e } := by
  obtain ⟨e, hA, herr⟩ := writeSlice_clean h hb
  obtain ⟨e', hB, -⟩ := writeSlice_clean (s := { s with sliceMem := writeCells s.sliceMem (sliceBytes * n + o) b, sliceErr := e })
    ((herr n (o' / 32)).trans h') hb'
  exact ⟨e', by rw [hA, hB]⟩

/-- Two writes: A's, then B's, and the collision counted. -/
theorem serve_write_write {s : State} {n o o' : Nat} {b b' : List Byte} (hn : n < 128) (hidle : (marchOf s n).testing = false)
    (ho : o < sliceBytes) (ho' : o' < sliceBytes) (hb : o % 32 + b.length ≤ 32) (hb' : o' % 32 + b'.length ≤ 32)
    (h : sliceErrOf s n (o / 32) = 0) (h' : sliceErrOf s n (o' / 32) = 0) :
    let t := (serve s n [.write o b, .write o' b']).2.2
    t.sliceMem = writeCells (writeCells s.sliceMem (sliceBytes * n + o) b) (sliceBytes * n + o') b'
      ∧ get64 t (reg (slicePage n) 0x48) = (get64 s (reg (slicePage n) 0x48) + (if o / 32 = o' / 32 then 1 else 0)) % 2 ^ 64 := by
  have hserve : (serve s n [.write o b, .write o' b']).2.2 =
      (let u := writeSlice (writeSlice (readied s n [.write o b, .write o' b']) n (o % sliceBytes) b) n (o' % sliceBytes) b'
       if o % sliceBytes / 32 = o' % sliceBytes / 32 then add64 u (reg (slicePage n) 0x48) 1 else u) := rfl
  have hcount : get64 (wakeSlice s n) (reg (slicePage n) 0x48) = get64 s (reg (slicePage n) 0x48) := by
    unfold get64
    rw [getReg_wakeSlice (reg_ne_of_offset (by decide)), getReg_wakeSlice (by unfold reg slicePage; omega)]
  have hmem : (wakeSlice s n).sliceMem = s.sliceMem ∧ (wakeSlice s n).sliceErr = s.sliceErr := by
    obtain ⟨_, _, hwake⟩ := wakeSlice_frame s n
    rw [hwake]
    exact ⟨rfl, rfl⟩
  rw [hserve, readied_idle hidle, Nat.mod_eq_of_lt ho, Nat.mod_eq_of_lt ho', ← hcount, ← hmem.1]
  unfold sliceErrOf at h h'
  rw [← hmem.2] at h h'
  generalize wakeSlice s n = u at h h'
  obtain ⟨e, hwrites⟩ := writeSlice_twice_clean h h' hb hb'
  rw [hwrites]
  dsimp only
  split
  · rw [get64_add64 (isPerFn_slicePage hn (by decide)) (isPerFn_slicePage (off := 0x4C) hn (by decide))]
    refine ⟨?_, rfl⟩
    generalize hv : ({ u with sliceMem := _, sliceErr := _ } : State) = v
    obtain ⟨_, _, hadd⟩ := add64_only v (reg (slicePage n) 0x48) 1
    rw [hadd, ← hv]
  · exact ⟨rfl, (Nat.mod_eq_of_lt (get64_lt u _)).symm⟩

/-! ### SLICE_ACCESS and the march test -/

theorem get64_congr {s t : State} (hregs : s.regs = t.regs) (hfnRegs : s.fnRegs = t.fnRegs) {a : Nat} : get64 s a = get64 t a := by
  unfold get64
  rw [getReg_congr hregs hfnRegs, getReg_congr hregs hfnRegs]

theorem handshake_eq (s : State) (n : Nat) (ports : List PortAccess) :
    handshake s n ports = answerBad (serve s n ports).2.2 (serve s n ports).1 (serve s n ports).2.1 := rfl

theorem exec_sliceAccess {s : State} {n : Nat} (hn : n < 128) (ha : awake s = true) (p : PortAccess) (q : Option PortAccess) :
    exec (.sliceAccess n (some p) q) s = .next (keep s (handshake s n (p :: q.toList))) := by
  refine (onMemory_eq (f := sliceAccessOn n (some p) q) hn).trans ?_
  unfold sliceAccessOn
  rw [ha]
  rfl

/-- What a handshake answers and leaves of the slices. -/
theorem handshake_row (s : State) (n : Nat) (ports : List PortAccess) : let t := keep s (handshake s n ports)
    t.port = { data := (serve s n ports).1, poisoned := (serve s n ports).2.1 } ∧ t.sliceMem = (serve s n ports).2.2.sliceMem
      ∧ t.regs = (serve s n ports).2.2.regs ∧ t.fnRegs = (serve s n ports).2.2.fnRegs := by
  rw [handshake_eq]
  exact ⟨rfl, rfl, rfl, rfl⟩

theorem OnlyFlags.marches {s t : State} (h : OnlyFlags s t) : t.marches = s.marches := by
  obtain ⟨_, _, _, rfl⟩ := h
  rfl

theorem pokeSlice_marches (s : State) (n o : Nat) (b : List Byte) : (pokeSlice s n o b).marches = s.marches := rfl

theorem setSliceErr_marches (s : State) (n w : Nat) (e : Upset) : (setSliceErr s n w e).marches = s.marches := rfl

theorem readSlice_marches (s : State) (n w : Nat) (back march : Bool) : (readSlice s n w back march).2.marches = s.marches := by
  have count : ∀ p, (countCE (setSliceInfo s n w p false march) (slicePage n)).marches = s.marches :=
    fun p => ((setReg_only ..).flags.trans (countCE_only ..)).marches
  unfold readSlice
  dsimp only
  split
  · rfl
  · next p s0 _ =>
    have h := count p
    generalize countCE (setSliceInfo s n w p false march) (slicePage n) = u at h ⊢
    split
    · rwa [setSliceErr_marches, pokeSlice_marches]
    · exact h
  · exact ((setReg_only ..).flags.trans (countUE_only ..)).marches

theorem writeSlice_marches (s : State) (n o : Nat) (b : List Byte) : (writeSlice s n o b).marches = s.marches := by
  have h := readSlice_marches s n (o / 32) true false
  unfold writeSlice
  dsimp only
  generalize readSlice s n (o / 32) true false = x at h ⊢
  obtain ⟨d, u⟩ := x
  split
  · rw [setSliceErr_marches, pokeSlice_marches]
  · exact (pokeSlice_marches ..).trans h

theorem portRead_marches (s : State) (n : Nat) (taken : Nat → Bool) (p : PortAccess) : (portRead s n taken p).2.2.marches = s.marches := by
  cases p with
  | write => rfl
  | read o len u =>
    have h := readSlice_marches s n (o % sliceBytes / 32) (!taken (o % sliceBytes / 32)) false
    unfold portRead
    dsimp only
    generalize readSlice s n (o % sliceBytes / 32) (!taken (o % sliceBytes / 32)) false = x at h
    obtain ⟨_ | d, t⟩ := x
    · exact h
    · exact h

/-- Once the ports are readied an access leaves the march tests alone. -/
theorem serve_marches (s : State) (n : Nat) (p : PortAccess) : (serve s n [p]).2.2.marches = (readied s n [p]).marches := by
  cases p with
  | read o len u => rw [serve_read, portRead_marches]; rfl
  | write o b => rw [serve_write]; exact writeSlice_marches ..

/-- A march test that has stopped; one that tests the next window; and one that goes on to the window after its own, of 512. -/
def March.stopped (m : March) : March := { m with testing := false }
def March.begun (m : March) : March := { m with testing := true, window := m.next }
def March.onward (m : March) : March := { m with testing := false, next := (m.window + 1) % 512 }

theorem marchOf_keep (s t : State) (n : Nat) : marchOf (keep s t) n = marchOf t n := rfl

theorem marchOf_setMarch_regs {s t : State} {n : Nat} {m : March} {r : Table U32} (h : t = { setMarch s n m with regs := r }) : marchOf t n = m := by
  rw [h]
  exact (marchOf_setMarch s n n m).trans (if_pos rfl)

/-- An access to the window ends its test. -/
theorem marchPreempt_row {s : State} {n : Nat} (hn : n < 128) {a : PortAccess} {p : Bool} (ht : (marchOf s n).testing = true)
    (hw : inWindow (marchOf s n) (PortAccess.word a) = true) :
    ∃ t, exec (.marchPreempt n a p) s = .next t ∧ marchOf t n = (marchOf s n).stopped := by
  have hon : marchPreemptOn n a s = handshake s n [a] := if_pos (by rw [ht, hw]; rfl)
  have hmarches : marchOf (handshake s n [a]) n = marchOf (readied s n [a]) n := by
    unfold marchOf
    rw [← serve_marches]
    rfl
  exact ⟨_, onMemory_eq hn, (congrArg (marchOf · n) hon).trans (hmarches.trans (marchOf_readied ht hw))⟩

theorem marchWindowOn_eq {s : State} {n : Nat} (hn : n < 128) (ha : awake s = true) (hon : fld s (reg (slicePage n) 0x44) 0 1 = 1)
    (ht : (marchOf s n).testing = false) (hhalf : n < 64 ∨ fld s (reg 4 0x70) 0 2 = 0) :
    ∃ r, marchWindowOn n s = { setMarch s n (marchOf s n).begun with regs := r } := by
  have hrun : ¬ (awake s = false ∨ fld s (reg (slicePage n) 0x44) 0 1 = 0 ∨ (marchOf s n).testing = true ∨ (64 ≤ n ∧ fld s (reg 4 0x70) 0 2 ≠ 0)) := by
    rw [ha, hon, ht]
    simp only [Bool.true_eq_false, one_ne_zero, Bool.false_eq_true, false_or, not_and, not_not]
    omega
  obtain ⟨r, hr⟩ := setReg_frame (isPerFn_slicePage hn (by decide : 0x40 < 4096)) (setMarch s n (marchOf s n).begun) 0 (1 + (marchOf s n).next * 4)
  exact ⟨r, (if_neg hrun).trans hr⟩

theorem marchWindow_row {s : State} {n : Nat} (hn : n < 128) (ha : awake s = true) (hon : fld s (reg (slicePage n) 0x44) 0 1 = 1)
    (ht : (marchOf s n).testing = false) (hhalf : n < 64 ∨ fld s (reg 4 0x70) 0 2 = 0) :
    ∃ t, exec (.marchWindow n) s = .next t ∧ marchOf t n = (marchOf s n).begun ∧ t = { s with marches := t.marches, regs := t.regs } := by
  obtain ⟨r, hr⟩ := marchWindowOn_eq hn ha hon ht hhalf
  refine ⟨_, onMemory_eq hn, ?_⟩
  rw [hr]
  exact ⟨marchOf_setMarch_regs rfl, rfl⟩

theorem addCount_frame {a : Nat} (h : isPerFn a = false) (s : State) (k : Nat) : ∃ r, addCount s a k = { s with regs := r } :=
  setReg_frame h s 0 ((getReg s 0 a + k) % 2 ^ 32)

/-- At the end of a window's test the words found faulty are mapped out, and the march goes on to the next window. -/
theorem marchWindowDoneOn_eq {s u : State} {n : Nat} (hn : n < 128) (ht : (marchOf s n).testing = true) {faulty : List Nat}
    (hu : (faulty.filter (· < 128)).foldl (fun v i => mapSliceWord v n ((marchOf s n).window * 128 + i)) (restoreWindow s n (marchOf s n)) = u) :
    ∃ r, marchWindowDoneOn n faulty s = { setMarch u n (marchOf s n).onward with regs := r } := by
  generalize hv : setMarch u n (marchOf s n).onward = v
  obtain ⟨r, hr⟩ := setFld_frame (isPerFn_slicePage hn (by decide : 0x40 < 4096)) v 0 2 0
  obtain ⟨r', hr'⟩ := addCount_frame (isPerFn_slicePage hn (by decide : 0x5C < 4096)) { v with regs := r } 1
  have hdone : marchWindowDoneOn n faulty s = if (marchOf s n).onward.next = 0 then addCount (setFld v (reg (slicePage n) 0x40) 0 2 0)
      (reg (slicePage n) 0x5C) 1 else setFld v (reg (slicePage n) 0x40) 0 2 0 := by
    rw [← hv, ← hu]
    have hrun : ¬ (marchOf s n).testing = false := by rw [ht]; simp
    unfold marchWindowDoneOn March.onward
    dsimp only
    rw [if_neg hrun]
  rw [hdone, hr]
  split
  · exact ⟨r', hr'⟩
  · exact ⟨r, rfl⟩

theorem marchWindowDone_row {s : State} {n : Nat} (hn : n < 128) (ht : (marchOf s n).testing = true) (faulty : List Nat) :
    ∃ t, exec (.marchWindowDone n faulty) s = .next t ∧ marchOf t n = (marchOf s n).onward := by
  obtain ⟨r, h⟩ := marchWindowDoneOn_eq hn ht rfl
  refine ⟨_, onMemory_eq hn, ?_⟩
  rw [h]
  exact (marchOf_keep ..).trans (marchOf_setMarch_regs rfl)

/-- A window of a device whose slices hold no errors ends as it was. -/
theorem marchWindowDone_clean {s : State} {n : Nat} (hn : n < 128) (ht : (marchOf s n).testing = true) (hs : s.sliceErr = []) :
    ∃ t, exec (.marchWindowDone n []) s = .next t ∧ t.sliceMem = s.sliceMem ∧ t = { s with marches := t.marches, regs := t.regs } := by
  have hrestore : restoreWindow s n (marchOf s n) = s := by
    unfold restoreWindow
    rw [hs]
    rfl
  obtain ⟨r, h⟩ := marchWindowDoneOn_eq (faulty := []) hn ht hrestore
  refine ⟨_, onMemory_eq hn, ?_⟩
  rw [h]
  exact ⟨rfl, rfl⟩

/-- Settles O44: the stages of a handshake for words without errors, and the march test by its rows. -/
theorem sliceRows : Obligations.SliceRows := by
  unfold Obligations.SliceRows
  refine ⟨fun s n hn ha hidle => ⟨?read, ?readWrite, ?writeWrite⟩, fun s n hn => ⟨marchWindow_row hn, fun a p => marchPreempt_row hn,
    fun faulty ht => marchWindowDone_row hn ht faulty, marchWindowDone_clean hn⟩⟩
  case read =>
    intro o len ho herr
    obtain ⟨hport, hmem, -⟩ := handshake_row s n [.read o len 0]
    obtain ⟨r, f, l, m, e, hserve⟩ := serve_read_clean ho herr len
    rw [hserve] at hport hmem
    exact ⟨_, exec_sliceAccess hn ha _ none, hport, hmem⟩
  case readWrite =>
    intro o len o' b ho ho' hw hb herr
    obtain ⟨hport, hmem, -⟩ := handshake_row s n [.read o len 0, .write o' b]
    obtain ⟨hdata, hstored⟩ := serve_read_write ho ho' hw hb herr len
    exact ⟨_, exec_sliceAccess hn ha _ _, (congrArg Port.data hport).trans hdata, hmem.trans hstored⟩
  case writeWrite =>
    intro o b o' b' ho ho' hb hb' herr herr'
    obtain ⟨-, hmem, hregs, hfnRegs⟩ := handshake_row s n [.write o b, .write o' b']
    obtain ⟨hstored, hcount⟩ := serve_write_write hn hidle ho ho' hb hb' herr herr'
    refine ⟨_, exec_sliceAccess hn ha _ _, hmem.trans hstored, ?_⟩
    rw [← hcount]
    exact get64_congr hregs hfnRegs

end Sys2Proof.Machine

/-! # Reads and writes of device memory: MEM_READ and MEM_WRITE (O41) -/

namespace Sys2Proof.Machine

/-! ### The symbols of an upset (R283, R289) -/

theorem symbolBit_le (p : Nat) : symbolBit p ≤ 280 := by
  unfold symbolBit
  split_ifs <;> omega

theorem symbolBit_apart {i p : Nat} (hi : i < 36) (hp : p < 36) (h : i ≠ p) : symbolBit i + 8 ≤ symbolBit p ∨ symbolBit p + 8 ≤ symbolBit i := by
  unfold symbolBit
  split_ifs <;> omega

/-- Each eight bits of a stored word are a symbol. -/
theorem exists_symbolBit {n : Nat} (h : n < 36) : ∃ p, p < 36 ∧ symbolBit p = 8 * n := by
  have hcases : n < 32 ∨ (32 ≤ n ∧ n < 35) ∨ n = 35 := by omega
  obtain hdata | ⟨hlo, hhi⟩ | hmeta := hcases
  · exact ⟨n + 3, by omega, by unfold symbolBit; split_ifs <;> omega⟩
  · exact ⟨n - 32, by omega, by unfold symbolBit; split_ifs <;> omega⟩
  · exact ⟨35, by omega, by subst hmeta; rfl⟩

theorem getLsbD_upsetAt (e : Upset) (p : Nat) {j : Nat} (hj : j < 8) : (upsetAt e p).getLsbD j = e.getLsbD (symbolBit p + j) := by
  unfold upsetAt
  simp [hj]

theorem upsetAt_xor (e f : Upset) (p : Nat) : upsetAt (e ^^^ f) p = upsetAt e p ^^^ upsetAt f p := by
  unfold upsetAt
  exact BitVec.extractLsb'_xor

theorem upsetAt_upsetSymbol {p i : Nat} (hp : p < 36) (hi : i < 36) (v : Byte) : upsetAt (upsetSymbol p v) i = if i = p then v else 0 := by
  refine BitVec.eq_of_getLsbD_eq (fun j hj => ?_)
  have hi' := symbolBit_le i
  have hin : symbolBit i + j < 288 := by omega
  rw [getLsbD_upsetAt _ _ hj]
  unfold upsetSymbol
  rw [BitVec.getLsbD_shiftLeft, BitVec.getLsbD_setWidth]
  split
  · next h =>
    subst h
    simp [hin]
    omega
  · next h =>
    obtain hlt | hlt := symbolBit_apart hi hp h
    · have hlow : symbolBit i + j < symbolBit p := by omega
      simp [hlow]
    · have hhigh : 8 ≤ symbolBit i + j - symbolBit p := by omega
      simp [BitVec.getLsbD_of_ge _ _ hhigh]

/-- An upset of one bit strikes the symbol that holds the bit. -/
theorem upsetAt_bit {p i k : Nat} (hp : p < 36) (hi : i < 36) (h : i ≠ p) (hk : symbolBit p ≤ k) (hk' : k < symbolBit p + 8) :
    upsetAt (BitVec.ofNat 288 (2 ^ k)) i = 0 := by
  refine BitVec.eq_of_getLsbD_eq (fun j hj => ?_)
  have hne : k ≠ symbolBit i + j := by
    have := symbolBit_apart hi hp h
    omega
  rw [getLsbD_upsetAt _ _ hj, BitVec.getLsbD_ofNat, Nat.testBit_two_pow_of_ne hne]
  simp

/-- What strikes one pin within the beats of one symbol strikes that symbol alone. -/
theorem pinUpset_symbol {pin k : Nat} {beats : List Nat} (hpin : pin < 12) (hk : k < 3) (h : ∀ b ∈ beats, b / 8 = k) :
    ∃ p v, p < 36 ∧ ∀ i, i < 36 → upsetAt (pinUpset pin beats) i = if i = p then v else 0 := by
  obtain ⟨p, hp, hbit⟩ := exists_symbolBit (n := 3 * pin + k) (by omega)
  refine ⟨p, upsetAt (pinUpset pin beats) p, hp, fun i hi => ?_⟩
  split
  · next heq => rw [heq]
  · next hne =>
    unfold pinUpset
    refine List.foldlRecOn (motive := fun u : Upset => upsetAt u i = 0) beats _ (upsetAt_zero i) (fun u hu b hb => ?_)
    have hplace : burstBit pin b = 8 * (3 * pin + k) + b % 8 := by
      unfold burstBit burstPlace
      rw [h b hb]
    rw [upsetAt_xor, hu, hplace, upsetAt_bit hp hi hne (by omega) (by omega)]
    rfl

/-! ### What a channel finds in a word that is plain -/

theorem openWord_plain {s : State} {w : Nat} (h : metaOf s w = 0) (scrub : Bool) : openWord s w scrub = (some (wordData s w), s) := by
  have hread : readUnder s w 0 = wordData s w := if_pos (Or.inl (by rw [h]; rfl))
  unfold openWord
  rw [h, if_neg (by decide)]
  exact congrArg (fun d => (some d, s)) hread

theorem visitWord_clean {s : State} {w : Nat} (he : errOf s w = 0) (h : metaOf s w = 0) (scrub : Bool) :
    visitWord s w scrub = (some (wordData s w), { s with rewritten := s.rewritten.filter (· != w) }) := by
  have hclean : checkWord s w = .clean := if_pos he
  rw [visitWord_eq, hclean]
  dsimp only
  rw [if_pos he]
  exact openWord_plain (s := { s with rewritten := s.rewritten.filter (· != w) }) h scrub

theorem redraw_fixed {s : State} {r : List (Nat × Nat)} {a : Nat} {b : List Byte} (h : ∀ x, a ≤ x → x < a + b.length → covered r x = false) :
    redraw s r a b = (b, s) := by
  refine if_neg ?_
  simp only [List.any_eq_true, List.mem_range, not_exists, not_and, Bool.not_eq_true]
  exact fun i hi => h (a + i) (by omega) (by omega)

theorem set64_frame {a : Nat} (h : isPerFn a = false) (h' : isPerFn (a + 4) = false) (s : State) (v : Nat) : ∃ r, set64 s a v = { s with regs := r } := by
  obtain ⟨r, hr⟩ := setReg_frame h s 0 (v % 2 ^ 32)
  obtain ⟨r', hr'⟩ := setReg_frame h' { s with regs := r } 0 (v / 2 ^ 32 % 2 ^ 32)
  refine ⟨r', ?_⟩
  unfold set64
  rw [hr]
  exact hr'

theorem reachWord_frame (s : State) (w : Nat) : ∃ r l, reachWord s w = { s with regs := r, limiter := l } := by
  unfold reachWord
  split
  · exact ⟨_, _, rfl⟩
  · exact wakeEast_frame s

theorem wordPlace_lt {s : State} {a : Nat} (h : a < capacity s) : (wordPlace s (a / 32)).1 < channels s ∧ (wordPlace s (a / 32)).1 < 48 := by
  unfold capacity GiB at h
  have hc : 0 < channels s := by omega
  have hle := channels_le s
  have hlt : (wordPlace s (a / 32)).1 < channels s := (place_lt hc (by omega)).1
  exact ⟨hlt, by omega⟩

/-- A word's channel has its read counted, and is woken if it sleeps. -/
theorem reached_frame {s : State} {a : Nat} (h : a < capacity s) :
    ∃ r l, add64 (reachWord s (a / 32)) (reg (channelPage (wordPlace (reachWord s (a / 32)) (a / 32)).1) 0x60) 32 = { s with regs := r, limiter := l } := by
  obtain ⟨r, l, hr⟩ := reachWord_frame s (a / 32)
  obtain ⟨-, hch⟩ := wordPlace_lt h
  rw [(reachWord_only s (a / 32)).wordPlace, hr]
  obtain ⟨r', hr'⟩ := set64_frame (isPerFn_channelPage hch (by decide)) (isPerFn_channelPage (off := 0x64) hch (by decide)) { s with regs := r, limiter := l }
    (get64 { s with regs := r, limiter := l } (reg (channelPage (wordPlace s (a / 32)).1) 0x60) + 32)
  exact ⟨r', l, hr'⟩

/-- A demand read of a word that is plain, has no error and is fixed. -/
theorem readWord_clean {s : State} {a : Nat} (ha : a < capacity s) (he : errOf s (a / 32) = 0) (hm : metaOf s (a / 32) = 0) (hf : Fixed s (a / 32 * 32) 32) :
    ∃ r l x, readWord s (a / 32) = (some (wordData s (a / 32)), { s with regs := r, limiter := l, rewritten := x }) := by
  obtain ⟨r, l, hreach⟩ := reached_frame ha
  refine ⟨r, l, s.rewritten.filter (· != a / 32), ?_⟩
  unfold readWord
  dsimp only
  rw [hreach, visitWord_clean (s := { s with regs := r, limiter := l }) he hm]
  have hfixed : ∀ x, a / 32 * 32 ≤ x → x < a / 32 * 32 + (wordData s (a / 32)).length → covered s.unfixedDev x = false := by
    rw [wordData_length]
    exact hf
  exact congrArg (fun x : List Byte × State => (some x.1, x.2)) (redraw_fixed (s := { s with regs := r, limiter := l, rewritten := _ }) hfixed)

/-! ### A word with one symbol struck -/

theorem spoil_self (p : Nat) (v : Byte) (c : List Byte) : spoil p v (spoil p v c) = c := by
  unfold spoil
  refine List.ext_getElem (by rw [List.length_mapIdx, List.length_mapIdx]) (fun i _ _ => ?_)
  rw [List.getElem_mapIdx, List.getElem_mapIdx]
  split
  · rw [BitVec.xor_assoc, BitVec.xor_self]
    exact BitVec.xor_zero
  · rfl

theorem encodeWord_md {d : List Byte} (hd : d.length = 32) (md : Byte) : (encodeWord d md).getD 35 0 = md := by
  show (d ++ [md]).getD 32 0 = md
  rw [List.getD_eq_getElem?_getD, ← hd, List.getElem?_concat_length]
  rfl

/-- What a corrected codeword makes of its word when its metadata name no seal. -/
theorem settleWord_of_fixed {s : State} {w p : Nat} {v : Byte} {c : List Byte}
    (hc : (storedWord s w).mapIdx (fun i x => if i = p then x ^^^ v else x) = c) (hv : versionBits (c.getD 35 0) = 0) :
    settleWord s w (some (p, v)) = setErr (setTag (pokeDev s (w * 32) ((c.drop 3).take 32)) w { tagOf s w with md := c.getD 35 0 }) w 0 := by
  subst hc
  unfold settleWord
  dsimp only
  rw [if_pos hv]

section Struck
variable {s : State} {w p : Nat} {v : Byte} (he : errOf s w = upsetSymbol p v) (hm : metaOf s w = 0) (hp : p < 36)
include he hm hp

theorem storedWord_struck : storedWord s w = spoil p v (encodeWord (wordData s w) 0) := by
  have hsymbols : wordSymbols s w = wordData s w := if_pos (by rw [hm]; rfl)
  have hlen := encodeWord_length (wordData_length s w) 0
  unfold storedWord spoil
  dsimp only
  rw [hsymbols, hm, he]
  refine List.ext_getElem (by rw [List.length_mapIdx, List.length_mapIdx]) (fun i hi _ => ?_)
  rw [List.length_mapIdx, hlen] at hi
  rw [List.getElem_mapIdx, List.getElem_mapIdx, upsetAt_upsetSymbol hp hi]
  split
  · rfl
  · exact BitVec.xor_zero

theorem checkWord_struck (hv : v ≠ 0) : checkWord s w = .corrected p v := by
  have hne : errOf s w ≠ 0 := by
    intro h0
    have hsymbol := upsetAt_upsetSymbol hp hp v
    rw [← he, h0, upsetAt_zero, if_pos rfl] at hsymbol
    exact hv hsymbol.symm
  unfold checkWord
  rw [if_neg hne, storedWord_struck he hm hp]
  exact decodeWord_spoil (wordData_length s w) 0 hp hv

/-- Corrected, the word is as it was written. -/
theorem settleWord_struck : settleWord s w (some (p, v)) = setErr (setTag (pokeDev s (w * 32) (wordData s w)) w { tagOf s w with md := 0 }) w 0 := by
  have hfixed : (storedWord s w).mapIdx (fun i x => if i = p then x ^^^ v else x) = encodeWord (wordData s w) 0 := by
    rw [storedWord_struck he hm hp]
    exact spoil_self ..
  have hmd : (encodeWord (wordData s w) 0).getD 35 0 = 0 := encodeWord_md (wordData_length s w) 0
  rw [settleWord_of_fixed hfixed (by rw [hmd]; rfl), hmd, encodeWord_data (wordData_length s w)]

end Struck

/-! ### What a corrected read leaves of the words -/

/-- t is s after steps that changed no word of device memory and drew none of its bytes. -/
structure Undrawn (s t : State) : Prop extends Still s t where
  unfixed : t.unfixedDev = s.unfixedDev

theorem Undrawn.trans {s t u : State} (h : Undrawn s t) (k : Undrawn t u) : Undrawn s u :=
  ⟨h.toStill.trans k.toStill, k.unfixed.trans h.unfixed⟩

theorem OnlyFlags.undrawn {s t : State} (h : OnlyFlags s t) : Undrawn s t := by
  refine ⟨h.still, ?_⟩
  obtain ⟨_, _, _, rfl⟩ := h
  rfl

theorem addLife_undrawn (s : State) (i n : Nat) : Undrawn s (addLife s i n) := by
  refine ⟨⟨addLife_only .., addLife_sameWords ..⟩, ?_⟩
  obtain ⟨_, _, _, _, h, -⟩ := checkLifetime_health { s with lifetime := tset (fun _ => 0) s.lifetime i (BitVec.ofNat 64 (lifeOf s i + n)) }
  unfold addLife
  rw [h]

theorem logEvent_undrawn (s : State) (block code fn : Nat) (payload : List Byte) : Undrawn s (logEvent s block code fn payload) := by
  refine ⟨⟨logEvent_only .., logEvent_sameWords ..⟩, ?_⟩
  obtain ⟨_, h⟩ := logEvent_frame s block code fn payload
  rw [h]

theorem markRowFaulty_undrawn (s : State) (k : Nat) : Undrawn s (markRowFaulty s k) := by
  refine ⟨⟨markRowFaulty_only .., markRowFaulty_sameWords ..⟩, ?_⟩
  unfold markRowFaulty
  split <;> rfl

theorem onCorrected_undrawn (s : State) (w pos : Nat) (s0 : Byte) (scrub : Bool) :
    Undrawn (settleWord s w (some (pos, s0))) (onCorrected s w pos s0 scrub) := by
  unfold onCorrected
  extract_lets ch injected again s1 s2 s3 s4 s5 k ws ws' s6
  change Undrawn s1 _
  clear_value s1
  have h2 : Undrawn s1 s2 := ⟨⟨.of rfl rfl rfl, rfl, rfl, rfl⟩, rfl⟩
  have h5 : Undrawn s1 s5 := h2.trans (((setErrInfo_only ..).flags.trans (countCE_only ..)).undrawn.trans ((addLife_undrawn ..).trans (logEvent_undrawn ..)))
  clear_value s5
  split
  · exact h5
  · have h6 : Undrawn s1 s6 := h5.trans ⟨⟨.of rfl rfl rfl, rfl, rfl, rfl⟩, rfl⟩
    split
    · exact h6.trans (markRowFaulty_undrawn ..)
    · exact h6

theorem Still.metaOf {s t : State} (h : Still s t) (w : Nat) : metaOf t w = metaOf s w := by
  obtain ⟨hpart, hretired, hsealed, -, hranges, -⟩ := h.only.seals
  unfold Machine.metaOf tagOf implicitTag firmwareArea Machine.channels
  rw [h.words.tags, hpart, hretired, hsealed, hranges]

theorem Still.errOf {s t : State} (h : Still s t) (w : Nat) : errOf t w = errOf s w := by
  unfold Machine.errOf
  rw [h.words.errs]

theorem Still.peekDev {s t : State} (h : Still s t) (a n : Nat) : peekDev t a n = peekDev s a n := by
  unfold Machine.peekDev
  rw [h.words.mem]

theorem readCells_ext {m m' : List Host.Cell} (h : ∀ j, tget memDefault m j = tget memDefault m' j) (a n : Nat) : readCells m a n = readCells m' a n := by
  induction n generalizing a with
  | zero => rfl
  | succ n ih =>
    unfold readCells
    rw [h, ih]

/-- A word written as it stands changes no byte. -/
theorem peekDev_rewritten (s : State) (a n b k : Nat) : peekDev (pokeDev s a (peekDev s a n)) b k = peekDev s b k := by
  refine readCells_ext (fun j => ?_) b k
  unfold pokeDev peekDev
  rw [tget_writeCells, readCells_length]
  split
  · rw [readCells_getD _ _ _ _ (by omega), show a + (j - a) = j by omega]
  · rfl

/-- A read of a word with one symbol struck finds its data and leaves the word as it was written. -/
theorem visitWord_struck {s : State} {w p : Nat} {v : Byte} (he : errOf s w = upsetSymbol p v) (hm : metaOf s w = 0) (hp : p < 36) (hv : v ≠ 0)
    (scrub : Bool) : ∃ t, visitWord s w scrub = (some (wordData s w), t) ∧ errOf t w = 0 ∧ (∀ b, peekDev t b 1 = peekDev s b 1)
      ∧ t.unfixedDev = s.unfixedDev := by
  have hsettled := settleWord_struck he hm hp
  have hcorrected := onCorrected_undrawn s w p v scrub
  rw [hsettled] at hcorrected
  have hrest : Undrawn (setErr (setTag (pokeDev s (w * 32) (wordData s w)) w { tagOf s w with md := 0 }) w 0)
      { onCorrected s w p v scrub with rewritten := (onCorrected s w p v scrub).rewritten.filter (· != w) } :=
    hcorrected.trans ⟨⟨.of rfl rfl rfl, rfl, rfl, rfl⟩, rfl⟩
  rw [visitWord_eq, checkWord_struck he hm hp hv]
  dsimp only
  generalize ({ onCorrected s w p v scrub with rewritten := _ } : State) = t at hrest ⊢
  have hmeta : metaOf t w = 0 := (hrest.metaOf w).trans ((setTag_metaOf ..).trans (if_pos rfl))
  have hbytes : ∀ b n, peekDev t b n = peekDev s b n := fun b n => (hrest.peekDev b n).trans (peekDev_rewritten ..)
  rw [openWord_plain hmeta]
  refine ⟨t, congrArg (fun d => (some d, t)) (hbytes ..), (hrest.errOf w).trans ((errOf_setErr ..).trans (if_pos rfl)), fun b => hbytes b 1, hrest.unfixed⟩

/-- A demand read of a plain and fixed word with one symbol struck. -/
theorem readWord_struck {s : State} {a p : Nat} {v : Byte} (ha : a < capacity s) (he : errOf s (a / 32) = upsetSymbol p v) (hm : metaOf s (a / 32) = 0)
    (hf : Fixed s (a / 32 * 32) 32) (hp : p < 36) (hv : v ≠ 0) :
    ∃ t, readWord s (a / 32) = (some (wordData s (a / 32)), t) ∧ errOf t (a / 32) = 0 ∧ ∀ b, peekDev t b 1 = peekDev s b 1 := by
  obtain ⟨r, l, hreach⟩ := reached_frame ha
  obtain ⟨t, hvisit, herr, hbytes, hunfixed⟩ := visitWord_struck (s := { s with regs := r, limiter := l }) he hm hp hv false
  refine ⟨t, ?_, herr, hbytes⟩
  unfold readWord
  dsimp only
  rw [hreach, hvisit]
  have hfixed : ∀ x, a / 32 * 32 ≤ x → x < a / 32 * 32 + (wordData s (a / 32)).length → covered t.unfixedDev x = false := by
    rw [wordData_length, hunfixed]
    exact hf
  exact congrArg (fun x : List Byte × State => (some x.1, x.2)) (redraw_fixed hfixed)

/-! ### MEM_READ -/

theorem exec_memRead (s : State) (a : Nat) (u : Upset) : exec (.memRead a u) s = .next (keep s (memReadOn a u s)) := rfl

theorem errOf_upsetWord_zero (s : State) (w v : Nat) : errOf (upsetWord s w 0) v = errOf s v := by
  unfold upsetWord
  rw [errOf_setErr]
  split
  · next h =>
    rw [h]
    exact BitVec.xor_zero
  · rfl

theorem memReadOn_word {s : State} {a : Nat} {u : Upset} {d : List Byte} {t : State} (hup : memoryUp s = true) (ha : a < capacity s)
    (h : readWord (upsetWord s (a / 32) u) (a / 32) = (some d, t)) : memReadOn a u s = answer t d := by
  unfold memReadOn
  rw [hup, if_neg (by decide), if_pos ha, h]

theorem memRead_clean {s : State} {a : Nat} (hup : memoryUp s = true) (ha : a < capacity s) (he : errOf s (a / 32) = 0) (hm : metaOf s (a / 32) = 0)
    (hf : Fixed s (a / 32 * 32) 32) : ∃ t, exec (.memRead a 0) s = .next t ∧ t.port = { data := wordData s (a / 32) } ∧ t.mem = s.mem
      ∧ (∀ w, errOf t w = errOf s w)
      ∧ t = { s with port := t.port, regs := t.regs, limiter := t.limiter, rewritten := t.rewritten, memErr := t.memErr } := by
  have herr := errOf_upsetWord_zero s (a / 32)
  obtain ⟨r, l, x, hread⟩ := readWord_clean (s := upsetWord s (a / 32) 0) ha ((herr _).trans he) hm hf
  rw [exec_memRead, memReadOn_word hup ha hread]
  exact ⟨_, rfl, rfl, rfl, herr, rfl⟩

theorem memRead_struck {s : State} {a p : Nat} {v : Byte} (hup : memoryUp s = true) (ha : a < capacity s) (he : errOf s (a / 32) = 0)
    (hm : metaOf s (a / 32) = 0) (hf : Fixed s (a / 32 * 32) 32) (hp : p < 36) (hv : v ≠ 0) :
    ∃ t, exec (.memRead a (upsetSymbol p v)) s = .next t ∧ t.port = { data := wordData s (a / 32) } ∧ errOf t (a / 32) = 0
      ∧ ∀ b, peekDev t b 1 = peekDev s b 1 := by
  have herr : errOf (upsetWord s (a / 32) (upsetSymbol p v)) (a / 32) = upsetSymbol p v := by
    unfold upsetWord
    rw [errOf_setErr, if_pos rfl, he]
    exact BitVec.zero_xor
  obtain ⟨t, hread, ht, hbytes⟩ := readWord_struck (s := upsetWord s (a / 32) (upsetSymbol p v)) ha herr hm hf hp hv
  rw [exec_memRead, memReadOn_word hup ha hread]
  exact ⟨_, rfl, rfl, ht, hbytes⟩

theorem capacity_lt_slices (s : State) : capacity s < 0x0100_0000_0000 := by
  have := channels_le s
  unfold capacity GiB
  omega

/-- A whole word read through the slices' addresses is one access of its slice. -/
theorem readSlices_word {s t : State} {w : Nat} {d : List Byte} {bad : List Nat}
    (h : serve s (w * 32 / sliceBytes) [.read (w * 32 % sliceBytes) 32 0] = (d, bad, t)) :
    readSlices s (w * 32) 32 3 = (d, bad.map (fun _ => sliceBase + w * 32), t) := by
  unfold readSlices
  rw [if_neg (by decide), show min 32 (32 - w * 32 % 32) = 32 by omega]
  dsimp only
  rw [h]
  dsimp only
  unfold readSlices
  rw [if_pos (Nat.sub_self 32), List.append_nil, List.append_nil, show w * 32 / 32 * 32 = w * 32 by omega]

/-- The word of a slice's address among the words of all slices (Table 12-2). -/
theorem sliceAt_word {a n o : Nat} (h : sliceAt a = some (n, o)) : ∃ w, a / 32 * 32 = sliceBase + w * 32 ∧ w * 32 / sliceBytes = n
    ∧ w * 32 % sliceBytes = o / 32 * 32 ∧ w * 32 + 32 ≤ sliceSpace := by
  unfold sliceAt at h
  split at h
  · next hin =>
    obtain ⟨rfl, rfl⟩ := Prod.mk.inj (Option.some.inj h)
    unfold sliceBytes at hin ⊢
    unfold sliceBase sliceSpace sliceBytes
    exact ⟨(a - 0x0100_0000_0000) / 32, by omega, by omega, by omega, by omega⟩
  · exact absurd h (by simp)

theorem memRead_slice {s : State} {a n o : Nat} (hup : memoryUp s = true) (hat : sliceAt a = some (n, o)) (he : sliceErrOf s n (o / 32) = 0) :
    ∃ t, exec (.memRead a 0) s = .next t ∧ t.port = { data := readCells s.sliceMem (sliceBytes * n + o / 32 * 32) 32 } ∧ t.sliceMem = s.sliceMem
      ∧ t.mem = s.mem := by
  obtain ⟨w, hw, hn, ho, hin⟩ := sliceAt_word hat
  obtain ⟨e, hstruck, herr⟩ := strikeSlice_none s n o 32
  have hbelow := capacity_lt_slices s
  have hlt : o / 32 * 32 < sliceBytes := by rw [← ho]; exact Nat.mod_lt _ (by decide)
  have hword : sliceErrOf { s with sliceErr := e } n (o / 32 * 32 / 32) = 0 := by
    rw [Nat.mul_div_cancel _ (by decide : 0 < 32)]
    exact (herr n (o / 32)).trans he
  obtain ⟨r, f, l, m, e', hserve⟩ := serve_read_clean hlt hword 32
  have hdata : (readCells s.sliceMem (sliceBytes * n + o / 32 * 32) 32).take (min 32 (32 - o / 32 * 32 % 32)) =
      readCells s.sliceMem (sliceBytes * n + o / 32 * 32) 32 := List.take_of_length_le (by rw [readCells_length]; omega)
  rw [hdata] at hserve
  have hslices := readSlices_word (w := w) ((by rw [hn, ho] : serve _ _ _ = _).trans hserve)
  have hread : memReadOn a 0 s = answerBad { s with regs := r, fnRegs := f, limiter := l, marches := m, sliceErr := e' }
      (readCells s.sliceMem (sliceBytes * n + o / 32 * 32) 32) [] := by
    unfold memReadOn readAbove
    rw [hup, if_neg (by decide), if_neg (by unfold sliceBase at hw; omega), hat]
    dsimp only
    rw [hstruck, hw, if_pos ⟨Nat.le_add_right .., by omega⟩, Nat.add_sub_cancel_left]
    exact (congrArg (fun x : List Byte × List Nat × State => answerBad x.2.2 x.1 x.2.1) hslices)
  rw [exec_memRead, hread]
  exact ⟨_, rfl, rfl, rfl, rfl⟩

theorem memRead_hole {s : State} {a : Nat} (hup : memoryUp s = true) (ha : capacity s ≤ a) (hat : sliceAt a = none) (u : Upset) :
    ∃ t, exec (.memRead a u) s = .next t ∧ t.port = { data := List.replicate 32 0 } ∧ t.mem = s.mem ∧ t = { s with port := t.port, peat := t.peat } := by
  have hout : ¬ (sliceBase ≤ a / 32 * 32 ∧ a / 32 * 32 + 32 ≤ sliceBase + sliceSpace) := by
    unfold sliceAt sliceBytes at hat
    unfold sliceBase sliceSpace sliceBytes
    split at hat
    · exact absurd hat (by simp)
    · omega
  obtain ⟨p, hp⟩ := logEvent_frame s (blockId 0x02 0 0) 0x105 noFn (toLE 8 (a / 32 * 32) ++ toLE 1 noFn)
  have hread : memReadOn a u s = answerBad { s with peat := p } (List.replicate 32 0) [] := by
    unfold memReadOn readAbove holeAccess
    rw [hup, if_neg (by decide), if_neg (by omega), hat]
    dsimp only
    rw [if_neg hout]
    dsimp only
    rw [hp]
  rw [exec_memRead, hread]
  exact ⟨_, rfl, rfl, rfl, rfl⟩

/-- Settles O41: plain words by what a channel finds in them, slices by their accesses. -/
theorem memoryRows : Obligations.MemoryRows := by
  unfold Obligations.MemoryRows
  refine ⟨fun pin k beats => pinUpset_symbol, fun s a hup => ⟨fun ha he hm hf => memRead_clean hup ha he hm hf,
    fun p v ha he hm hf hp hv => memRead_struck hup ha he hm hf hp hv, fun n o => memRead_slice hup, fun u ha hat => memRead_hole hup ha hat u, fun b => ?_⟩⟩
  exact congrArg (fun t => Host.Outcome.next (keep s t)) (if_pos hup)

end Sys2Proof.Machine

/-! # Scrubbing, injection and row repair (O42) -/

namespace Sys2Proof.Machine

/-- What accesses of memory leave of the scrubber's positions and of the repairs. -/
theorem OnlyMemory.repairState {s t : State} (h : OnlyMemory s t) : t.scrubPos = s.scrubPos ∧ t.repairs = s.repairs ∧ t.rowRepairs = s.rowRepairs := by
  obtain ⟨_, _, _, _, _, _, _, _, _, _, _, _, _, _, _, _, _, _, _, _, rfl, -, -⟩ := h
  exact ⟨rfl, rfl, rfl⟩

/-! ### The scrubber (R294) -/

theorem scrubNext_row {s : State} {ch : Nat} (hch : ch < 48) : (scrubNext s ch).mem = s.mem ∧ tget (fun _ => 0) (scrubNext s ch).scrubPos ch
    = if tget (fun _ => 0) s.scrubPos ch + 1 < 18 * 2 ^ 25 then tget (fun _ => 0) s.scrubPos ch + 1 else 0 := by
  unfold scrubNext
  extract_lets p n s1 s2
  obtain ⟨r, hr⟩ := setFld_frame (isPerFn_channelPage hch (by decide : 0x70 < 4096)) s1 0 27 (n / 8)
  have h2 : s2.mem = s.mem ∧ tget (fun _ => 0) s2.scrubPos ch = n := by
    unfold s2
    rw [hr]
    exact ⟨rfl, tget_tset_same ..⟩
  clear_value s2
  split
  · exact h2
  · exact h2

theorem scrub_row {s : State} {ch w : Nat} {u : Upset} (hch : ch < channels s) (hch' : ch < 48) (hup : memoryUp s = true) (hstate : channelState s ch = 0)
    (hon : fld s (mcWide 0x10C) 8 1 = 1) (hw : unplace ch (tget (fun _ => 0) s.scrubPos ch * 32) (channels s) / 32 = w) :
    exec (.scrub ch u) s = .next (keep s (scrubNext (visitWord (upsetWord s w u) w true).2 ch))
      ∧ ∃ t, exec (.scrub ch u) s = .next t
        ∧ tget (fun _ => 0) t.scrubPos ch = (if tget (fun _ => 0) s.scrubPos ch + 1 < 18 * 2 ^ 25 then tget (fun _ => 0) s.scrubPos ch + 1 else 0)
        ∧ ∀ b, b / 32 ≠ w → peekDev t b 1 = peekDev s b 1 := by
  have hrun : ¬ (channels s ≤ ch ∨ memoryUp s = false ∨ channelState s ch ≠ 0 ∨ fld s (mcWide 0x10C) 8 1 = 0) := by
    rw [hup, hstate, hon]
    simp only [Bool.true_eq_false, ne_eq, not_true_eq_false, one_ne_zero, or_false]
    omega
  have hexec : exec (.scrub ch u) s = .next (keep s (scrubNext (visitWord (upsetWord s w u) w true).2 ch)) := by
    rw [← hw]
    exact (onMemory_eq hch').trans (congrArg (fun t => Host.Outcome.next (keep s t)) (if_neg hrun))
  refine ⟨hexec, _, hexec, ?_⟩
  obtain ⟨hpos, -⟩ := (visitWord_only (upsetWord s w u) w true).repairState
  obtain ⟨hmem, hnext⟩ := scrubNext_row (s := (visitWord (upsetWord s w u) w true).2) hch'
  rw [hpos] at hnext
  refine ⟨hnext, fun b hb => congrArg (fun x => [x]) ?_⟩
  exact (congrArg (tget memDefault · b) hmem).trans ((visitWord_onlyAt (upsetWord s w u) w true).bytes b hb)

/-! ### Injected errors (R481) -/

theorem mapIdx_upset {c : List Byte} {e : Upset} {f : Nat → Byte} (hc : c.length = 36) (h : ∀ i, i < 36 → upsetAt e i = f i) :
    c.mapIdx (fun i x => x ^^^ upsetAt e i) = c.mapIdx (fun i x => x ^^^ f i) := by
  refine List.ext_getElem (by rw [List.length_mapIdx, List.length_mapIdx]) (fun i hi _ => ?_)
  rw [List.length_mapIdx, hc] at hi
  rw [List.getElem_mapIdx, List.getElem_mapIdx, h i hi]

theorem mapIdx_upset_one {c : List Byte} {e : Upset} {p : Nat} {v : Byte} (hc : c.length = 36) (h : ∀ i, i < 36 → upsetAt e i = if i = p then v else 0) :
    c.mapIdx (fun i x => x ^^^ upsetAt e i) = spoil p v c := by
  rw [mapIdx_upset hc h]
  unfold spoil
  congr 1
  funext i x
  split
  · rfl
  · exact BitVec.xor_zero

theorem injectPattern_single {p : Nat} (hp : p < 36) : injectPattern p = upsetSymbol p 0x01 := by
  have hbit : bits p 6 1 = 0 := by unfold bits; omega
  unfold injectPattern
  dsimp only
  rw [hbit, if_neg (by decide), Nat.mod_eq_of_lt (by omega)]
  exact BitVec.xor_zero

theorem injectPattern_double {p : Nat} (hp : p < 36) : injectPattern (64 + p) = upsetSymbol p 0x01 ^^^ upsetSymbol ((p + 1) % 36) 0x02 := by
  have hbit : bits (64 + p) 6 1 = 1 := by unfold bits; omega
  unfold injectPattern
  dsimp only
  rw [hbit, if_pos rfl, show (64 + p) % 64 = p by omega]
  rfl

theorem upsetAt_double {p i : Nat} (hp : p < 36) (hi : i < 36) : upsetAt (injectPattern (64 + p)) i
    = if i = p then 0x01 else if i = (p + 1) % 36 then 0x02 else 0 := by
  rw [injectPattern_double hp, upsetAt_xor, upsetAt_upsetSymbol hp hi, upsetAt_upsetSymbol (Nat.mod_lt _ (by decide)) hi]
  split
  · next h =>
    rw [if_neg (by omega)]
    rfl
  · exact BitVec.zero_xor

/-- A word written while its channel was armed reads as corrected at the position, or as uncorrectable. -/
theorem decodeWord_injected {d : List Byte} (hd : d.length = 32) (md : Byte) {p : Nat} (hp : p < 36) :
    decodeWord ((encodeWord d md).mapIdx (fun i c => c ^^^ upsetAt (injectPattern p) i)) = .corrected p 0x01
      ∧ decodeWord ((encodeWord d md).mapIdx (fun i c => c ^^^ upsetAt (injectPattern (64 + p)) i)) = .uncorrectable 0x03 := by
  have hlen := encodeWord_length hd md
  have hp' : (p + 1) % 36 < 36 := Nat.mod_lt _ (by decide)
  have hne : p ≠ (p + 1) % 36 := by omega
  constructor
  · rw [injectPattern_single hp, mapIdx_upset_one hlen (fun i hi => upsetAt_upsetSymbol hp hi _)]
    exact decodeWord_spoil hd md hp (by decide)
  · have hdouble : (encodeWord d md).mapIdx (fun i c => c ^^^ upsetAt (injectPattern (64 + p)) i) = spoil p 0x01 (spoil ((p + 1) % 36) 0x02 (encodeWord d md)) := by
      rw [mapIdx_upset hlen (fun i hi => upsetAt_double hp hi), ← spoil_spoil hne]
      congr 1
      funext i x
      split_ifs
      · rfl
      · rfl
      · exact BitVec.xor_zero
    rw [hdouble]
    exact decodeWord_of_two_spoils hd md hp hp' hne (by decide) (by decide)

theorem mcInjectWrite_row {s : State} (hs : Answers s 0) {ch : Nat} (hch : ch < 48) (hch' : ch < channels s) (hpark : pageParked s (channelPage ch) = false)
    (v : U32) : (v.toNat % 64 < 36 → exec (.mcInjectWrite 0 ch v) s = .next (setReg s 0 (reg (channelPage ch) 0x11C) (v.toNat % 256)))
      ∧ (36 ≤ v.toNat % 64 → exec (.mcInjectWrite 0 ch v) s = .next s) := by
  have hexec : exec (.mcInjectWrite 0 ch v) s = .next (keep s (mcInjectWriteOn 0 ch v s)) := (if_pos hch).trans (onBar0_eq hs)
  have hon : mcInjectWriteOn 0 ch v s = if 36 ≤ v.toNat % 64 then s else setReg s 0 (reg (channelPage ch) 0x11C) (v.toNat % 256) := by
    unfold mcInjectWriteOn
    rw [hpark, if_neg (by simp only [ne_eq, not_true_eq_false, false_or]; omega)]
    rfl
  constructor
  · intro hv
    obtain ⟨r, hr⟩ := setReg_frame (isPerFn_channelPage hch (by decide : 0x11C < 4096)) s 0 (v.toNat % 256)
    rw [hexec, hon, if_neg (by omega), hr]
    rfl
  · intro hv
    rw [hexec, hon, if_pos hv, keep_self]

/-! ### Repair of rows (R296, R297) -/

/-- Recording a row for hard repair. -/
theorem recordRow_frame {s : State} {ch : Nat} (hch : ch < 48) (k : Nat) :
    ∃ h r, recordRow s ch k = { s with flash := { s.flash with hardRows := h }, regs := r } ∧ (rowPhys k, rowNumber k) ∈ h := by
  unfold recordRow
  extract_lets e f s1 a
  split
  · next h => exact ⟨_, _, rfl, List.contains_iff_mem.1 h⟩
  · obtain ⟨r, hr⟩ := setFld_frame (isPerFn_channelPage hch (by decide : 0x54 < 4096)) s1 8 8 (satAdd 8 (fld s1 a 8 8) 1)
    exact ⟨_, r, hr, List.mem_append_right _ (List.mem_singleton_self e)⟩

theorem not_mem_clearRow (s : State) (k : Nat) : k ∉ (clearRow s k).faultyRows := by
  unfold clearRow
  simp

/-- Marking a channel for retirement. -/
theorem markChannel_row (s : State) (ch why : Nat) : physChannel s ch ∈ (markChannel s ch why).flash.retireMarks
    ∧ (markChannel s ch why).repairs = s.repairs ∧ (markChannel s ch why).faultyRows = s.faultyRows ∧ (markChannel s ch why).rowRepairs = s.rowRepairs := by
  unfold markChannel
  extract_lets p f s1 s2
  split
  · next h => exact ⟨List.contains_iff_mem.1 h, rfl, rfl, rfl⟩
  · have h2 : OnlyFlags s1 s2 := degrade_only ..
    clear_value s2
    obtain ⟨_, _, _, rfl⟩ := h2
    obtain ⟨_, hlog⟩ := logEvent_frame { s1 with regs := _, fnRegs := _, pcie := _ } (channelBlock ch) 0x104 noFn (toLE 1 p ++ [Config.logCode (5 + why)])
    rw [hlog]
    exact ⟨List.mem_append_right _ (List.mem_singleton_self p), rfl, rfl, rfl⟩

/-- A row belongs to its word's channel. -/
theorem rowPhys_rowKey {s : State} {a : Nat} (h : a < capacity s) : rowPhys (rowKey s (a / 32)) = physChannel s (wordPlace s (a / 32)).1 := by
  have hoff : (wordPlace s (a / 32)).2 < 18 * 2 ^ 30 := by
    unfold capacity GiB at h
    exact (place_lt (by omega) (by omega)).2
  unfold rowPhys rowKey
  dsimp only
  omega

theorem rowRepairOn_eq {s : State} {a : Nat} (ha : a < capacity s) (hup : memoryUp s = true) (hfaulty : s.faultyRows.contains (rowKey s (a / 32)) = true)
    (hfree : s.repairs.any (fun e => e.1 == (wordPlace s (a / 32)).1) = false) (way : RowFix) : rowRepairOn a way s = match way with
      | .soft => recordRow { s with repairs := tput s.repairs (wordPlace s (a / 32)).1 (rowKey s (a / 32)) } (wordPlace s (a / 32)).1 (rowKey s (a / 32))
      | .hardOnly => recordRow (clearRow s (rowKey s (a / 32))) (wordPlace s (a / 32)).1 (rowKey s (a / 32))
      | .noSpare => markChannel (clearRow s (rowKey s (a / 32))) (wordPlace s (a / 32)).1 1 := by
  have hrun : ¬ (capacity s ≤ a ∨ memoryUp s = false ∨ s.faultyRows.contains (rowKey s (a / 32)) = false
      ∨ s.repairs.any (fun e => e.1 == (wordPlace s (a / 32)).1) = true) := by
    rw [hup, hfaulty, hfree]
    simp only [Bool.true_eq_false, Bool.false_eq_true, or_false]
    omega
  exact if_neg hrun

theorem exec_rowRepair (s : State) (a : Nat) (way : RowFix) : exec (.rowRepair a way) s = .next (keep s (rowRepairOn a way s)) := rfl

/-- The three ways to repair a row. -/
theorem rowRepair_row {s : State} {a : Nat} (ha : a < capacity s) (hup : memoryUp s = true) {ch k : Nat} (hch : (wordPlace s (a / 32)).1 = ch)
    (hk : rowKey s (a / 32) = k) (hfaulty : s.faultyRows.contains k = true) (hfree : s.repairs.any (fun e => e.1 == ch) = false) :
    (∃ t, exec (.rowRepair a .soft) s = .next t ∧ t.repairs = tput s.repairs ch k ∧ (rowPhys k, rowNumber k) ∈ t.flash.hardRows
        ∧ t = { s with repairs := t.repairs, flash := { s.flash with hardRows := t.flash.hardRows }, regs := t.regs })
      ∧ (∃ t, exec (.rowRepair a .hardOnly) s = .next t ∧ k ∉ t.faultyRows ∧ (rowPhys k, rowNumber k) ∈ t.flash.hardRows ∧ t.repairs = s.repairs)
      ∧ (∃ t, exec (.rowRepair a .noSpare) s = .next t ∧ k ∉ t.faultyRows ∧ rowPhys k ∈ t.flash.retireMarks ∧ t.repairs = s.repairs) := by
  have hch48 : ch < 48 := hch ▸ (wordPlace_lt ha).2
  have hphys : rowPhys k = physChannel s ch := hk ▸ hch ▸ rowPhys_rowKey ha
  have hon := rowRepairOn_eq ha hup (hk.symm ▸ hfaulty) (hch.symm ▸ hfree)
  rw [hch, hk] at hon
  refine ⟨?soft, ?hardOnly, ?noSpare⟩
  case soft =>
    obtain ⟨h, r, hrecord, hmem⟩ := recordRow_frame (s := { s with repairs := tput s.repairs ch k }) hch48 k
    rw [exec_rowRepair, hon]
    dsimp only
    rw [hrecord]
    exact ⟨_, rfl, rfl, hmem, rfl⟩
  case hardOnly =>
    obtain ⟨h, r, hrecord, hmem⟩ := recordRow_frame (s := clearRow s k) hch48 k
    rw [exec_rowRepair, hon]
    dsimp only
    rw [hrecord]
    exact ⟨_, rfl, not_mem_clearRow s k, hmem, rfl⟩
  case noSpare =>
    obtain ⟨hmark, hrepairs, hrows, -⟩ := markChannel_row (clearRow s k) ch 1
    rw [exec_rowRepair, hon]
    refine ⟨_, rfl, ?_, hphys ▸ hmark, hrepairs⟩
    exact fun hk => not_mem_clearRow s k (hrows ▸ hk)

theorem settleRow_only (s : State) (k : Nat) : OnlyMemory s (settleRow s k) :=
  List.foldlRecOn _ _ (.refl s) (fun t ht w _ => ht.trans (visitWord_only t w false))

theorem rowRepairDone_row {s : State} {ch k : Nat} (hch : ch < 48) (h : s.repairs.find? (fun e => e.1 == ch) = some (ch, k)) :
    ∃ t, exec (.rowRepairDone ch) s = .next t ∧ t.repairs = tdel s.repairs ch ∧ k ∉ t.faultyRows
      ∧ tget (fun _ => 0) t.rowRepairs (rowPhys k) = tget (fun _ => 0) s.rowRepairs (rowPhys k) + 1 := by
  obtain ⟨-, hrepairs, hcounts⟩ := (settleRow_only s k).repairState
  refine ⟨_, onMemory_eq hch, ?_⟩
  show (rowRepairDoneOn ch s).repairs = _ ∧ k ∉ (rowRepairDoneOn ch s).faultyRows ∧ tget _ (rowRepairDoneOn ch s).rowRepairs _ = _
  unfold rowRepairDoneOn
  split
  · next hnone => exact absurd (h.symm.trans hnone) (by simp)
  · next e he =>
    obtain rfl : (ch, k) = e := Option.some.inj (h.symm.trans he)
    extract_lets k' s1 s2 a s3 s4 n s5
    have h1 : s1.rowRepairs = s.rowRepairs ∧ s1.repairs = s.repairs ∧ k ∉ s1.faultyRows := ⟨hcounts, hrepairs, not_mem_clearRow (settleRow s k) k⟩
    have h4 : s4.rowRepairs = s.rowRepairs ∧ s4.repairs = tdel s.repairs ch ∧ k ∉ s4.faultyRows := by
      obtain ⟨hc, hr, hk⟩ := h1
      obtain ⟨r, hset⟩ := setFld_frame (isPerFn_channelPage hch (by decide : 0x54 < 4096)) s2 0 8 (satAdd 8 (fld s2 a 0 8) 1)
      obtain ⟨p, hlog⟩ := logEvent_frame s3 (channelBlock ch) 0x103 noFn (toLE 1 (rowPhys k) ++ toLE 4 (rowNumber k) ++ [Config.logCode 8])
      unfold s4
      rw [hlog]
      unfold s3
      rw [hset]
      exact ⟨hc, congrArg (tdel · ch) hr, hk⟩
    clear_value s4
    obtain ⟨hc, hr, hk⟩ := h4
    have h5 : tget (fun _ => 0) s5.rowRepairs (rowPhys k) = tget (fun _ => 0) s.rowRepairs (rowPhys k) + 1 := by
      rw [← hc]
      exact tget_tset_same (fun _ => 0) s4.rowRepairs (rowPhys k) n
    split
    · obtain ⟨-, hm, hm', hm''⟩ := markChannel_row s5 ch 2
      rw [hm, hm', hm'']
      exact ⟨hr, hk, h5⟩
    · exact ⟨hr, hk, h5⟩

/-- Settles O42: the scrubber's visit, the injections by the code, and repairs by what each way records. -/
theorem repairRows : Obligations.RepairRows := by
  unfold Obligations.RepairRows
  refine ⟨fun s ch u hch hch' hup hstate hon => scrub_row hch hch' hup hstate hon rfl, ⟨fun d md p hd hp => decodeWord_injected hd md hp,
    fun s ch v hs hch hch' hpark => mcInjectWrite_row hs hch hch' hpark v⟩, fun s => ⟨fun a ha hup => rowRepair_row ha hup rfl rfl, fun ch k => rowRepairDone_row⟩⟩

end Sys2Proof.Machine

/-! # Seals of partitions (O43)

A new key asks the random source for a block, which may serve waiting consumers at once: none of that touches the functions' partitions
and their seals. -/

namespace Sys2Proof.Machine

/-! ### What says which words a seal covers -/

/-- t has the partitions and the seals of s. -/
structure SameSeals (s t : State) : Prop where
  part : t.part = s.part
  retired : t.flash.retired = s.flash.retired
  fns : t.fns = s.fns
  seals : t.seals = s.seals

theorem SameSeals.refl (s : State) : SameSeals s s := ⟨rfl, rfl, rfl, rfl⟩

theorem SameSeals.trans {s t u : State} (h : SameSeals s t) (k : SameSeals t u) : SameSeals s u :=
  ⟨k.part.trans h.part, k.retired.trans h.retired, k.fns.trans h.fns, k.seals.trans h.seals⟩

theorem SameSeals.sealOf {s t : State} (h : SameSeals s t) (fn : Nat) : sealOf t fn = sealOf s fn := by
  unfold Machine.sealOf
  rw [h.seals]

theorem SameSeals.partition {s t : State} (h : SameSeals s t) (fn : Nat) : partition t fn = partition s fn := by
  unfold Machine.partition fnOf firmwareArea channels
  rw [h.part, h.retired, h.fns]

theorem OnlyMemory.sameSeals {s t : State} (h : OnlyMemory s t) : SameSeals s t := by
  obtain ⟨hpart, hretired, -, -, -, hfns, hseals⟩ := h.seals
  exact ⟨hpart, hretired, hfns, hseals⟩

/-! ### A request to the random source (R384, R385) -/

theorem addWaiter_frame (s : State) (w : Waiter) : ∃ r, addWaiter s w = { s with rng := r } := by
  unfold addWaiter
  split <;> exact ⟨_, rfl⟩

theorem addWaiter_sameSeals (s : State) (w : Waiter) : SameSeals s (addWaiter s w) := by
  obtain ⟨_, h⟩ := addWaiter_frame s w
  rw [h]
  exact ⟨rfl, rfl, rfl, rfl⟩

theorem writeSpan_sameSeals (s : State) (fn : Nat) (p : Span) (off : Nat) (b : List Byte) : SameSeals s (writeSpan s fn p off b) := by
  have h := writeSpan_only s fn p off b
  split at h
  · rw [h]
    exact ⟨rfl, rfl, rfl, rfl⟩
  · exact h.sameSeals

theorem updateCmd_sameSeals (s : State) (q : Nat) (f : Cmd → Cmd) : SameSeals s (updateCmd s q f) := by
  unfold updateCmd
  split
  · exact ⟨rfl, rfl, rfl, rfl⟩
  · exact .refl s

theorem finishTo_sameSeals (s : State) (q : Nat) (o : Outcome3) (dest : Option (Nat × Span)) : SameSeals s (finishTo s q o dest) := by
  obtain ⟨_, h⟩ := finishTo_only s q o dest
  rw [h]
  exact ⟨rfl, rfl, rfl, rfl⟩

theorem giveFill_sameSeals (s : State) (q : Nat) (b : BitVec 512) (w : Waiter) : SameSeals s (giveFill s q b w) := by
  unfold giveFill
  split
  · next inner c _ =>
    split
    · extract_lets dst n s1 s2
      have h2 : SameSeals s s2 := (writeSpan_sameSeals ..).trans (updateCmd_sameSeals ..)
      clear_value s2
      split
      · exact h2.trans (finishTo_sameSeals ..)
      · exact h2.trans (addWaiter_sameSeals ..)
    · exact .refl s
  · exact .refl s

theorem giveSeed_sameSeals (s : State) (q : Nat) (b : BitVec 512) : SameSeals s (giveSeed s q b) := by
  unfold giveSeed
  split
  · exact ⟨rfl, rfl, rfl, rfl⟩
  · exact .refl s

theorem giveBlock_sameSeals (s : State) (w : Waiter) (b : BitVec 512) : SameSeals s (giveBlock s w b) := by
  unfold giveBlock
  extract_lets s1
  have h1 : SameSeals s s1 := .trans (t := dropWaiter s w) ⟨rfl, rfl, rfl, rfl⟩ (add64_only ..).memory.sameSeals
  clear_value s1
  split
  · exact h1.trans ⟨rfl, rfl, rfl, rfl⟩
  · split
    · exact h1.trans (giveSeed_sameSeals ..)
    · split
      · exact h1.trans (giveFill_sameSeals ..)
      · exact h1.trans ⟨rfl, rfl, rfl, rfl⟩

theorem setPool_sameSeals (s : State) (p : List (BitVec 512)) : SameSeals s (setPool s p) :=
  .trans (t := { s with rng := { s.rng with pool := p } }) ⟨rfl, rfl, rfl, rfl⟩ (setFld_only ..).memory.sameSeals

theorem servePool_sameSeals (s : State) (n : Nat) : SameSeals s (servePool s n) := by
  induction n generalizing s with
  | zero => exact .refl s
  | succ n ih =>
    unfold servePool
    split
    · exact (setPool_sameSeals ..).trans ((giveBlock_sameSeals ..).trans (ih _))
    · exact .refl s

theorem request_sameSeals (s : State) (w : Waiter) : SameSeals s (request s w) := (addWaiter_sameSeals ..).trans (servePool_sameSeals ..)

/-- With no block in the pool a request waits. -/
theorem request_empty {s : State} (h : s.rng.pool = []) (w : Waiter) : request s w = addWaiter s w := by
  have hpool : (addWaiter s w).rng.pool = [] := by
    unfold addWaiter
    split <;> exact h
  unfold request servePool
  rw [hpool]

/-! ### A new sealing key -/

theorem newSealKey_fst (s : State) : (newSealKey s).1 = s.keys + 1 := rfl

theorem newSealKey_sameSeals (s : State) : SameSeals s (newSealKey s).2 := by
  unfold newSealKey drawDrbg
  exact .trans (t := { s with keys := s.keys + 1, enclave := { s.enclave with drbgCount := s.enclave.drbgCount + 1 } }) ⟨rfl, rfl, rfl, rfl⟩
    (request_sameSeals ..)

theorem newSealKey_empty {s : State} (h : s.rng.pool = []) : ∃ e r, (newSealKey s).2 = { s with keys := s.keys + 1, enclave := e, rng := r } := by
  obtain ⟨r, hr⟩ := addWaiter_frame { s with keys := s.keys + 1, enclave := { s.enclave with drbgCount := s.enclave.drbgCount + 1 } }
    { rank := 1, queue := false, who := 0 }
  refine ⟨_, r, (request_empty ?_ _).trans hr⟩
  exact h

/-! ### Words made zero -/

/-- Entries that a filter over keys leaves, and the default of the rest. -/
theorem tget_filter {α : Type} (d : Nat → α) (t : Table α) (p : Nat → Bool) (k : Nat) :
    tget d (t.filter (fun e => p e.1)) k = if p k = true then tget d t k else d k := by
  induction t with
  | nil => simp [tget]
  | cons e r ih =>
    obtain ⟨a, v⟩ := e
    by_cases hp : p a = true
    · rw [List.filter_cons_of_pos (by exact hp)]
      unfold tget
      by_cases hk : a = k
      · subst hk
        rw [if_pos rfl, if_pos hp, if_pos rfl]
      · rw [if_neg hk, if_neg hk, ih]
    · rw [List.filter_cons_of_neg (by exact hp), ih]
      by_cases hk : a = k
      · subst hk
        rw [if_neg hp, if_neg hp]
      · exact if_congr Iff.rfl (if_neg hk).symm rfl

theorem peekDev_clearRange (s : State) (lo hi a : Nat) : peekDev (clearRange s lo hi) a 1 = if lo ≤ a ∧ a < hi then [0] else peekDev s a 1 := by
  have h := tget_filter memDefault s.mem (fun k => decide (k < lo) || decide (hi ≤ k)) a
  refine (congrArg (fun x => [x]) h).trans ?_
  by_cases hin : lo ≤ a ∧ a < hi
  · have hout : ¬ ((decide (a < lo) || decide (hi ≤ a)) = true) := by
      simp only [Bool.or_eq_true, decide_eq_true_eq]
      omega
    rw [if_pos hin, if_neg hout]
    rfl
  · have hout : (decide (a < lo) || decide (hi ≤ a)) = true := by
      simp only [Bool.or_eq_true, decide_eq_true_eq]
      omega
    rw [if_neg hin, if_pos hout]
    rfl

theorem peekDev_zeroRange (s : State) (lo hi a : Nat) (t : Tag) : peekDev (zeroRange s lo hi t) a 1 = if lo ≤ a ∧ a < hi then [0] else peekDev s a 1 :=
  peekDev_clearRange s lo hi a

theorem zeroRange_inside {s : State} {lo hi a : Nat} (hlo : lo ≤ a) (hhi : a < hi) (t : Tag) : peekDev (zeroRange s lo hi t) a 1 = [0] :=
  (peekDev_zeroRange ..).trans (if_pos ⟨hlo, hhi⟩)

theorem zeroRange_outside {s : State} {lo hi a : Nat} (h : a < lo ∨ hi ≤ a) (t : Tag) : peekDev (zeroRange s lo hi t) a 1 = peekDev s a 1 :=
  (peekDev_zeroRange ..).trans (if_neg (by omega))

/-! ### MC_SEAL_ENABLE, MC_SEAL_DISABLE and REKEY (R298, R299) -/

/-- The seal that a partition has when it is sealed anew. -/
def Seal.fresh (v : Seal) (k : Nat) : Seal :=
  { v with enabled := true, version := 1, previous := 0, key := k, prevKey := 0, rekeyBusy := false, zeroing := true }

/-- The seal while a partition is rekeyed with key k. -/
def Seal.rekeying (v : Seal) (k : Nat) : Seal :=
  { v with version := nextVersion v.version, previous := v.version, key := k, prevKey := v.key, rekeyBusy := true }

theorem sealAnew_eq (s : State) (f : Nat) : sealAnew s f = zeroRange (setSeal (newSealKey s).2 f ((sealOf s f).fresh (s.keys + 1)))
    (partition s f).1 (partition s f).2 { md := mkMeta false 1, key := s.keys + 1 } := by
  have hkeep := newSealKey_sameSeals s
  rw [← hkeep.sealOf f, ← hkeep.partition f]
  rfl

theorem sealOf_zeroRange_setSeal (s : State) (f lo hi : Nat) (v : Seal) (t : Tag) : sealOf (zeroRange (setSeal s f v) lo hi t) f = v :=
  (sealOf_setSeal s f f v).trans (if_pos rfl)

theorem sealOf_sealAnew (s : State) (f : Nat) : sealOf (sealAnew s f) f = (sealOf s f).fresh (s.keys + 1) := by
  rw [sealAnew_eq, sealOf_zeroRange_setSeal]

theorem exec_mcSeal {s : State} (hs : Answers s 0) (f : State → State) : onBar0 0 s (mcSealOn 0 f) = .next (keep s (f s)) := onBar0_eq hs

section Selected
variable {s : State} {f : Nat} (hs : Answers s 0) (hf : sealSel s = f)
include hs hf

theorem mcSealEnable_row (henabled : (sealOf s f).enabled = false) (hquiet : fnQuiet s f = true) (happroved : approved s = true) :
    exec (.mcSealEnable 0) s = .next (keep s (sealAnew s f))
      ∧ (sealOf (sealAnew s f) f).enabled = true ∧ (sealOf (sealAnew s f) f).version = 1 ∧ (sealOf (sealAnew s f) f).previous = 0
      ∧ (sealOf (sealAnew s f) f).zeroing = true
      ∧ (∀ a, (partition s f).1 ≤ a → a < (partition s f).2 → peekDev (sealAnew s f) a 1 = [0])
      ∧ ∀ a, s.rng.pool = [] → a < (partition s f).1 ∨ (partition s f).2 ≤ a → peekDev (sealAnew s f) a 1 = peekDev s a 1 := by
  have henable : sealEnable s = sealAnew s f := by
    unfold sealEnable
    dsimp only
    rw [hf, henabled, hquiet, happroved]
    exact (if_neg (by simp)).trans (if_pos rfl)
  refine ⟨(exec_mcSeal hs sealEnable).trans (by rw [henable]), ?_⟩
  rw [sealOf_sealAnew]
  refine ⟨rfl, rfl, rfl, rfl, ?_, ?_⟩
  · intro a hlo hhi
    rw [sealAnew_eq]
    exact zeroRange_inside hlo hhi _
  · intro a hpool ha
    obtain ⟨e, r, hkey⟩ := newSealKey_empty hpool
    rw [sealAnew_eq, zeroRange_outside ha, hkey]
    rfl

theorem mcSealEnable_idle (h : (sealOf s f).enabled = true ∨ fnQuiet s f = false) : exec (.mcSealEnable 0) s = .next s := by
  have henable : sealEnable s = s := by
    unfold sealEnable
    dsimp only
    rw [hf]
    exact if_pos h
  exact (exec_mcSeal hs sealEnable).trans (by rw [henable, keep_self])

theorem mcSealDisable_row (henabled : (sealOf s f).enabled = true) (hquiet : fnQuiet s f = true) :
    exec (.mcSealDisable 0) s = .next (keep s (zeroRange (setSeal s f { zeroing := true }) (partition s f).1 (partition s f).2 {})) := by
  have hdisable : sealDisable s = zeroRange (setSeal s f { zeroing := true }) (partition s f).1 (partition s f).2 {} := by
    unfold sealDisable
    dsimp only
    rw [hf, henabled, hquiet]
    exact if_neg (by simp)
  exact (exec_mcSeal hs sealDisable).trans (by rw [hdisable])

theorem mcSealDisable_idle (h : (sealOf s f).enabled = false ∨ fnQuiet s f = false) : exec (.mcSealDisable 0) s = .next s := by
  have hdisable : sealDisable s = s := by
    unfold sealDisable
    dsimp only
    rw [hf]
    exact if_pos h
  exact (exec_mcSeal hs sealDisable).trans (by rw [hdisable, keep_self])

theorem rekey_row (henabled : (sealOf s f).enabled = true) (hversion : (sealOf s f).version ≠ 0) (hbusy : (sealOf s f).rekeyBusy = false)
    (hzeroing : (sealOf s f).zeroing = false) (hquiet : fnQuiet s f = true) (happroved : approved s = true) :
    ∃ t, exec (.rekey 0) s = .next t ∧ sealOf t f = (sealOf s f).rekeying (s.keys + 1) ∧ (∀ n, n ≠ f → sealOf t n = sealOf s n)
      ∧ (s.rng.pool = [] → t = { s with seals := t.seals, keys := s.keys + 1, enclave := t.enclave, rng := t.rng }) := by
  have hrekey : sealRekey s = setSeal (newSealKey s).2 f ((sealOf s f).rekeying (s.keys + 1)) := by
    unfold sealRekey
    dsimp only
    rw [hf]
    exact (if_neg (by rw [henabled, hbusy, hzeroing, hquiet]; simpa using hversion)).trans (if_pos happroved)
  have hkeep := newSealKey_sameSeals s
  have hseals : ∀ n, sealOf (keep s (setSeal (newSealKey s).2 f ((sealOf s f).rekeying (s.keys + 1)))) n =
      if n = f then (sealOf s f).rekeying (s.keys + 1) else sealOf (newSealKey s).2 n := fun n => sealOf_setSeal _ _ n _
  refine ⟨_, (exec_mcSeal hs sealRekey).trans (by rw [hrekey]), (hseals f).trans (if_pos rfl), fun n hn => ?_, fun hpool => ?_⟩
  · exact ((hseals n).trans (if_neg hn)).trans (hkeep.sealOf n)
  · obtain ⟨e, r, hkey⟩ := newSealKey_empty hpool
    rw [hkey]
    rfl

theorem rekey_idle (h : (sealOf s f).enabled = false ∨ (sealOf s f).rekeyBusy = true ∨ fnQuiet s f = false) : exec (.rekey 0) s = .next s := by
  have hrekey : sealRekey s = s := by
    unfold sealRekey
    dsimp only
    rw [hf]
    refine if_pos ?_
    obtain h | h | h := h
    · exact .inl h
    · exact .inr (.inr (.inl h))
    · exact .inr (.inr (.inr (.inr h)))
  exact (exec_mcSeal hs sealRekey).trans (by rw [hrekey, keep_self])

end Selected

/-! ### The end of a rewrite -/

theorem exec_sealRewriteDone {s t : State} {n : Nat} (hn : n < 17) (h : sealRewriteDoneOn n s = t) : exec (.sealRewriteDone n) s = .next (keep s t) :=
  onIndex_next hn h

theorem sealRewriteDone_row {s : State} {n : Nat} (hn : n < 16) :
    ((sealOf s n).zeroing = true → exec (.sealRewriteDone n) s = .next (setSeal s n { sealOf s n with zeroing := false, byFlr := false }))
    ∧ ((sealOf s n).zeroing = false → (sealOf s n).rekeyBusy = true →
        exec (.sealRewriteDone n) s = .next (keep s (setSeal (rekeyRange s (partition s n).1 (partition s n).2
          { md := mkMeta false (sealOf s n).version, key := (sealOf s n).key }) n { sealOf s n with rekeyBusy := false, previous := 0, prevKey := 0 })))
    ∧ ((sealOf s n).zeroing = false → (sealOf s n).rekeyBusy = false → exec (.sealRewriteDone n) s = .next s) := by
  have hne : ¬ n = 16 := by omega
  refine ⟨fun hz => ?_, fun hz hb => exec_sealRewriteDone (by omega) ?_, fun hz hb => ?_⟩
  · refine (exec_sealRewriteDone (t := setSeal s n { sealOf s n with zeroing := false, byFlr := false }) (by omega) ?_).trans rfl
    unfold sealRewriteDoneOn
    rw [if_neg hne]
    exact if_pos hz
  · unfold sealRewriteDoneOn
    rw [if_neg hne]
    dsimp only
    rw [hz, hb]
    rfl
  · refine (exec_sealRewriteDone (t := s) (by omega) ?_).trans (by rw [keep_self])
    unfold sealRewriteDoneOn
    rw [if_neg hne]
    dsimp only
    rw [hz, hb]
    rfl

/-- The rewrite of the firmware area ends before READY. -/
theorem sealRewriteDone_area {s : State} (hphase : phaseOf s = 8) (hsealed : s.areaSealed = false) (hseed : s.enclave.drbgSeed.isSome = true)
    (happroved : approved s = true) : ∃ t, exec (.sealRewriteDone 16) s = .next t ∧ t.areaSealed = true ∧ t.areaKey = true
      ∧ (∀ a, firmwareArea s ≤ a → a < capacity s → peekDev t a 1 = [0]) ∧ ∀ a, a < firmwareArea s → peekDev t a 1 = peekDev s a 1 := by
  obtain ⟨r, hr⟩ := setFld_frame (isPerFn_reg (by decide) (by decide) (by decide) : isPerFn (reg 3072 0x40) = false)
    { clearRange s (firmwareArea s) (capacity s) with areaSealed := true, areaKey := true } 5 1 1
  have hdone : sealRewriteDoneOn 16 s = { clearRange s (firmwareArea s) (capacity s) with areaSealed := true, areaKey := true, regs := r } := by
    unfold sealRewriteDoneOn
    rw [if_pos rfl, if_pos ⟨hphase, hsealed, hseed, happroved⟩]
    exact hr
  refine ⟨_, exec_sealRewriteDone (by decide) hdone, rfl, rfl, fun a hlo hhi => ?_, fun a ha => ?_⟩
  · exact (peekDev_clearRange s _ _ a).trans (if_pos ⟨hlo, hhi⟩)
  · exact (peekDev_clearRange s _ _ a).trans (if_neg (by omega))

/-- Settles O43: a seal changes by its own rows, and the words of a range by their clearing. -/
theorem sealRows : Obligations.SealRows := by
  unfold Obligations.SealRows
  refine ⟨fun s f hs hf => ⟨mcSealEnable_row hs hf, mcSealEnable_idle hs hf, fun he hq => ?_, mcSealDisable_idle hs hf, rekey_row hs hf, rekey_idle hs hf⟩,
    fun s n hn => ?_, fun s => sealRewriteDone_area⟩
  · exact ⟨mcSealDisable_row hs hf he hq, sealOf_zeroRange_setSeal .., fun a hlo hhi => zeroRange_inside hlo hhi _,
      fun a ha => zeroRange_outside ha _⟩
  · obtain ⟨hzero, hrekey, hidle⟩ := sealRewriteDone_row (s := s) hn
    exact ⟨hzero, fun hz hb => ⟨hrekey hz hb, (sealOf_setSeal ..).trans (if_pos rfl)⟩, hidle⟩

end Sys2Proof.Machine

/-! # Parking the East half and D3hot (O49) -/

namespace Sys2Proof.Machine

/-! ### Registers above the power page's -/

/-- t is s with common registers of the channels' pages and those above written. -/
structure HighRegs (s t : State) : Prop where
  frame : ∃ r, t = { s with regs := r }
  low : ∀ fn a, a < reg 1024 0 → getReg t fn a = getReg s fn a

theorem HighRegs.refl (s : State) : HighRegs s s := ⟨⟨_, rfl⟩, fun _ _ _ => rfl⟩

theorem HighRegs.trans {s t u : State} (h : HighRegs s t) (k : HighRegs t u) : HighRegs s u := by
  obtain ⟨⟨_, rfl⟩, h⟩ := h
  obtain ⟨⟨_, rfl⟩, k⟩ := k
  exact ⟨⟨_, rfl⟩, fun fn a ha => (k fn a ha).trans (h fn a ha)⟩

theorem HighRegs.fld {s t : State} (h : HighRegs s t) {a lo len : Nat} (ha : a < reg 1024 0) : fld t a lo len = fld s a lo len :=
  congrArg (bits · lo len) (h.low 0 a ha)

theorem setFld_high {a : Nat} (h : isPerFn a = false) (ha : reg 1024 0 ≤ a) (s : State) (lo len v : Nat) : HighRegs s (setFld s a lo len v) :=
  ⟨setFld_frame h s lo len v, fun _ _ hb => getReg_setFld_ne h (by omega)⟩

theorem setChannels_high (s : State) (east : Bool) (v : Nat) : HighRegs s (setChannels s east v) := by
  refine List.foldlRecOn _ _ (.refl s) (fun t ht c hc => ?_)
  have hle := channels_le s
  have hc : c < 48 := by
    have := List.mem_range.1 hc
    omega
  split
  · exact ht
  · exact ht.trans (setFld_high (isPerFn_channelPage hc (by decide)) (by unfold reg channelPage; omega) ..)

theorem idleSlices_high (s : State) (lo : Nat) : HighRegs s (idleSlices s lo) := by
  refine List.foldlRecOn _ _ (.refl s) (fun t ht i hi => ht.trans (setFld_high (isPerFn_slicePage ?_ (by decide)) ?_ ..))
  · have := List.mem_range.1 hi
    omega
  · unfold reg slicePage
    omega

theorem fld_of_regs {s t : State} (h : t.regs = s.regs) {a : Nat} (ha : isPerFn a = false) {lo len : Nat} : fld t a lo len = fld s a lo len := by
  unfold fld getReg
  rw [ha, h]
  rfl

theorem isPerFn_parkStatus : isPerFn parkStatus = false := by decide

theorem parkStatus_low : parkStatus < reg 1024 0 := by decide

/-! ### Frames of a tile -/

/-- What holds once one step makes it and no step breaks it. -/
theorem foldl_establishes {α : Type} {P : State → Prop} {f : State → α → State} (hkeep : ∀ s a, P s → P (f s a)) {l : List α} {a : α} (ha : a ∈ l)
    (hmake : ∀ s, P (f s a)) (s : State) : P (l.foldl f s) := by
  induction l generalizing s with
  | nil => exact absurd ha List.not_mem_nil
  | cons b l ih =>
    obtain rfl | ha := List.mem_cons.1 ha
    · exact List.foldlRecOn l f (hmake s) (fun t ht c _ => hkeep t c ht)
    · exact ih ha (f s b)

/-- One frame loses its context. -/
def parkFrame (s : State) (e : Nat × Frame) : State :=
  delFrame (setCtx s e.2.ctx (if (ctxOf s e.2.ctx).state = .resident then parkCtx (ctxOf s e.2.ctx) else
    { ctxOf s e.2.ctx with tile := 0xFFFF, lane := 0, frame := 0 })) e.1

theorem parkTile_eq (s : State) (tile : Nat) : parkTile s tile = (tileFrames s tile).foldl parkFrame s := rfl

theorem frameOf_setCtx (s : State) (g : Nat) (x : Ctx) (k : Nat) : frameOf (setCtx s g x) k = frameOf s k := by
  unfold frameOf
  rw [setCtx_frames]

theorem frameOf_parkFrame (s : State) (e : Nat × Frame) (k : Nat) : frameOf (parkFrame s e) k = if k = e.1 then none else frameOf s k := by
  unfold parkFrame
  rw [frameOf_delFrame, frameOf_setCtx]

theorem frameOf_parkTile_none {s : State} {tile k : Nat} (h : frameOf s k = none) : frameOf (parkTile s tile) k = none := by
  rw [parkTile_eq]
  refine List.foldlRecOn (motive := fun t => frameOf t k = none) _ _ h (fun t ht e _ => ?_)
  rw [frameOf_parkFrame, ht, ite_self]

theorem frameOf_parkTile (s : State) (k : Nat) : frameOf (parkTile s (k / 256)) k = none := by
  by_cases h : frameOf s k = none
  · exact frameOf_parkTile_none h
  · obtain ⟨e, he⟩ : ∃ e, s.frames.find? (fun e => e.1 == k) = some e := by
      rw [← Option.isSome_iff_exists, ← Option.ne_none_iff_isSome]
      exact fun hnone => h (congrArg (Option.map Prod.snd) hnone)
    have hkey : e.1 = k := by simpa using List.find?_some he
    have hmem : e ∈ tileFrames s (k / 256) := List.mem_filter.2 ⟨List.mem_of_find?_eq_some he, by simp [hkey]⟩
    rw [parkTile_eq]
    refine foldl_establishes (P := fun t => frameOf t k = none) (fun t e' ht => ?_) hmem (fun t => ?_) s
    · rw [frameOf_parkFrame, ht, ite_self]
    · rw [frameOf_parkFrame, if_pos hkey.symm]

theorem frameOf_parkEastContexts (s : State) {k : Nat} (hlo : 48 * 256 ≤ k) (hhi : k < 96 * 256) : frameOf (parkEastContexts s) k = none := by
  have hmem : k / 256 - 48 ∈ List.range 48 := List.mem_range.2 (by omega)
  refine foldl_establishes (P := fun t => frameOf t k = none) (fun t tile ht => frameOf_parkTile_none ht) hmem (fun t => ?_) s
  rw [show 48 + (k / 256 - 48) = k / 256 by omega]
  exact frameOf_parkTile t k

/-- t is s with contexts, their words and the frames changed. -/
def OnlyContexts (s t : State) : Prop :=
  ∃ c f m d e, t = { s with ctxs := c, frames := f, mem := m, memMeta := d, memErr := e }

theorem OnlyContexts.refl (s : State) : OnlyContexts s s := ⟨_, _, _, _, _, rfl⟩

theorem OnlyContexts.trans {s t u : State} (h : OnlyContexts s t) (k : OnlyContexts t u) : OnlyContexts s u := by
  obtain ⟨_, _, _, _, _, rfl⟩ := h
  obtain ⟨_, _, _, _, _, rfl⟩ := k
  exact ⟨_, _, _, _, _, rfl⟩

theorem parkTile_contexts (s : State) (tile : Nat) : OnlyContexts s (parkTile s tile) := by
  rw [parkTile_eq]
  refine List.foldlRecOn (motive := OnlyContexts s) _ _ (.refl s) (fun t ht e _ => ht.trans ?_)
  unfold parkFrame
  obtain ⟨m, d, x, h⟩ := setCtx_frame t e.2.ctx (if (ctxOf t e.2.ctx).state = .resident then parkCtx (ctxOf t e.2.ctx) else
    { ctxOf t e.2.ctx with tile := 0xFFFF, lane := 0, frame := 0 })
  rw [h]
  exact ⟨_, _, _, _, _, rfl⟩

theorem parkEastContexts_contexts (s : State) : OnlyContexts s (parkEastContexts s) :=
  List.foldlRecOn (motive := OnlyContexts s) _ _ (.refl s) (fun _ ht _ _ => ht.trans (parkTile_contexts ..))

theorem parkEastContexts_areaOnly (s : State) : AreaOnly s (parkEastContexts s) :=
  List.foldlRecOn (motive := AreaOnly s) _ _ (.refl s) (fun _ ht _ _ => ht.trans (parkTile_areaOnly ..))

/-! ### The half begins to park -/

/-- Slices from `lo` on read as zero, and those below as they were. -/
theorem loseSlices_sliceMem (s : State) (lo a : Nat) : tget memDefault (loseSlices s lo).sliceMem a = if a < sliceBytes * lo then tget memDefault s.sliceMem a else 0 := by
  refine (tget_filter memDefault s.sliceMem (fun k => decide (k < sliceBytes * lo)) a).trans ?_
  exact if_congr (by simp) rfl rfl

/-- What parking changes of a state. -/
structure BeganParking (s t : State) : Prop where
  state : fld t parkStatus 0 2 = 1
  result : fld t parkStatus 2 3 = fld s parkStatus 2 3
  frames : ∀ k, 48 * 256 ≤ k → k < 96 * 256 → frameOf t k = none
  east : ∀ a, 64 * sliceBytes ≤ a → tget memDefault t.sliceMem a = 0
  west : ∀ a, a < 64 * sliceBytes → tget memDefault t.sliceMem a = tget memDefault s.sliceMem a
  memory : ∀ a, a < firmwareArea s → peekDev t a 1 = peekDev s a 1
  frame : t = { s with regs := t.regs, frames := t.frames, ctxs := t.ctxs, mem := t.mem, memMeta := t.memMeta, memErr := t.memErr, limiter := t.limiter
                       sliceMem := t.sliceMem, sliceErr := t.sliceErr, marches := t.marches }

theorem BeganParking.of {s u w : State} (hu : OnlyContexts s u) (harea : AreaOnly s u)
    (hframes : ∀ k, 48 * 256 ≤ k → k < 96 * 256 → frameOf u k = none) (hw : HighRegs (loseSlices u 64) w) : BeganParking s (setParkState w 1) := by
  have hresult : fld w parkStatus 2 3 = fld s parkStatus 2 3 := by
    obtain ⟨_, _, _, _, _, rfl⟩ := hu
    exact hw.fld parkStatus_low
  have hstate : fld (setParkState w 1) parkStatus 0 2 = 1 := fld_setFld isPerFn_parkStatus (by decide)
  have hkept : fld (setParkState w 1) parkStatus 2 3 = fld w parkStatus 2 3 := fld_setFld_other isPerFn_parkStatus (by decide) (by decide)
  have hslices := loseSlices_sliceMem u 64
  have hsliceMem : u.sliceMem = s.sliceMem := by
    obtain ⟨_, _, _, _, _, rfl⟩ := hu
    rfl
  obtain ⟨r, hset⟩ := setFld_frame isPerFn_parkStatus w 0 2 1
  obtain ⟨⟨r', rfl⟩, -⟩ := hw
  change setParkState _ 1 = { loseSlices u 64 with regs := r } at hset
  refine ⟨hstate, hkept.trans hresult, ?_, ?_, ?_, ?_, ?_⟩
  all_goals rw [hset]
  · exact hframes
  · exact fun a ha => (hslices a).trans (if_neg (by omega))
  · exact fun a ha => ((hslices a).trans (if_pos (by omega))).trans (by rw [hsliceMem])
  · exact fun a ha => congrArg (fun x => [x]) (harea.below a ha)
  · obtain ⟨_, _, _, _, _, rfl⟩ := hu
    rfl

theorem beginParking_began (s : State) : BeganParking s (beginParking s) :=
  .of (parkEastContexts_contexts s) (parkEastContexts_areaOnly s) (fun _ => frameOf_parkEastContexts s) (idleSlices_high ..)

/-! ### Park requests -/

/-- A request shows the half it names. -/
def parkNamed (s : State) (half : Nat) : State := setFld s (reg 4 0x6C) 0 1 half

theorem parkNamed_frame (s : State) (half : Nat) : ∃ r, parkNamed s half = { s with regs := r } := setFld_frame (by decide) ..

theorem fld_parkNamed (s : State) (half lo len : Nat) : fld (parkNamed s half) parkStatus lo len = fld s parkStatus lo len :=
  fld_setFld_ne (by decide) (by decide)

theorem parkRequestOn_west (s : State) (b : Bool) : parkRequestOn 0 .west b s = setParkResult (parkNamed s 0) 2 := rfl

/-- A request for East that is granted: no access has woken the half yet. -/
def parkGranted (s : State) : State :=
  setParkResult { parkNamed s 1 with limiter := { (parkNamed s 1).limiter with wakeEast := false } } 1

theorem parkRequestOn_east (s : State) (b : Bool) : parkRequestOn 0 .east b s = if eastBusy (parkNamed s 1) b then setParkResult (parkNamed s 1) 3 else
    if fld (parkGranted s) parkStatus 0 2 % 3 = 0 then beginParking (parkGranted s) else parkGranted s := rfl

/-- A result of a parking. -/
theorem setParkResult_row (s : State) {v : Nat} (hv : v < 8) : fld (setParkResult s v) parkStatus 2 3 = v
    ∧ fld (setParkResult s v) parkStatus 0 2 = fld s parkStatus 0 2 ∧ ∃ r, setParkResult s v = { s with regs := r } :=
  ⟨(fld_setFld isPerFn_parkStatus (by decide)).trans (Nat.mod_eq_of_lt hv), fld_setFld_other isPerFn_parkStatus (by decide) (by decide),
    setFld_frame isPerFn_parkStatus ..⟩

theorem parkGranted_row (s : State) : OnlyRail s (parkGranted s) ∧ fld (parkGranted s) parkStatus 2 3 = 1
    ∧ fld (parkGranted s) parkStatus 0 2 = fld s parkStatus 0 2 := by
  obtain ⟨r, hnamed⟩ := parkNamed_frame s 1
  obtain ⟨hresult, hkept, r', hframe⟩ := setParkResult_row { parkNamed s 1 with limiter := { (parkNamed s 1).limiter with wakeEast := false } } (v := 1) (by decide)
  refine ⟨?_, hresult, hkept.trans (fld_parkNamed ..)⟩
  unfold parkGranted
  rw [hframe, hnamed]
  exact ⟨_, _, rfl⟩

/-- A refused request changes nothing else. -/
theorem parkRefused_row (s : State) (half : Nat) {v : Nat} (hv : v < 8) {t : State} (ht : setParkResult (parkNamed s half) v = t) :
    fld t parkStatus 2 3 = v ∧ fld t parkStatus 0 2 = fld s parkStatus 0 2 ∧ t = { s with regs := t.regs } := by
  subst ht
  obtain ⟨hresult, hstate, r, hframe⟩ := setParkResult_row (parkNamed s half) hv
  obtain ⟨r', hnamed⟩ := parkNamed_frame s half
  refine ⟨hresult, hstate.trans (fld_parkNamed ..), ?_⟩
  rw [hframe, hnamed]

theorem keep_of_regs {s t : State} (h : t = { s with regs := t.regs }) : keep s t = t :=
  keep_eq (by rw [h]) (by rw [h]) (by rw [h])

theorem exec_parkRequest {s : State} (hs : Answers s 0) (h : Half) (b : Bool) : exec (.parkRequest 0 h b) s = .next (keep s (parkRequestOn 0 h b s)) :=
  onBar0_eq hs

theorem eastBusy_parkNamed (s : State) (half : Nat) (b : Bool) : eastBusy (parkNamed s half) b = eastBusy s b := by
  obtain ⟨_, h⟩ := parkNamed_frame s half
  rw [h]
  rfl

section Park
variable {s : State} (hs : Answers s 0) (b : Bool)
include hs

theorem parkWest_row : ∃ t, exec (.parkRequest 0 .west b) s = .next t ∧ fld t parkStatus 2 3 = 2
    ∧ fld t parkStatus 0 2 = fld s parkStatus 0 2 ∧ t = { s with regs := t.regs } := by
  obtain ⟨hresult, hstate, hframe⟩ := parkRefused_row s 0 (v := 2) (by decide) rfl
  refine ⟨_, ?_, hresult, hstate, hframe⟩
  rw [exec_parkRequest hs, parkRequestOn_west, keep_of_regs hframe]

theorem parkBusy_row (hbusy : eastBusy s b = true) : ∃ t, exec (.parkRequest 0 .east b) s = .next t ∧ fld t parkStatus 2 3 = 3
    ∧ fld t parkStatus 0 2 = fld s parkStatus 0 2 ∧ t = { s with regs := t.regs } := by
  obtain ⟨hresult, hstate, hframe⟩ := parkRefused_row s 1 (v := 3) (by decide) rfl
  refine ⟨_, ?_, hresult, hstate, hframe⟩
  rw [exec_parkRequest hs, parkRequestOn_east, eastBusy_parkNamed, if_pos hbusy, keep_of_regs hframe]

/-- A half that runs, or is on its way back, begins to park. -/
theorem parkEast_row (hbusy : eastBusy s b = false) (hstate : fld s parkStatus 0 2 = 0 ∨ fld s parkStatus 0 2 = 3) :
    ∃ t, exec (.parkRequest 0 .east b) s = .next t
        ∧ fld t parkStatus 2 3 = 1 ∧ fld t parkStatus 0 2 = 1 ∧ (∀ k, 48 * 256 ≤ k → k < 96 * 256 → frameOf t k = none)
        ∧ (∀ a, 64 * sliceBytes ≤ a → tget memDefault t.sliceMem a = 0) ∧ (∀ a, a < 64 * sliceBytes → tget memDefault t.sliceMem a = tget memDefault s.sliceMem a)
        ∧ (∀ a, a < firmwareArea s → peekDev t a 1 = peekDev s a 1)
        ∧ t = { s with regs := t.regs, frames := t.frames, ctxs := t.ctxs, mem := t.mem, memMeta := t.memMeta, memErr := t.memErr, limiter := t.limiter
                       sliceMem := t.sliceMem, sliceErr := t.sliceErr, marches := t.marches } := by
  have hbusy' := (eastBusy_parkNamed s 1 b).trans hbusy
  obtain ⟨hrail, hresult, hkept⟩ := parkGranted_row s
  have hon := parkRequestOn_east s b
  rw [hbusy', if_neg (by decide), if_pos (by rw [hkept]; obtain h | h := hstate <;> rw [h])] at hon
  generalize parkGranted s = u at hon hresult hrail
  obtain ⟨ru, lu, rfl⟩ := hrail
  have hbegan := beginParking_began { s with regs := ru, limiter := lu }
  rw [exec_parkRequest hs, hon, keep_eq (by rw [hbegan.frame]) (by rw [hbegan.frame]) (by rw [hbegan.frame])]
  exact ⟨_, rfl, hbegan.result.trans hresult, hbegan.state, hbegan.frames, hbegan.east, hbegan.west, hbegan.memory, hbegan.frame⟩

end Park

/-! ### The end of parking, and unparking -/

theorem laneOf_loseTiles (s : State) (lo k : Nat) : laneOf (loseTiles s lo) k = if k < lo * 16 then laneOf s k else {} := by
  refine (tget_filter (fun _ => ({} : Lane)) s.lanes (fun k => decide (k < lo * 16)) k).trans ?_
  exact if_congr (by simp) rfl rfl

theorem setRamp_east_none (s : State) : ∃ r, setRamp s .east none = { s with regs := r, limiter := { s.limiter with rampEast := none } } := by
  obtain ⟨r, h⟩ := setFld_frame (by decide : isPerFn (reg 4 0x48) = false) { s with limiter := { s.limiter with rampEast := none } } (Half.lo .east + 3) 1 0
  exact ⟨r, h⟩

theorem parkDone_row {s : State} (h : fld s parkStatus 0 2 = 1) : ∃ t, exec .parkDone s = .next t
    ∧ fld t parkStatus 0 2 = (if s.limiter.wakeEast then 3 else 2) ∧ (∀ k, 48 * 16 ≤ k → laneOf t k = {}) ∧ t.sliceMem = s.sliceMem ∧ t.mem = s.mem := by
  refine ⟨_, rfl, ?_⟩
  show fld (parkDoneOn s) parkStatus 0 2 = _ ∧ (∀ k, _ → laneOf (parkDoneOn s) k = {}) ∧ (parkDoneOn s).sliceMem = _ ∧ (parkDoneOn s).mem = _
  unfold parkDoneOn
  rw [if_neg (by rw [h]; decide)]
  extract_lets s1 s2 again l
  have h1 : s1.lanes = (loseTiles s 48).lanes ∧ s1.sliceMem = s.sliceMem ∧ s1.mem = s.mem ∧ s1.limiter.wakeEast = s.limiter.wakeEast := by
    obtain ⟨⟨r, hr⟩, -⟩ := setChannels_high s true 2
    unfold s1
    rw [hr]
    exact ⟨rfl, rfl, rfl, rfl⟩
  clear_value s1
  have h2 : s2.lanes = (loseTiles s 48).lanes ∧ s2.sliceMem = s.sliceMem ∧ s2.mem = s.mem ∧ s2.limiter.wakeEast = s.limiter.wakeEast := by
    obtain ⟨r, hr⟩ := setRamp_east_none s1
    obtain ⟨r', hr'⟩ := setReg_frame (by decide : isPerFn (reg 4 0x50) = false) { s1 with regs := r, limiter := { s1.limiter with rampEast := none } } 0 0
    unfold s2
    rw [hr, hr']
    exact h1
  obtain ⟨hlanes, hslices, hmem, hwake⟩ := h2
  have hagain : again = s.limiter.wakeEast := hwake
  clear_value s2 again
  subst hagain
  refine ⟨(fld_setFld isPerFn_parkStatus (by decide)).trans (by split <;> rfl), ?_⟩
  obtain ⟨r, hr⟩ := setFld_frame isPerFn_parkStatus { s2 with limiter := { l with wakeEast := false } } 0 2 (if s.limiter.wakeEast then 3 else 2)
  unfold setParkState
  rw [hr]
  refine ⟨fun k hk => ?_, hslices, hmem⟩
  exact (congrArg (tget _ · k) hlanes).trans ((laneOf_loseTiles s 48 k).trans (if_neg (by omega)))

theorem unpark_row {s : State} (hs : Answers s 0) (h : fld s parkStatus 0 2 = 2) : exec (.unpark 0) s = .next (setFld s parkStatus 0 2 3) := by
  have hunpark : unparkEast s = setFld s parkStatus 0 2 3 := if_pos h
  obtain ⟨r, hr⟩ := setFld_frame isPerFn_parkStatus s 0 2 3
  refine (onBar0_eq hs).trans ?_
  rw [if_pos rfl, hunpark, keep_of_regs (by rw [hr])]

theorem wantedPoint_lt (s : State) (h : Half) : wantedPoint s h < 8 := Nat.lt_of_le_of_lt (Nat.min_le_left ..) (bits_lt ..)

theorem unparkDone_row {s : State} (h : fld s parkStatus 0 2 = 3) : ∃ t, exec .unparkDone s = .next t ∧ fld t parkStatus 0 2 = 0
    ∧ fld t (reg 4 0x48) 4 3 = wantedPoint s .east ∧ t.limiter.heldEast = false ∧ t = { s with regs := t.regs, limiter := t.limiter } := by
  obtain ⟨⟨r, hchannels⟩, -⟩ := setChannels_high s true 0
  obtain ⟨r', hstate⟩ := setFld_frame isPerFn_parkStatus (setChannels s true 0) 0 2 0
  obtain ⟨r'', hpoint⟩ := setFld_frame (by decide : isPerFn (reg 4 0x48) = false) (setParkState (setChannels s true 0) 0) 4 3 (wantedPoint s .east)
  have hpark : fld (setFld (setParkState (setChannels s true 0) 0) (reg 4 0x48) 4 3 (wantedPoint s .east)) parkStatus 0 2 = 0 :=
    (fld_setFld_ne (by decide) (by decide)).trans (fld_setFld isPerFn_parkStatus (by decide))
  have hwanted : fld (setFld (setParkState (setChannels s true 0) 0) (reg 4 0x48) 4 3 (wantedPoint s .east)) (reg 4 0x48) 4 3 = wantedPoint s .east :=
    (fld_setFld (by decide) (by decide)).trans (Nat.mod_eq_of_lt (wantedPoint_lt s .east))
  have hrail : OnlyRail s (setFld (setParkState (setChannels s true 0) 0) (reg 4 0x48) 4 3 (wantedPoint s .east)) := by
    rw [hpoint]
    unfold setParkState
    rw [hstate, hchannels]
    exact ⟨_, _, rfl⟩
  have hdone : unparkDoneOn s = _ := if_neg (by rw [h]; decide)
  generalize setFld (setParkState (setChannels s true 0) 0) (reg 4 0x48) 4 3 (wantedPoint s .east) = u at hpark hwanted hrail hdone
  obtain ⟨ru, lu, rfl⟩ := hrail
  refine ⟨_, congrArg (fun t => Host.Outcome.next (keep s t)) hdone, hpark, hwanted, rfl, rfl⟩

/-! ### D3hot (R326) -/

/-- What the core holds without power: no slice, no lane and no frame. -/
def Unpowered (t : State) : Prop := (∀ a, tget memDefault t.sliceMem a = 0) ∧ (∀ k, laneOf t k = {}) ∧ t.frames = []

theorem loseAll_unpowered (s : State) : Unpowered (loseTiles (loseSlices s 0) 0) :=
  ⟨fun a => (loseSlices_sliceMem s 0 a).trans (if_neg (by omega)), fun k => (laneOf_loseTiles _ 0 k).trans (if_neg (by omega)),
    List.filter_eq_nil_iff.2 (fun e _ => by simp)⟩

theorem OnlyRail.unpowered {s t : State} (h : OnlyRail s t) (hs : Unpowered s) : Unpowered t := by
  obtain ⟨_, _, rfl⟩ := h
  exact hs

theorem HighRegs.rail {s t : State} (h : HighRegs s t) : OnlyRail s t := by
  obtain ⟨⟨_, rfl⟩, -⟩ := h
  exact ⟨_, _, rfl⟩

theorem flushLife_row (s : State) : ∃ r, flushLife s = { s with flash := { s.flash with lifetime := s.lifetime }, regs := r } := by
  obtain ⟨r, h⟩ := setReg_frame (by decide : isPerFn (reg 3300 0x4C) = false) { s with flash := { s.flash with lifetime := s.lifetime } } 0 0
  exact ⟨r, h⟩

theorem isPerFn_status : isPerFn 0x40 = false := by decide

/-- The channels sleep, and the core loses what its rail held. -/
def powerLost (s : State) : State := idleSlices (loseTiles (loseSlices (setChannels s false 2) 0) 0) 0

theorem powerLost_unpowered (s : State) : Unpowered (powerLost s) := (idleSlices_high ..).rail.unpowered (loseAll_unpowered _)

/-- No half parks or slews. -/
def settled (s : State) : State := setParkState (setRamp (setRamp (dropFetched s) .west none) .east none) 0

theorem settled_unpowered {s : State} (h : Unpowered s) : Unpowered (settled s) :=
  ((setRamp_rail (dropFetched s) .west none).trans ((setRamp_rail _ .east none).trans (setFld_rail isPerFn_parkStatus ..))).unpowered h

/-- The logs go to flash, and READY goes down with the power state. -/
def asleep (s : State) : State :=
  setFld { flushLife (flushPeat s) with board := { (flushLife (flushPeat s)).board with power := .d3hot } } 0x40 4 1 0

theorem asleep_frame (s : State) : ∃ r, asleep s =
    { s with
      peat := { s.peat with flashSurface := s.peat.surface }
      flash := { s.flash with lifetime := s.lifetime }
      board := { s.board with power := .d3hot }
      regs := r } := by
  obtain ⟨r, hr⟩ := flushLife_row (flushPeat s)
  obtain ⟨r', hr'⟩ := setFld_frame isPerFn_status { flushLife (flushPeat s) with board := { (flushLife (flushPeat s)).board with power := .d3hot } } 4 1 0
  refine ⟨r', hr'.trans ?_⟩
  rw [hr]
  rfl

theorem isReady_asleep (s : State) : isReady (asleep s) = false := by
  have h : fld (asleep s) 0x40 4 1 = 0 := fld_setFld isPerFn_status (by decide)
  unfold isReady
  rw [h]
  rfl

/-- Without the local memories and what the limiter held. -/
def unlit (s : State) : State :=
  { s with localMem := [], limiter := { s.limiter with wakeEast := false, heldEast := false } }

theorem unlit_unpowered {s : State} (h : Unpowered s) : Unpowered (unlit s) := h

theorem d3hotEntryOn_eq {s : State} (ha : awake s = true) : ∃ u, d3hotEntryOn s = asleep u ∧ Unpowered u :=
  ⟨unlit (settled (powerLost ((List.range 96).foldl (fun s t => parkTile s t) (stopQueues s)))), if_neg (by rw [ha]; decide),
    unlit_unpowered (settled_unpowered (powerLost_unpowered _))⟩

theorem isReady_keep (s t : State) : isReady (keep s t) = isReady t := by
  unfold isReady
  rw [fld_of_regs (s := t) (t := keep s t) rfl isPerFn_status]

theorem d3hotEntry_row {s : State} (ha : awake s = true) : ∃ t, exec .d3hotEntry s = .next t ∧ t.board.power = .d3hot ∧ isReady t = false
    ∧ (∀ a, tget memDefault t.sliceMem a = 0) ∧ (∀ k, laneOf t k = {}) ∧ t.frames = [] ∧ t.peat.flashSurface = t.peat.surface
    ∧ t.flash.lifetime = t.lifetime := by
  obtain ⟨u, hon, hslices, hlanes, hframes⟩ := d3hotEntryOn_eq ha
  have hready := isReady_asleep u
  obtain ⟨r, hasleep⟩ := asleep_frame u
  rw [hasleep] at hon hready
  exact ⟨_, congrArg (fun t => Host.Outcome.next (keep s t)) hon, rfl, (isReady_keep ..).trans hready, hslices, hlanes, hframes, rfl, rfl⟩

/-- Power is back, and what firmware restores. -/
def repowered (s : State) : State :=
  { s with board := { s.board with power := .d0 }, peat := { s.peat with surface := s.peat.flashSurface, deep := s.peat.flashDeep } }

def rechanneled (s : State) : State := setChannels (repowered s) false 0

/-- And the points of both halves. -/
def restored (s : State) : State :=
  setFld (setFld (rechanneled s) (reg 4 0x48) 0 3 (wantedPoint (rechanneled s) .west)) (reg 4 0x48) 4 3 (wantedPoint (rechanneled s) .east)

theorem restored_row (s : State) : (∃ r, restored s = { repowered s with regs := r }) ∧ phaseOf (restored s) = phaseOf s := by
  have hpoint : isPerFn (reg 4 0x48) = false := by decide
  have hhigh : HighRegs (repowered s) (rechanneled s) := setChannels_high ..
  constructor
  · obtain ⟨⟨r, hr⟩, -⟩ := hhigh
    obtain ⟨r', hr'⟩ := setFld_frame hpoint (rechanneled s) 0 3 (wantedPoint (rechanneled s) .west)
    obtain ⟨r'', hr''⟩ := setFld_frame hpoint { rechanneled s with regs := r' } 4 3 (wantedPoint (rechanneled s) .east)
    unfold restored
    rw [hr', hr'', hr]
    exact ⟨r'', rfl⟩
  · exact (fld_setFld_ne hpoint (by decide)).trans ((fld_setFld_ne hpoint (by decide)).trans (hhigh.fld (by decide)))

theorem d3hotExitOn_eq {s : State} (hp : s.board.power = .d3hot) (h : phaseOf s = 8) (ok : Bool) :
    d3hotExitOn ok s = if ok then setFld (restored s) 0x40 4 1 1 else setFld (enterError (restored s) 4) seStatus 6 1 1 := by
  obtain ⟨-, hphase⟩ := restored_row s
  have hrun : ¬ s.board.power ≠ .d3hot := fun hne => hne hp
  have hup : ¬ phaseOf (restored s) ≠ 8 := fun hne => hne (hphase.trans h)
  exact (if_neg hrun).trans (if_neg hup)

theorem d3hotExit_good {s : State} (hp : s.board.power = .d3hot) (h : phaseOf s = 8) : ∃ t, exec (.d3hotExit true) s = .next t ∧ t.board.power = .d0
    ∧ isReady t = true ∧ t.peat.surface = s.peat.flashSurface ∧ t.peat.deep = s.peat.flashDeep ∧ t.mem = s.mem := by
  have hon : d3hotExitOn true s = setFld (restored s) 0x40 4 1 1 := d3hotExitOn_eq hp h true
  have hready : isReady (setFld (restored s) 0x40 4 1 1) = true := by
    unfold isReady
    rw [fld_setFld isPerFn_status (by decide)]
    rfl
  obtain ⟨⟨r, hrestored⟩, -⟩ := restored_row s
  obtain ⟨r', hset⟩ := setFld_frame isPerFn_status (restored s) 4 1 1
  refine ⟨_, congrArg (fun t => Host.Outcome.next (keep s t)) hon, ?_, hready, ?_⟩
  all_goals rw [hset, hrestored]
  · rfl
  · exact ⟨rfl, rfl, rfl⟩

/-! ### The enclave in ERROR -/

/-- t is s with other registers than SE_STATUS and with other keys. -/
structure KeepsStatus (s t : State) : Prop where
  board : t.board = s.board
  status : enclaveState t = enclaveState s

theorem KeepsStatus.refl (s : State) : KeepsStatus s s := ⟨rfl, rfl⟩

theorem KeepsStatus.trans {s t u : State} (h : KeepsStatus s t) (k : KeepsStatus t u) : KeepsStatus s u :=
  ⟨k.board.trans h.board, k.status.trans h.status⟩

theorem setSessions_status (s : State) (l : List Session) : KeepsStatus s (setSessions s l) := by
  have hstatus : enclaveState (setSessions s l) = enclaveState s := fld_setFld_ne (by decide) (by decide)
  obtain ⟨r, h⟩ := setFld_frame (by decide : isPerFn (reg 3072 0x54) = false) { s with enclave := { s.enclave with sessions := l } } 0 4 l.length
  exact ⟨by unfold setSessions; rw [h], hstatus⟩

theorem dropUpload_status (s : State) (fn : Nat) : KeepsStatus s (dropUpload s fn) := by
  have hframe : ∃ f e, dropUpload s fn = { s with fnRegs := f, enclave := e } := by
    unfold dropUpload setUploadState setSeFn setReg
    rw [if_pos (by decide)]
    exact ⟨_, _, rfl⟩
  obtain ⟨f, e, h⟩ := hframe
  rw [h]
  exact ⟨rfl, fld_of_regs rfl (by decide)⟩

theorem zeroiseAll_status (s : State) : KeepsStatus s (zeroiseAll s) := by
  unfold zeroiseAll
  extract_lets s1 s2 e s3
  have h1 : KeepsStatus s s1 := .trans (t := zeroiseSealing s) ⟨rfl, rfl⟩ (setSessions_status ..)
  clear_value s1
  have h2 : KeepsStatus s1 s2 := by
    unfold s2
    split
    · exact .refl s1
    · exact ⟨rfl, rfl⟩
  clear_value s2
  have h3 : KeepsStatus s s3 := h1.trans (h2.trans ⟨rfl, rfl⟩)
  refine List.foldlRecOn (motive := KeepsStatus s) _ _ h3 (fun t ht fn _ => ?_)
  split
  · exact ht.trans (dropUpload_status t fn)
  · exact ht

theorem leaveApproved_error {s : State} (h : enclaveState s ≠ 3) (why : Nat) :
    (leaveApproved s 3 why).board = s.board ∧ enclaveState (leaveApproved s 3 why) = 3 := by
  have hstatus : isPerFn (reg 3072 0x40) = false := by decide
  have hreason : isPerFn (reg 3072 0x44) = false := by decide
  have hstate : enclaveState (setFld s (reg 3072 0x40) 0 3 3) = 3 := fld_setFld hstatus (by decide)
  obtain ⟨r, hr⟩ := setFld_frame hstatus s 0 3 3
  have hboard : (setFld s (reg 3072 0x40) 0 3 3).board = s.board := by rw [hr]
  unfold leaveApproved
  rw [if_neg (show ¬ fld s (reg 3072 0x40) 0 3 = 3 from h)]
  dsimp only
  generalize setFld s (reg 3072 0x40) 0 3 3 = t at hstate hboard
  split
  · obtain ⟨r', hr'⟩ := setFld_frame hreason t 0 3 why
    exact ⟨by rw [hr']; exact hboard, (fld_setFld_ne hreason (by decide)).trans hstate⟩
  · exact ⟨hboard, hstate⟩

theorem enterError_row (s : State) (why : Nat) : (enterError s why).board = s.board ∧ enclaveState (enterError s why) = 3 := by
  unfold enterError
  split
  · next h => exact ⟨rfl, h⟩
  · next h =>
    obtain ⟨hboard, hstate⟩ := leaveApproved_error h why
    have hkeys := zeroiseAll_status (leaveApproved s 3 why)
    exact ⟨hkeys.board.trans hboard, hkeys.status.trans hstate⟩

theorem d3hotExit_bad {s : State} (hp : s.board.power = .d3hot) (h : phaseOf s = 8) :
    ∃ t, exec (.d3hotExit false) s = .next t ∧ t.board.power = .d0 ∧ enclaveState t = 3 := by
  have hon : d3hotExitOn false s = setFld (enterError (restored s) 4) seStatus 6 1 1 := d3hotExitOn_eq hp h false
  have hstatus : isPerFn seStatus = false := by decide
  obtain ⟨hboard, hstate⟩ := enterError_row (restored s) 4
  obtain ⟨⟨r, hrestored⟩, -⟩ := restored_row s
  have hend : enclaveState (setFld (enterError (restored s) 4) seStatus 6 1 1) = 3 :=
    (fld_setFld_other hstatus (by decide) (by decide)).trans hstate
  have hpower : (setFld (enterError (restored s) 4) seStatus 6 1 1).board.power = .d0 := by
    obtain ⟨r', hset⟩ := setFld_frame hstatus (enterError (restored s) 4) 6 1 1
    rw [hset]
    refine (congrArg Board.power hboard).trans ?_
    rw [hrestored]
    rfl
  generalize setFld (enterError (restored s) 4) seStatus 6 1 1 = t at hon hend hpower
  exact ⟨_, congrArg (fun t => Host.Outcome.next (keep s t)) hon, hpower, hend⟩

/-- Settles O49: parking by its steps, D3hot by what an unpowered core holds and what firmware restores. -/
theorem parkRows : Obligations.ParkRows := by
  unfold Obligations.ParkRows
  exact fun s => ⟨fun b hs => parkWest_row hs b, fun b hs => parkBusy_row hs b, fun b hs => parkEast_row hs b, parkDone_row, unpark_row, unparkDone_row,
    d3hotEntry_row, d3hotExit_good, d3hotExit_bad⟩

end Sys2Proof.Machine

/-! # The twilight domain (O4, O50)

What a microsecond changes, what an event flag and a last-word entry change, said once for each, and then one lemma for each row of
chapter 13. -/

namespace Sys2Proof.Machine

/-! ### The clock (R328, R329) -/

theorem tickUs_frame (s : State) : ∃ n c, tickUs s = { s with us := s.us + 1, nsSinceTick := n, tw := { s.tw with count := c } }
    ∧ (c = s.tw.count ∨ c = s.tw.count + 1) := by
  unfold tickUs
  extract_lets u ns
  split
  · exact ⟨_, _, rfl, .inl rfl⟩
  · split
    · exact ⟨_, _, rfl, .inr rfl⟩
    · exact ⟨_, _, rfl, .inl rfl⟩

theorem step_idle {s : State} (h : s.pending = []) : step s = .next (tickUs s) := by
  unfold step
  rw [h]

/-- Settles O4: with no command waiting the step is `tickUs`. -/
theorem idleStep : Obligations.IdleStep := by
  unfold Obligations.IdleStep
  intro s h
  obtain ⟨n, c, htick, hcount⟩ := tickUs_frame s
  rw [step_idle h, htick]
  exact ⟨_, rfl, rfl, rfl, hcount⟩

/-! ### Event flags (R333) -/

/-- t differs from s in common registers and at the link alone. -/
def OnlyEvent (s t : State) : Prop := ∃ r p, t = { s with regs := r, pcie := p }

theorem OnlyEvent.refl (s : State) : OnlyEvent s s := ⟨_, _, rfl⟩

theorem OnlyEvent.trans {s t u : State} (h : OnlyEvent s t) (k : OnlyEvent t u) : OnlyEvent s u := by
  obtain ⟨_, _, rfl⟩ := h
  obtain ⟨_, _, rfl⟩ := k
  exact ⟨_, _, rfl⟩

theorem sendMsg_event (s : State) (m : Msg) : OnlyEvent s (sendMsg s m) := by
  obtain ⟨p, h, -⟩ := sendMsg_frame s m
  exact ⟨_, p, h⟩

theorem raiseVector_event (s : State) (fn v : Nat) : OnlyEvent s (raiseVector s fn v) := by
  unfold raiseVector
  split
  · obtain ⟨r, h⟩ := addCount_frame (by decide : isPerFn (reg 3500 0x6C) = false) s 1
    exact ⟨r, _, h⟩
  · split
    · exact sendMsg_event ..
    · exact ⟨_, _, rfl⟩

theorem pageEdges_event (before s : State) (page : Nat) : OnlyEvent s (pageEdges before s page) := by
  refine List.foldlRecOn _ _ (.refl s) (fun t ht fn _ => ?_)
  split
  · exact ht.trans (raiseVector_event ..)
  · exact ht

theorem setEvent_event {page : Nat} (h : isPerFn (reg page 0x10) = false) (s : State) (fn m : Nat) : OnlyEvent s (setEvent s fn page m) := by
  obtain ⟨r, hr⟩ := setReg_frame h s fn (Nat.lor (getReg s fn (reg page 0x10)) m)
  have hset : OnlyEvent s (setReg s fn (reg page 0x10) (Nat.lor (getReg s fn (reg page 0x10)) m)) := ⟨r, _, hr⟩
  exact hset.trans (pageEdges_event ..)

/-- t is s with WAKE# asserted by more flags, or with the WAKE event of page 3400 or a PME message. -/
def OnlyWake (s t : State) : Prop := ∃ r p w, t = { s with regs := r, pcie := p, tw := { s.tw with wakeBy := w } }

theorem OnlyEvent.wake {s t : State} (h : OnlyEvent s t) : OnlyWake s t := by
  obtain ⟨_, _, rfl⟩ := h
  exact ⟨_, _, _, rfl⟩

theorem wakeEvent_wake (s : State) (m : BitVec 8) : OnlyWake s (wakeEvent s m) := by
  unfold wakeEvent
  split
  · exact ⟨_, _, _, rfl⟩
  · split
    · exact (setEvent_event (by decide) ..).wake
    · split
      · exact (sendMsg_event ..).wake
      · exact (OnlyEvent.refl s).wake
    · exact (OnlyEvent.refl s).wake

theorem setTwEvent_frame (s : State) (b : Nat) : ∃ r p w,
    setTwEvent s b = { s with regs := r, pcie := p, tw := { s.tw with event := s.tw.event ||| BitVec.ofNat 8 (2 ^ b), wakeBy := w } } := by
  unfold setTwEvent
  extract_lets m tw u
  split
  · exact ⟨_, _, _, rfl⟩
  · exact wakeEvent_wake u m

theorem getLsbD_or_two_pow {w i : Nat} (h : i < w) (e : BitVec w) : (e ||| BitVec.ofNat w (2 ^ i)).getLsbD i = true := by
  rw [BitVec.getLsbD_or, BitVec.getLsbD_ofNat, Nat.testBit_two_pow_self, decide_eq_true h, Bool.and_true, Bool.or_true]

/-! ### The comparators (R330, R331) -/

section Comparators

variable {s : State} {n : Nat}

theorem timeComparatorMatch_row (haux : s.board.auxOk = true) (hn : n < 4) (hm : s.tw.matched.getD n false = false)
    (hle : (compareValue s n).toNat ≤ s.tw.count.toNat) (hne : compareValue s n ≠ 0xFFFFFFFFFFFFFFFF) :
    ∃ t, exec (.timeComparatorMatch n) s = .next t ∧ t.tw.event = s.tw.event ||| BitVec.ofNat 8 (2 ^ n)
      ∧ t.tw.matched = s.tw.matched.set n true ∧ t.tw.lw = s.tw.lw ∧ t = { s with tw := t.tw, regs := t.regs, pcie := t.pcie } := by
  have hon : timeComparatorMatchOn n s = setTwEvent { s with tw := { s.tw with matched := s.tw.matched.set n true } } n :=
    if_neg (not_or.2 ⟨by simp [haux], not_or.2 ⟨ne_true_of_eq_false hm, not_or.2 ⟨Nat.not_lt.2 hle, hne⟩⟩⟩)
  obtain ⟨r, p, w, hset⟩ := setTwEvent_frame { s with tw := { s.tw with matched := s.tw.matched.set n true } } n
  exact ⟨_, (onIndex_eq hn).trans (congrArg (fun t => Host.Outcome.next (keep s t)) (hon.trans hset)), rfl, rfl, rfl, rfl⟩

/-- The levels of the analog comparators with comparator n's set. -/
def levelSet (s : State) (n : Nat) : State := { s with tw := { s.tw with level := s.tw.level ||| BitVec.ofNat 4 (2 ^ n) } }

theorem lastWord_eq (s : State) {code : Nat} (h : code < 2 ^ 16) : lastWord s code =
    { s with tw := { s.tw with
        lw := s.tw.lw.set s.tw.lwNext (BitVec.ofNat 64 (code + 2 ^ 16 * (s.tw.count.toNat % 2 ^ 48)))
        lwNext := (s.tw.lwNext + 1) % 8
        lwSeq := s.tw.lwSeq + 1 } } := by
  unfold lastWord
  rw [Nat.mod_eq_of_lt h]

theorem analogComparatorOn_eq (haux : s.board.auxOk = true) (hl : s.tw.level.getLsbD n = false) :
    analogComparatorOn n s = if s.tw.event.getLsbD (4 + n) then levelSet s n else lastWord (setTwEvent (levelSet s n) (4 + n)) (n + 1) := by
  have hon : ¬ (s.board.auxOk = false ∨ s.tw.level.getLsbD n = true) := by simp [haux, hl]
  refine (if_neg hon).trans ?_
  cases s.tw.event.getLsbD (4 + n) <;> rfl

theorem analogComparator_row (haux : s.board.auxOk = true) (hn : n < 4) (hl : s.tw.level.getLsbD n = false) :
    ∃ t, exec (.analogComparator n) s = .next t
      ∧ t.tw.level = s.tw.level ||| BitVec.ofNat 4 (2 ^ n) ∧ t.tw.event.getLsbD (4 + n) = true
      ∧ t.tw.lwSeq = (if s.tw.event.getLsbD (4 + n) then s.tw.lwSeq else s.tw.lwSeq + 1)
      ∧ t.tw.lw = (if s.tw.event.getLsbD (4 + n) then s.tw.lw
          else s.tw.lw.set s.tw.lwNext (BitVec.ofNat 64 (n + 1 + 2 ^ 16 * (s.tw.count.toNat % 2 ^ 48))))
      ∧ t = { s with tw := t.tw, regs := t.regs, pcie := t.pcie } := by
  have hon := analogComparatorOn_eq haux hl
  have hexec : exec (.analogComparator n) s = .next (keep s (analogComparatorOn n s)) := onIndex_eq hn
  cases hflag : s.tw.event.getLsbD (4 + n)
  case true =>
    rw [hflag, if_pos rfl] at hon
    rw [hexec, hon]
    exact ⟨_, rfl, rfl, hflag, rfl, rfl, rfl⟩
  case false =>
    obtain ⟨r, p, w, hset⟩ := setTwEvent_frame (levelSet s n) (4 + n)
    rw [hflag, if_neg Bool.false_ne_true, lastWord_eq _ (by omega), hset] at hon
    rw [hexec, hon]
    exact ⟨_, rfl, rfl, getLsbD_or_two_pow (by omega) _, rfl, rfl, rfl⟩

theorem analogLevelClear_row (haux : s.board.auxOk = true) (hn : n < 4) : exec (.analogLevelClear n) s
    = .next { s with tw := { s.tw with level := s.tw.level &&& ~~~ BitVec.ofNat 4 (2 ^ n) } } := by
  have hon : analogLevelClearOn n s = _ := if_pos haux
  exact (onIndex_eq hn).trans (congrArg (fun t => Host.Outcome.next (keep s t)) hon)

end Comparators

/-! ### The target on the management bus (R468) -/

theorem twWrite_frame (s : State) (off : Nat) (v : U32) : ∃ w, twWrite s off v = { s with tw := w } := by
  unfold twWrite
  extract_lets
  repeat' split
  all_goals exact ⟨_, rfl⟩

theorem takeHigh_frame (s : State) (fn a now : Nat) (changing : Bool) :
    ∃ c d, (takeHigh s fn a now changing).2 = { s with captures := c, draws := d } := by
  unfold takeHigh
  split
  · exact ⟨_, _, rfl⟩
  · split
    · exact ⟨_, _, rfl⟩
    · exact ⟨_, _, rfl⟩

theorem twRead_frame (s : State) (reader off : Nat) : ∃ c d, (twRead s reader off).2 = { s with captures := c, draws := d } := by
  unfold twRead
  split
  · exact ⟨_, _, rfl⟩
  · split
    · exact takeHigh_frame ..
    · exact ⟨_, _, rfl⟩

section Target

variable {s : State} {c : Nat}

theorem twilightTarget_write (haux : s.board.auxOk = true) (hlo : 0x10 ≤ c) (hhi : c < 0x40) (v : U32) :
    exec (.twilightTargetAccess c (some v)) s = .next (twWrite s (4 * c) v) := by
  have hon : twilightTargetAccessOn c (some v) s = twWrite s (4 * c) v :=
    (if_neg (ne_false_of_eq_true haux)).trans (if_pos ⟨hlo, hhi⟩)
  obtain ⟨w, hw⟩ := twWrite_frame s (4 * c) v
  refine (congrArg (fun t => Host.Outcome.next (keep s t)) hon).trans (congrArg _ ?_)
  rw [hw]
  rfl

theorem twilightTarget_discards (haux : s.board.auxOk = true) (hc : c < 0x10 ∨ 0x40 ≤ c) (v : U32) :
    exec (.twilightTargetAccess c (some v)) s = .next s := by
  have hon : twilightTargetAccessOn c (some v) s = s := (if_neg (ne_false_of_eq_true haux)).trans (if_neg (by omega))
  exact congrArg (fun t => Host.Outcome.next (keep s t)) hon

theorem twilightTarget_read (haux : s.board.auxOk = true) (hlo : 0x10 ≤ c) (hhi : c < 0x40) :
    exec (.twilightTargetAccess c none) s = .next (answer (twRead s 16 (4 * c)).2 (toLE 4 (twRead s 16 (4 * c)).1)) := by
  have hon : twilightTargetAccessOn c none s = answer (twRead s 16 (4 * c)).2 (toLE 4 (twRead s 16 (4 * c)).1) :=
    (if_neg (ne_false_of_eq_true haux)).trans (if_pos ⟨hlo, hhi⟩)
  obtain ⟨cs, d, hread⟩ := twRead_frame s 16 (4 * c)
  refine (congrArg (fun t => Host.Outcome.next (keep s t)) hon).trans (congrArg _ ?_)
  rw [hread]
  rfl

theorem twilightTarget_status (haux : s.board.auxOk = true) :
    exec (.twilightTargetAccess 1 none) s = .next (answer s (toLE 4 (twStatusWord s))) := by
  have hon : twilightTargetAccessOn 1 none s = answer s (toLE 4 (twStatusWord s)) := if_neg (ne_false_of_eq_true haux)
  exact congrArg (fun t => Host.Outcome.next (keep s t)) hon

end Target

theorem twLwClear_row {s : State} (h : Answers s 0) :
    exec (.twLwClear 0) s = .next { s with tw := { s.tw with lw := List.replicate 8 0, lwNext := 0 } } := onBar0_eq h

/-- Settles O50: each event by its lemma, and the target's writes by the registers of the TW_ page; code 0x13 is TW_EVENT. -/
theorem twilightRows : Obligations.TwilightRows := by
  unfold Obligations.TwilightRows
  exact fun s haux => ⟨fun n hn hm hle hne => timeComparatorMatch_row haux hn hm hle hne, fun n hn hl => analogComparator_row haux hn hl,
    fun n hn => analogLevelClear_row haux hn, twLwClear_row, rfl, fun c v hlo hhi => twilightTarget_write haux hlo hhi v,
    fun c v hc => twilightTarget_discards haux hc v, fun c hlo hhi => twilightTarget_read haux hlo hhi, twilightTarget_status haux,
    fun v => twilightTarget_write haux (by decide) (by decide) v⟩

end Sys2Proof.Machine

/-! # The rails, PERST# and hot resets (O54)

What a reset of the core leaves in GL_STATUS, what a start writes, and what the power stages stopping takes; the rows are short uses of
these. -/

namespace Sys2Proof.Machine

/-! ### GL_STATUS at a reset (Table 15-5) -/

/-- The STKY bits of a register. -/
def stickyMask (k : Nat) : U32 := BitVec.ofNat 32 (match regSpec (k % 2 ^ 24) with | some r => r.stky | none => 0)

/-- What a table reads outside the STKY bits is the Reset column. -/
def ResetBut (d : Nat → U32) (t : Table U32) : Prop := ∀ k, ∃ v, tget d t k = (v &&& stickyMask k) ||| (d k &&& ~~~ stickyMask k)

theorem keepSticky_reset (d : Nat → U32) (t : Table U32) : ResetBut d (keepSticky d t) := by
  refine List.foldlRecOn t _ (fun k => ⟨d k, ?_⟩) (fun acc hacc e _ k => ?_)
  · change d k = _
    rw [← BitVec.and_or_distrib_left, BitVec.or_not_self, BitVec.and_allOnes]
  · rw [tget_tset]
    split
    · next h =>
      subst h
      exact ⟨e.2, rfl⟩
    · exact hacc k

theorem getReg_status (s : State) : getReg s 0 0x40 = (tget regReset s.regs 0x40).toNat := if_neg (ne_true_of_eq_false isPerFn_status)

/-- GL_STATUS has no STKY bit below bit 16, and begins at PHASE 1. -/
theorem fld_resetCore_status (s : State) : fld (resetCore s) 0x40 0 13 = 1 := by
  obtain ⟨v, hv⟩ := keepSticky_reset regReset s.regs 0x40
  have hmask : stickyMask 0x40 = 0xFFFF0000#32 := by decide
  have hreset : regReset 0x40 = 1#32 := by decide
  have hlow : (tget regReset (keepSticky regReset s.regs) 0x40).setWidth 16 = 1#16 := by
    rw [hv, hmask, hreset, BitVec.setWidth_or, BitVec.setWidth_and]
    simp
  have hreg : getReg (resetCore s) 0 0x40 = (tget regReset (keepSticky regReset s.regs) 0x40).toNat := getReg_status _
  have hnat := congrArg BitVec.toNat hlow
  rw [BitVec.toNat_setWidth] at hnat
  change _ = 1 at hnat
  unfold fld bits
  rw [hreg]
  omega

theorem status_begun {t : State} (h : fld t 0x40 0 13 = 1) : phaseOf t = 1 ∧ isReady t = false := by
  unfold phaseOf isReady
  unfold fld bits at *
  rw [beq_eq_false_iff_ne]
  omega

/-! ### A start (R362, R371, R378) -/

/-- t is s with GL_STATUS counted up above bit 16, and with an event logged. -/
structure OnlyCounts (s t : State) : Prop where
  frame : ∃ r p, t = { s with regs := r, peat := p }
  low : ∀ lo len, lo + len ≤ 16 → fld t 0x40 lo len = fld s 0x40 lo len

theorem OnlyCounts.refl (s : State) : OnlyCounts s s := ⟨⟨_, _, rfl⟩, fun _ _ _ => rfl⟩

theorem OnlyCounts.trans {s t u : State} (h : OnlyCounts s t) (k : OnlyCounts t u) : OnlyCounts s u := by
  obtain ⟨⟨_, _, rfl⟩, h⟩ := h
  obtain ⟨⟨_, _, rfl⟩, k⟩ := k
  exact ⟨⟨_, _, rfl⟩, fun lo len hw => (k lo len hw).trans (h lo len hw)⟩

theorem setFld_counts {lo len : Nat} (hlo : 16 ≤ lo) (hw : lo + len ≤ 32) (s : State) (v : Nat) : OnlyCounts s (setFld s 0x40 lo len v) := by
  obtain ⟨r, h⟩ := setFld_frame isPerFn_status s lo len v
  exact ⟨⟨r, _, h⟩, fun _ _ hle => fld_setFld_other isPerFn_status hw (.inl (by omega))⟩

theorem logEvent_counts (s : State) (block code fn : Nat) (payload : List Byte) : OnlyCounts s (logEvent s block code fn payload) := by
  obtain ⟨p, h⟩ := logEvent_frame s block code fn payload
  rw [h]
  exact ⟨⟨_, p, rfl⟩, fun _ _ _ => fld_of_regs rfl isPerFn_status⟩

/-- The stores, the clock and the power state of a start, before GL_STATUS is written. -/
def startStores (s : State) : State :=
  let u := reloadStores s s.board.mainWasLost
  { u with
    regs := if s.board.mainWasLost then [] else s.regs
    fnRegs := if s.board.mainWasLost then [] else s.fnRegs
    t0 := s.us
    board := { s.board with power := .d0, mainWasLost := false, interrupted := 0 } }

/-- And the flag of a warm start. -/
def flagged (s : State) : State := setFld (startStores s) 0x40 13 1 (if s.board.mainWasLost then 0 else 1)

/-- What a warm start adds: the counts of resets, and the event that names the phase interrupted. -/
def countWarm (was : Nat) (s : State) : State :=
  let u := setFld s 0x40 24 8 (satAdd 8 (fld s 0x40 24 8) 1)
  let v := if was = 6 then setFld u 0x40 16 8 (satAdd 8 (fld u 0x40 16 8) 1) else u
  logEvent v (blockId 0x01 0 0) 0x702 noFn (toLE 1 was ++ toLE 1 (if was = 6 then 1 else 0))

theorem countWarm_counts (was : Nat) (s : State) : OnlyCounts s (countWarm was s) := by
  unfold countWarm
  extract_lets u v
  have hu : OnlyCounts s u := setFld_counts (by decide) (by decide) ..
  have hv : OnlyCounts u v := by
    unfold v
    split
    · exact setFld_counts (by decide) (by decide) ..
    · exact .refl u
  exact hu.trans (hv.trans (logEvent_counts ..))

theorem beginStart_eq (s : State) : beginStart s = if s.board.mainWasLost then flagged s else countWarm s.board.interrupted (flagged s) := by
  unfold flagged startStores beginStart
  cases s.board.mainWasLost <;> rfl

theorem beginStart_counts (s : State) : OnlyCounts (flagged s) (beginStart s) := by
  rw [beginStart_eq]
  split
  · exact .refl _
  · exact countWarm_counts ..

/-- t is s with a start begun. -/
structure StartBegun (s t : State) : Prop where
  frame : ∃ r f p l, t = { s with
    regs := r, fnRegs := f, peat := p, lifetime := l, t0 := s.us
    board := { s.board with power := .d0, mainWasLost := false, interrupted := 0 } }
  warm : fld t 0x40 13 1 = if s.board.mainWasLost then 0 else 1
  low : fld s 0x40 0 13 = 1 → fld t 0x40 0 13 = 1

theorem beginStart_row (s : State) : StartBegun s (beginStart s) := by
  obtain ⟨⟨r, p, hframe⟩, hlow⟩ := beginStart_counts s
  obtain ⟨r', hset⟩ := setFld_frame isPerFn_status (startStores s) 13 1 (if s.board.mainWasLost then 0 else 1)
  refine ⟨⟨r, (startStores s).fnRegs, p, (startStores s).lifetime, ?_⟩, ?_, fun h => ?_⟩
  · rw [hframe, flagged, hset]
    rfl
  · rw [hlow 13 1 (by decide), flagged, fld_setFld isPerFn_status (by decide)]
    cases s.board.mainWasLost <;> rfl
  · rw [hlow 0 13 (by decide), flagged, fld_setFld_other isPerFn_status (by decide) (.inl (by decide))]
    cases hcold : s.board.mainWasLost
    case true =>
      have hregs : (startStores s).regs = [] := by simp [startStores, hcold]
      unfold fld
      rw [getReg_status, hregs]
      decide
    case false =>
      have hregs : (startStores s).regs = s.regs := by simp [startStores, hcold]
      exact (fld_of_regs hregs isPerFn_status).trans h

/-- A start, if one begins, leaves the twilight domain and the rails. -/
theorem tryStart_rails (s : State) : (tryStart s).tw = s.tw ∧ (tryStart s).board.mainOk = s.board.mainOk ∧ (tryStart s).board.auxOk = s.board.auxOk := by
  unfold tryStart
  split
  · obtain ⟨r, f, p, l, h⟩ := (beginStart_row s).frame
    rw [h]
    exact ⟨rfl, rfl, rfl⟩
  · exact ⟨rfl, rfl, rfl⟩

/-! ### PERST# -/

theorem holdReset_frame (s : State) : ∃ n, holdReset s = { resetCore s with board := { (resetCore s).board with interrupted := n } } := by
  unfold holdReset
  extract_lets was t
  split
  · exact ⟨_, rfl⟩
  · exact ⟨_, rfl⟩

theorem awake_of_perst {t : State} (h : t.board.perst = true) : awake t = false := by
  unfold awake
  rw [h]
  simp

theorem perstAssert_row {s : State} (hp : s.board.perst = false) : ∃ t, exec .perstAssert s = .next t ∧ t.board.perst = true ∧ awake t = false
    ∧ t.queues = [] ∧ t.plans = [] ∧ t.tw = s.tw ∧ t.mem = s.mem ∧ t.flash.retired = s.flash.retired := by
  have hon : perstAssertOn s = { holdReset s with board := { (holdReset s).board with perst := true } } := if_neg (ne_true_of_eq_false hp)
  obtain ⟨n, hreset⟩ := holdReset_frame s
  rw [hreset] at hon
  exact ⟨_, congrArg (fun t => Host.Outcome.next (keep s t)) hon, rfl, awake_of_perst rfl, rfl, rfl, rfl, rfl, rfl⟩

/-- PERST# released, and WAKE# with it. -/
def released (s : State) : State := { s with board := { s.board with perst := false }, tw := { s.tw with wakeBy := 0 } }

theorem perstDeassert_row {s : State} (hp : s.board.perst = true) (hm : s.board.mainOk = true) (ha : s.board.auxOk = true) :
    ∃ t, exec .perstDeassert s = .next t ∧ t.board.perst = false ∧ wakePin t = false ∧ t.t0 = s.us
      ∧ fld t 0x40 13 1 = (if s.board.mainWasLost then 0 else 1) ∧ t.mem = s.mem := by
  have hstart : tryStart (released s) = beginStart (released s) := if_pos (by simp [released, hm, ha])
  have hon : perstDeassertOn s = beginStart (released s) := (if_pos hp).trans hstart
  obtain ⟨⟨r, f, p, l, hframe⟩, hwarm, -⟩ := beginStart_row (released s)
  rw [hframe] at hon hwarm
  exact ⟨_, congrArg (fun t => Host.Outcome.next (keep s t)) hon, rfl, rfl, rfl, (fld_of_regs rfl isPerFn_status).trans hwarm, rfl⟩

theorem hotReset_row (c : HotCause) {s : State} (hm : s.board.mainOk = true) (hp : s.board.perst = false) :
    ∃ t, exec (.hotReset c) s = .next t ∧ phaseOf t = 1 ∧ isReady t = false ∧ t.t0 = s.us ∧ t.queues = [] ∧ t.plans = [] ∧ t.syncs = []
      ∧ t.tw = s.tw := by
  have hon : hotResetOn c s = beginStart (holdReset s) := if_pos (by simp [hm, hp])
  obtain ⟨n, hreset⟩ := holdReset_frame s
  have hlow : fld (holdReset s) 0x40 0 13 = 1 := by
    rw [hreset]
    exact (fld_of_regs rfl isPerFn_status).trans (fld_resetCore_status s)
  obtain ⟨⟨r, f, p, l, hframe⟩, -, hstatus⟩ := beginStart_row (holdReset s)
  have hbegun := hstatus hlow
  rw [hframe, hreset] at hon hbegun
  obtain ⟨hphase, hready⟩ := status_begun hbegun
  exact ⟨_, congrArg (fun t => Host.Outcome.next (keep s t)) hon, (fld_of_regs rfl isPerFn_status).trans hphase, (isReady_keep ..).trans hready,
    rfl, rfl, rfl, rfl, rfl⟩

/-! ### The rails (R463, R473) -/

theorem stopStages_frame (s : State) : ∃ n, stopStages s =
    { resetCore s with board := { (resetCore s).board with interrupted := n, mainOk := false, mainWasLost := true, power := .off } } := by
  obtain ⟨n, h⟩ := holdReset_frame s
  refine ⟨n, ?_⟩
  unfold stopStages
  rw [h]

theorem mainLost_row {s : State} (hi : s.board.mainIn = true) : ∃ t, exec .mainLost s = .next t ∧ t.board.mainOk = false ∧ t.board.power = .off
    ∧ awake t = false ∧ t.board.mainWasLost = true ∧ t.queues = [] ∧ t.tw = s.tw := by
  have hon : mainLostOn s = { stopStages s with board := { (stopStages s).board with mainIn := false } } := if_pos hi
  obtain ⟨n, hstop⟩ := stopStages_frame s
  rw [hstop] at hon
  exact ⟨_, congrArg (fun t => Host.Outcome.next (keep s t)) hon, rfl, rfl, rfl, rfl, rfl, rfl⟩

theorem auxLost_row {s : State} (ha : s.board.auxOk = true) : ∃ t, exec .auxLost s = .next t ∧ t.board.auxOk = false ∧ t.board.mainOk = false
    ∧ t.tw = {} := by
  have hon : auxLostOn s = { stopStages s with tw := {}, nsSinceTick := 0, board := { (stopStages s).board with auxOk := false } } := if_pos ha
  obtain ⟨n, hstop⟩ := stopStages_frame s
  rw [hstop] at hon
  exact ⟨_, congrArg (fun t => Host.Outcome.next (keep s t)) hon, rfl, rfl, rfl⟩

theorem thermtrip_row {s : State} (hm : s.board.mainOk = true) : ∃ t, exec .thermtrip s = .next t ∧ t.board.mainOk = false ∧ t.tw.thermtrip = true
    ∧ t.tw.lwSeq = s.tw.lwSeq + 1 := by
  have hon : thermtripOn s = lastWord { stopStages s with tw := { (stopStages s).tw with thermtrip := true } } 0x0006 := if_pos hm
  obtain ⟨n, hstop⟩ := stopStages_frame s
  rw [hstop, lastWord_eq _ (by decide)] at hon
  exact ⟨_, congrArg (fun t => Host.Outcome.next (keep s t)) hon, rfl, rfl, rfl⟩

/-- Main power back: a latched trip is over, the last-word entry is written, and the power stages run. -/
def mainBack (s : State) : State :=
  let u := lastWord { s with board := { s.board with mainIn := true }, tw := { s.tw with thermtrip := false } } 0x0005
  { u with board := { u.board with mainOk := true } }

theorem mainBack_tw (s : State) : (mainBack s).tw = { s.tw with
    thermtrip := false
    lw := s.tw.lw.set s.tw.lwNext (BitVec.ofNat 64 (5 + 2 ^ 16 * (s.tw.count.toNat % 2 ^ 48)))
    lwNext := (s.tw.lwNext + 1) % 8
    lwSeq := s.tw.lwSeq + 1 } := by
  unfold mainBack
  rw [lastWord_eq _ (by decide)]

theorem mainPowerReturn_row {s : State} (hi : s.board.mainIn = false) (ha : s.board.auxOk = true) :
    ∃ t, exec .mainPowerReturn s = .next t ∧ t.board.mainOk = true ∧ t.tw.thermtrip = false ∧ t.tw.lwSeq = s.tw.lwSeq + 1
      ∧ t.tw.lw = s.tw.lw.set s.tw.lwNext (BitVec.ofNat 64 (5 + 2 ^ 16 * (s.tw.count.toNat % 2 ^ 48))) := by
  have hon : mainPowerReturnOn s = tryStart (mainBack s) := (if_neg (ne_true_of_eq_false hi)).trans (if_pos ha)
  obtain ⟨htw, hmain, -⟩ := tryStart_rails (mainBack s)
  rw [mainBack_tw] at htw
  exact ⟨_, congrArg (fun t => Host.Outcome.next (keep s t)) hon, hmain, congrArg Twilight.thermtrip htw, congrArg Twilight.lwSeq htw,
    congrArg Twilight.lw htw⟩

/-- Aux power and the twilight domain at its Reset column. -/
def auxUp (k : Nat) (s : State) : State := { s with tw := { straps := k % 8 }, nsSinceTick := 0, board := { s.board with auxOk := true } }

theorem auxPowerOnOn_eq (k : Nat) {s : State} (ha : s.board.auxOk = false) : auxPowerOnOn k s =
    if s.board.mainIn then tryStart { auxUp k s with board := { (auxUp k s).board with mainOk := true } } else auxUp k s :=
  if_neg (ne_true_of_eq_false ha)

theorem auxPowerOn_row (k : Nat) {s : State} (ha : s.board.auxOk = false) : ∃ t, exec (.auxPowerOn k) s = .next t ∧ t.board.auxOk = true
    ∧ t.tw = { straps := k % 8 } := by
  have hon : (auxPowerOnOn k s).board.auxOk = true ∧ (auxPowerOnOn k s).tw = { straps := k % 8 } := by
    rw [auxPowerOnOn_eq k ha]
    split
    · obtain ⟨htw, -, haux⟩ := tryStart_rails { auxUp k s with board := { (auxUp k s).board with mainOk := true } }
      exact ⟨haux, htw⟩
    · exact ⟨rfl, rfl⟩
  exact ⟨_, rfl, hon⟩

/-- Settles O54: one lemma for each event. -/
theorem railRows : Obligations.RailRows := by
  unfold Obligations.RailRows
  exact fun s => ⟨perstAssert_row, perstDeassert_row, mainLost_row, mainPowerReturn_row, fun k => auxPowerOn_row k, auxLost_row, thermtrip_row,
    fun c => hotReset_row c⟩

end Sys2Proof.Machine

/-! # The link's events and its low-power states (O52)

Of what a link event reports only PX_LINK_STATUS and the counts are the row's own: a change of HEALTH and its record leave both alone. -/

namespace Sys2Proof.Machine

/-! ### PX_LINK_STATUS (R338) -/

theorem isPerFn_linkStatus : isPerFn linkStatus = false := by decide

/-- A field of PX_LINK_STATUS below the one written. -/
theorem fld_setLinkStatus_below {s : State} {lo len v lo' len' : Nat} (hw : lo + len ≤ 32) (hle : lo' + len' ≤ lo) :
    fld (setFld s linkStatus lo len v) linkStatus lo' len' = fld s linkStatus lo' len' := fld_setFld_other isPerFn_linkStatus hw (.inl hle)

/-- Of the registers a change of HEALTH writes HEALTH, ERR_STAT and PX_MSIX's count alone. -/
theorem getReg_setHealth {s : State} {page v a : Nat} (hmsix : a ≠ reg 3500 0x6C) (hstat : a ≠ reg page 0x18) (hhealth : a ≠ reg page 0x28) :
    getReg (setHealth s page v) 0 a = getReg s 0 a := by
  unfold setHealth
  split
  · rfl
  · rw [getReg_setErrStat hmsix hstat, getReg_setReg_zero, if_neg hhealth]

theorem getReg_degrade {s : State} {page a : Nat} (hmsix : a ≠ reg 3500 0x6C) (hstat : a ≠ reg page 0x18) (hhealth : a ≠ reg page 0x28) :
    getReg (degrade s page) 0 a = getReg s 0 a := by
  unfold degrade
  split
  · rfl
  · exact getReg_setHealth hmsix hstat hhealth

theorem OnlyFlags.board {s t : State} (h : OnlyFlags s t) : t.board = s.board := by
  obtain ⟨_, _, _, rfl⟩ := h
  rfl

theorem setDegraded_true (s : State) (speed width : Nat) : setDegraded s true speed width =
    logEvent (degrade (setFld s linkStatus 16 1 1) 3500) (blockId 0x70 0 0) 0x301 noFn (toLE 1 speed ++ toLE 1 width) := by
  unfold setDegraded
  exact if_pos rfl

theorem setDegraded_false (s : State) (speed width : Nat) :
    setDegraded s false speed width = setHealth (setFld s linkStatus 16 1 0) 3500 healthGood := by
  unfold setDegraded
  exact if_neg Bool.false_ne_true

theorem logEvent_board (s : State) (block code fn : Nat) (payload : List Byte) : (logEvent s block code fn payload).board = s.board := by
  obtain ⟨_, h⟩ := logEvent_frame s block code fn payload
  rw [h]

/-- The verdict on a link is its DEGRADED bit; HEALTH and the record leave PX_LINK_STATUS as it is. -/
theorem fld_setDegraded (s : State) (bad : Bool) (speed width lo len : Nat) :
    fld (setDegraded s bad speed width) linkStatus lo len = fld (setFld s linkStatus 16 1 (if bad then 1 else 0)) linkStatus lo len := by
  unfold fld
  have hmsix : linkStatus ≠ reg 3500 0x6C := reg_ne_of_offset (by decide)
  have hstat : linkStatus ≠ reg 3500 0x18 := reg_ne_of_offset (by decide)
  have hhealth : linkStatus ≠ reg 3500 0x28 := reg_ne_of_offset (by decide)
  cases bad with
  | true => rw [setDegraded_true, getReg_logEvent, getReg_degrade hmsix hstat hhealth, if_pos rfl]
  | false => rw [setDegraded_false, getReg_setHealth hmsix hstat hhealth, if_neg Bool.false_ne_true]

theorem setDegraded_board (s : State) (bad : Bool) (speed width : Nat) : (setDegraded s bad speed width).board = s.board := by
  cases bad with
  | true =>
    rw [setDegraded_true, logEvent_board]
    exact ((setFld_only ..).flags.trans (degrade_only ..)).board
  | false =>
    rw [setDegraded_false]
    exact ((setFld_only ..).flags.trans (setHealth_only ..)).board

/-! ### LINK_UP (R338) -/

/-- A trained link's fields of PX_LINK_STATUS: speed, width, flit mode and the L0p width. -/
def linkTrained (speed width : Nat) (flit : Bool) (s : State) : State :=
  setFld (setFld (setFld (setFld s linkStatus 0 3 speed) linkStatus 3 5 width) linkStatus 8 1 (if flit then 1 else 0)) linkStatus 11 5 width

section Trained

variable {s : State} {speed width : Nat} {flit : Bool}

theorem linkTrained_speed (h : speed ≤ 6) : fld (linkTrained speed width flit s) linkStatus 0 3 = speed := by
  unfold linkTrained
  rw [fld_setLinkStatus_below (by decide) (by decide), fld_setLinkStatus_below (by decide) (by decide),
    fld_setLinkStatus_below (by decide) (by decide), fld_setFld isPerFn_linkStatus (by decide)]
  exact Nat.mod_eq_of_lt (by omega)

theorem linkTrained_width (h : width ≤ 16) : fld (linkTrained speed width flit s) linkStatus 3 5 = width := by
  unfold linkTrained
  rw [fld_setLinkStatus_below (by decide) (by decide), fld_setLinkStatus_below (by decide) (by decide),
    fld_setFld isPerFn_linkStatus (by decide)]
  exact Nat.mod_eq_of_lt (by omega)

theorem linkTrained_flit : fld (linkTrained speed width flit s) linkStatus 8 1 = if flit then 1 else 0 := by
  unfold linkTrained
  rw [fld_setLinkStatus_below (by decide) (by decide), fld_setFld isPerFn_linkStatus (by decide)]
  cases flit <;> rfl

theorem linkTrained_board : (linkTrained speed width flit s).board = s.board :=
  ((setFld_only ..).trans ((setFld_only ..).trans ((setFld_only ..).trans (setFld_only ..)))).flags.board

end Trained

/-- A link below width 4, or below generation 4 and below its partner's. -/
def linkBad (speed width partner : Nat) : Bool := decide (width < 4) || (decide (speed < 4) && decide (speed < partner))

theorem linkUp_row {s : State} {speed width : Nat} (partner : Nat) {flit : Bool} (hm : s.board.mainOk = true) (hp : s.board.perst = false)
    (hlo : 1 ≤ speed) (hhi : speed ≤ 6) (hflit : speed = 6 → flit = true) (hw : width ∈ [1, 2, 4, 8, 16]) :
    ∃ t, exec (.linkUp speed width partner flit) s = .next t ∧ t.board.l1 = none ∧ fld t linkStatus 0 3 = speed
      ∧ fld t linkStatus 3 5 = width ∧ fld t linkStatus 8 1 = (if flit then 1 else 0)
      ∧ fld t linkStatus 16 1 = (if width < 4 ∨ (speed < 4 ∧ speed < partner) then 1 else 0) := by
  have hw16 : width ≤ 16 := by
    simp only [List.mem_cons, List.not_mem_nil, or_false] at hw
    omega
  have hcontains : [1, 2, 4, 8, 16].contains width = true := List.contains_iff_mem.2 hw
  have hon : linkUpOn speed width partner flit s =
      setDegraded (linkTrained speed width flit (backInL0 s)) (linkBad speed width partner) speed width := by
    refine if_neg ?_
    rintro (h | h | h | h | ⟨h, h'⟩ | h)
    · exact ne_false_of_eq_true hm h
    · exact ne_true_of_eq_false hp h
    · omega
    · omega
    · exact ne_false_of_eq_true (hflit h) h'
    · exact ne_false_of_eq_true hcontains h
  have hother : ∀ lo len, lo + len ≤ 16 →
      fld (linkUpOn speed width partner flit s) linkStatus lo len = fld (linkTrained speed width flit (backInL0 s)) linkStatus lo len := by
    intro lo len hle
    rw [hon, fld_setDegraded, fld_setLinkStatus_below (by decide) hle]
  have hl1 : (linkUpOn speed width partner flit s).board.l1 = none := by
    rw [hon, setDegraded_board, linkTrained_board]
    rfl
  have hbad : fld (linkUpOn speed width partner flit s) linkStatus 16 1 = if width < 4 ∨ (speed < 4 ∧ speed < partner) then 1 else 0 := by
    rw [hon, fld_setDegraded, fld_setFld isPerFn_linkStatus (by decide)]
    unfold linkBad
    simp only [Bool.or_eq_true, Bool.and_eq_true, decide_eq_true_eq]
    split <;> rfl
  exact ⟨_, rfl, hl1, (hother 0 3 (by decide)).trans (linkTrained_speed hhi), (hother 3 5 (by decide)).trans (linkTrained_width hw16),
    (hother 8 1 (by decide)).trans linkTrained_flit, hbad⟩

/-! ### Replays, retrains and corrected flits (R338) -/

/-- A saturating counter, read back as the physical function reads it. -/
theorem getReg_addSat (s : State) (a n : Nat) : getReg (addSat s a n) 0 a = min (getReg s 0 a + n) (2 ^ 32 - 1) := by
  unfold addSat satAdd
  rw [getReg_setReg_zero, if_pos rfl]
  exact Nat.mod_eq_of_lt (by omega)

theorem lifeOf_addSat (s : State) (a n i : Nat) : lifeOf (addSat s a n) i = lifeOf s i := by
  obtain ⟨_, _, h⟩ := addSat_only s a n
  rw [h]
  rfl

theorem getReg_keep (s t : State) (fn a : Nat) : getReg (keep s t) fn a = getReg t fn a := rfl
theorem lifeOf_keep (s t : State) (i : Nat) : lifeOf (keep s t) i = lifeOf t i := rfl

/-- A link event counted in a register of the PX_ page and in an entry of the lifetime store. -/
theorem linkCount_row (s : State) {off : Nat} (i : Nat) (h40 : off % 4096 ≠ 0x40) (h48 : reg 3500 off ≠ reg 1 0x48) :
    getReg (addLife (addSat s (reg 3500 off) 1) i 1) 0 (reg 3500 off) = min (getReg s 0 (reg 3500 off) + 1) (2 ^ 32 - 1)
      ∧ lifeOf (addLife (addSat s (reg 3500 off) 1) i 1) i = (lifeOf s i + 1) % 2 ^ 64 := by
  rw [getReg_addLife (reg_ne_of_offset h40) h48, getReg_addSat, lifeOf_addLife, if_pos rfl, lifeOf_addSat]
  exact ⟨rfl, rfl⟩

theorem linkReplayOn_replay {s : State} : linkReplayOn .replay s = addLife (addSat s (reg 3500 0x44) 1) 162 1 := rfl
theorem linkReplayOn_retrain {s : State} : linkReplayOn .retrain s = addLife (addSat s (reg 3500 0x48) 1) 163 1 := rfl

theorem linkReplay_row (s : State) : ∃ t, exec (.linkReplay .replay) s = .next t
    ∧ getReg t 0 (reg 3500 0x44) = min (getReg s 0 (reg 3500 0x44) + 1) (2 ^ 32 - 1) ∧ lifeOf t 162 = (lifeOf s 162 + 1) % 2 ^ 64 := by
  obtain ⟨hreg, hlife⟩ := linkCount_row s 162 (off := 0x44) (by decide) (by decide)
  exact ⟨_, congrArg (fun t => Host.Outcome.next (keep s t)) linkReplayOn_replay, (getReg_keep ..).trans hreg, (lifeOf_keep ..).trans hlife⟩

theorem linkRetrain_row (s : State) : ∃ t, exec (.linkReplay .retrain) s = .next t
    ∧ getReg t 0 (reg 3500 0x48) = min (getReg s 0 (reg 3500 0x48) + 1) (2 ^ 32 - 1) ∧ lifeOf t 163 = (lifeOf s 163 + 1) % 2 ^ 64 := by
  obtain ⟨hreg, hlife⟩ := linkCount_row s 163 (off := 0x48) (by decide) (by decide)
  exact ⟨_, congrArg (fun t => Host.Outcome.next (keep s t)) linkReplayOn_retrain, (getReg_keep ..).trans hreg, (lifeOf_keep ..).trans hlife⟩

theorem fecCorrected_row (s : State) : ∃ t, exec (.linkReplay .fecCorrected) s = .next t
    ∧ getReg t 0 (reg 3500 0x4C) = min (getReg s 0 (reg 3500 0x4C) + 1) (2 ^ 32 - 1) ∧ t = { s with regs := t.regs } := by
  obtain ⟨r, hframe⟩ := setReg_frame (a := reg 3500 0x4C) (by decide) s 0 (satAdd 32 (getReg s 0 (reg 3500 0x4C)) 1)
  have hregs : addSat s (reg 3500 0x4C) 1 = { s with regs := (addSat s (reg 3500 0x4C) 1).regs } := by rw [addSat, hframe]
  exact ⟨_, congrArg Host.Outcome.next (keep_of_regs hregs), getReg_addSat .., hregs⟩

/-! ### Low-power states (R339, R356) -/

theorem l1Entry_row {s : State} {sub : L1Sub} (hup : fld s linkStatus 0 3 ≠ 0) (hl0 : s.board.l1 = none)
    (hl2 : sub = .l2 → s.board.power = .d3hot) :
    exec (.l1Entry sub) s = .next { s with board := { s.board with l1 := some sub, clkreqReleased := decide (sub = .l12) } } := by
  have hon : l1EntryOn sub s = { s with board := { s.board with l1 := some sub, clkreqReleased := decide (sub = .l12) } } := by
    refine if_neg ?_
    rintro (h | h | ⟨h, h'⟩)
    · exact hup h
    · rw [hl0] at h
      exact absurd h (by decide)
    · exact h' (hl2 h)
  exact congrArg (fun t => Host.Outcome.next (keep s t)) hon

theorem l1Exit_row {s : State} (h : s.board.l1.isSome = true) : exec .l1Exit s = .next (backInL0 s) := by
  have hsome : ¬ s.board.l1.isNone = true := by
    rw [← Option.not_isSome, h]
    decide
  exact congrArg (fun t => Host.Outcome.next (keep s t)) (if_neg hsome : l1ExitOn s = backInL0 s)

theorem l0pWidthChange_row {s : State} {w : Nat} (hw : w ∈ [4, 8, 16]) (hflit : fld s linkStatus 8 1 = 1) (hle : w ≤ fld s linkStatus 3 5) :
    ∃ t, exec (.l0pWidthChange w) s = .next t ∧ fld t linkStatus 11 5 = w ∧ t = { s with regs := t.regs } := by
  have hw32 : w < 2 ^ 5 := by
    simp only [List.mem_cons, List.not_mem_nil, or_false] at hw
    omega
  have hcontains : [4, 8, 16].contains w = true := List.contains_iff_mem.2 hw
  have hon : l0pWidthChangeOn w s = setFld s linkStatus 11 5 w := by
    refine if_neg ?_
    rintro (h | h | h)
    · omega
    · exact ne_false_of_eq_true hcontains h
    · omega
  obtain ⟨r, hframe⟩ := setFld_frame isPerFn_linkStatus s 11 5 w
  have hregs : setFld s linkStatus 11 5 w = { s with regs := (setFld s linkStatus 11 5 w).regs } := by rw [hframe]
  refine ⟨_, congrArg Host.Outcome.next ((congrArg (keep s) hon).trans (keep_of_regs hregs)), ?_, hregs⟩
  rw [fld_setFld isPerFn_linkStatus (by decide)]
  exact Nat.mod_eq_of_lt hw32

/-- Settles O52: one lemma for each event; replays and retrains are both counted twice. -/
theorem linkRows : Obligations.LinkRows := by
  unfold Obligations.LinkRows
  exact fun s => ⟨fun _ _ partner _ => linkUp_row partner, linkReplay_row s, linkRetrain_row s, fecCorrected_row s, fun _ => l1Entry_row, l1Exit_row,
    fun _ => l0pWidthChange_row⟩

end Sys2Proof.Machine

/-! # The queue of commands (O1, O2)

A step takes the command at the front, and every row answers a state that `keep` made, with the queue that stood behind it. -/

namespace Sys2Proof.Machine

theorem step_front {s : State} {c : Instr} {r : List Instr} (h : s.pending = c :: r) : step s = exec c { s with pending := r } := by
  unfold step
  rw [h]

/-- A next state has the queue that the row began with, TRAINING's too. -/
theorem exec_pending {i : Instr} {s t : State} (h : exec i s = .next t) : t.pending = s.pending := by
  have hkeeps : KeepsPart s (exec i s) ∨ ∃ failed, i = .training failed := by
    by_cases hi : ∃ failed, i = .training failed
    · exact .inr hi
    · exact .inl (exec_keepsPart (fun failed he => hi ⟨failed, he⟩) s)
  rcases hkeeps with hkeeps | ⟨failed, rfl⟩
  · obtain ⟨u, rfl⟩ := hkeeps.inv t h
    rfl
  · cases h
    rfl

/-- Settles O1: the front of the queue is the command, and its rest the queue that the row begins with. -/
theorem stepRunsFront : Obligations.StepRunsFront := by
  unfold Obligations.StepRunsFront
  exact fun c s => step_front (s := { s with pending := c :: s.pending }) rfl

/-- Settles O2: the step runs the front on the rest, which no row changes. -/
theorem restWaits : Obligations.RestWaits := by
  unfold Obligations.RestWaits
  intro s t c r hpending hstep
  rw [step_front hpending] at hstep
  exact exec_pending hstep

end Sys2Proof.Machine

/-! # The repetition count test (O47)

The count of equal samples in succession grows with each sample that repeats the last (R380); a block whose samples all pass never holds a
count of 61. -/

namespace Sys2Proof.Machine

/-- A sample that passes both tests: it is the last one, and the count of its repetitions lies below 61. -/
theorem sampleTest_passed {r t : Rng} {b : Bool} (h : sampleTest r b = (t, none)) :
    t.rctLast = b ∧ t.rctRun = (if r.rctRun ≠ 0 ∧ b = r.rctLast then r.rctRun + 1 else 1) ∧ t.rctRun < 61 := by
  obtain ⟨ht, hpass⟩ := Prod.mk.inj h
  have hrun : ¬ 61 ≤ t.rctRun := by
    intro hlong
    rw [← ht] at hlong
    rw [if_pos hlong] at hpass
    exact absurd hpass nofun
  subst ht
  exact ⟨rfl, rfl, Nat.lt_of_not_le hrun⟩

theorem takeSamples_succ {raw : BitVec 2048} {i n : Nat} {r t : Rng} :
    takeSamples raw i (n + 1) r = .ok t ↔
      ∃ u, sampleTest r (raw.getLsbD i) = (u, none) ∧ takeSamples raw (i + 1) n { u with s := absorb u.s (raw.getLsbD i) } = .ok t := by
  rw [takeSamples]
  generalize sampleTest r (raw.getLsbD i) = x
  obtain ⟨u, _ | apt⟩ := x
  · exact ⟨fun h => ⟨u, rfl, h⟩, fun ⟨v, hv, h⟩ => by cases hv; exact h⟩
  · exact ⟨nofun, fun ⟨v, hv, _⟩ => by cases hv⟩

/-- Samples taken one stretch after another. -/
theorem takeSamples_add {raw : BitVec 2048} {i m n : Nat} {r t : Rng} :
    takeSamples raw i (m + n) r = .ok t ↔ ∃ u, takeSamples raw i m r = .ok u ∧ takeSamples raw (i + m) n u = .ok t := by
  induction m generalizing i r with
  | zero =>
    rw [Nat.zero_add]
    exact ⟨fun h => ⟨r, rfl, h⟩, fun ⟨u, hu, h⟩ => by cases hu; exact h⟩
  | succ m ih =>
    rw [Nat.add_right_comm, show i + (m + 1) = i + 1 + m by omega]
    simp only [takeSamples_succ, ih]
    exact ⟨fun ⟨u, hu, v, hv, h⟩ => ⟨v, ⟨u, hu, hv⟩, h⟩, fun ⟨v, ⟨u, hu, hv⟩, h⟩ => ⟨u, hu, v, hv, h⟩⟩

/-- A block is made of 2,048 samples that pass. -/
theorem takeSamples_of_makeBlock {raw : BitVec 2048} {b : BitVec 512} {r t : Rng} (h : makeBlock raw r = .ok (b, t)) :
    takeSamples raw 0 (1024 + 1024) r = .ok t := by
  unfold makeBlock at h
  split at h
  · cases h
  · next r1 h1 =>
    split at h
    · cases h
    · next r2 h2 =>
      cases h
      exact takeSamples_add.2 ⟨r1, h1, h2⟩

/-- Samples that all repeat the last one are all counted. -/
theorem rctRun_takeSamples {raw : BitVec 2048} {i n : Nat} {b : Bool} {r t : Rng} (h : takeSamples raw i n r = .ok t) (hlast : r.rctLast = b)
    (hrun : 0 < r.rctRun) (hsame : ∀ k, k < n → raw.getLsbD (i + k) = b) : t.rctRun = r.rctRun + n := by
  induction n generalizing i r with
  | zero => cases h; rfl
  | succ n ih =>
    obtain ⟨u, hu, hrest⟩ := takeSamples_succ.1 h
    obtain ⟨hulast, hurun, -⟩ := sampleTest_passed hu
    have hi : raw.getLsbD i = b := hsame 0 (Nat.succ_pos n)
    rw [if_pos ⟨hrun.ne', hi.trans hlast.symm⟩] at hurun
    have := ih hrest (hulast.trans hi) (hurun ▸ Nat.succ_pos _) (fun k hk => by
      rw [show i + 1 + k = i + (k + 1) by omega]
      exact hsame (k + 1) (by omega))
    rw [this, hurun]
    omega

/-- The count that samples leave when all of them pass. -/
theorem rctRun_lt_of_takeSamples {raw : BitVec 2048} {i n : Nat} {r t : Rng} (h : takeSamples raw i n r = .ok t) (hrun : r.rctRun < 61) :
    t.rctRun < 61 := by
  induction n generalizing i r with
  | zero => cases h; exact hrun
  | succ n ih =>
    obtain ⟨u, hu, hrest⟩ := takeSamples_succ.1 h
    exact ih hrest (sampleTest_passed hu).2.2

/-- No 61 equal samples in succession pass, whatever came before them. -/
theorem takeSamples_equal {raw : BitVec 2048} {i : Nat} {r t : Rng} (h : takeSamples raw i 61 r = .ok t) :
    ∃ k, k < 61 ∧ raw.getLsbD (i + k) ≠ raw.getLsbD i := by
  by_contra hno
  have hsame : ∀ k, k < 61 → raw.getLsbD (i + k) = raw.getLsbD i := fun k hk => by_contra fun hne => hno ⟨k, hk, hne⟩
  obtain ⟨u, hu, hrest⟩ := takeSamples_succ.1 h
  obtain ⟨hlast, hrun, hshort⟩ := sampleTest_passed hu
  have hpos : 0 < u.rctRun := by
    rw [hrun]
    split <;> omega
  have hcount := rctRun_takeSamples hrest hlast hpos (fun k hk => by
    rw [show i + 1 + k = i + (k + 1) by omega]
    exact hsame (k + 1) (by omega))
  have hbound := rctRun_lt_of_takeSamples hrest hshort
  dsimp only at hcount
  omega

/-- Settles O47: of the samples of a block the stretch passes by itself. -/
theorem repetitionCaught : Obligations.RepetitionCaught := by
  unfold Obligations.RepetitionCaught
  intro raw b r t hblock j hj
  have hall := takeSamples_of_makeBlock hblock
  rw [show 1024 + 1024 = j + (61 + (2048 - (j + 61))) by omega] at hall
  obtain ⟨u, -, hfrom⟩ := takeSamples_add.1 hall
  obtain ⟨v, hstretch, -⟩ := takeSamples_add.1 hfrom
  rw [Nat.zero_add] at hstretch
  exact takeSamples_equal hstretch

end Sys2Proof.Machine

/-! # Failures of the random source (O46)

A failing sample is noted; the fatal alarm of R390 sets its fields of RN_STATUS, empties the pool, and ends what the waiting consumers wait
for, which leaves the source alone. -/

namespace Sys2Proof.Machine

/-! ### Register values and the rest of the state -/

theorem OnlyRegs.rng {s t : State} (h : OnlyRegs s t) : t.rng = s.rng := by
  obtain ⟨_, _, rfl⟩ := h
  rfl

theorem isPerFn_rnStatus : isPerFn rnStatus = false := by decide

/-- Leaving approved mode changes SE_STATUS and SE_REASON. -/
theorem leaveApproved_frame (s : State) (st why : Nat) : ∃ r, leaveApproved s st why = { s with regs := r } := by
  obtain ⟨r, hstatus⟩ := setFld_frame (by decide : isPerFn (reg 3072 0x40) = false) s 0 3 st
  unfold leaveApproved
  split
  · exact ⟨s.regs, rfl⟩
  · rw [hstatus]
    dsimp only
    split
    · obtain ⟨r', hreason⟩ := setFld_frame (by decide : isPerFn (reg 3072 0x44) = false) { s with regs := r } 0 3 why
      exact ⟨r', hreason⟩
    · exact ⟨r, rfl⟩

theorem fld_leaveApproved_ne {s : State} {st why a lo len : Nat} (hstatus : a ≠ reg 3072 0x40) (hreason : a ≠ reg 3072 0x44) :
    fld (leaveApproved s st why) a lo len = fld s a lo len := by
  have hset : fld (setFld s (reg 3072 0x40) 0 3 st) a lo len = fld s a lo len := fld_setFld_ne (by decide) hstatus
  unfold leaveApproved
  split
  · rfl
  · dsimp only
    split
    · exact (fld_setFld_ne (by decide) hreason).trans hset
    · exact hset

/-! ### What the alarm does to those that wait (R390) -/

/-- t has the common registers, the pool and the waiting consumers of s. -/
structure KeepsSource (s t : State) : Prop where
  regs : t.regs = s.regs
  pool : t.rng.pool = s.rng.pool
  waiters : t.rng.waiters = s.rng.waiters

theorem KeepsSource.refl (s : State) : KeepsSource s s := ⟨rfl, rfl, rfl⟩

theorem KeepsSource.trans {s t u : State} (h : KeepsSource s t) (k : KeepsSource t u) : KeepsSource s u :=
  ⟨k.regs.trans h.regs, k.pool.trans h.pool, k.waiters.trans h.waiters⟩

theorem foldl_keepsSource {α : Type} {f : State → α → State} (hf : ∀ s a, KeepsSource s (f s a)) (l : List α) (s : State) :
    KeepsSource s (l.foldl f s) := List.foldlRecOn l f (.refl s) (fun t ht a _ => ht.trans (hf t a))

theorem unfix_keepsSource (s : State) (p : Span) : KeepsSource s (unfix s p) := by
  unfold unfix
  split
  · exact .refl s
  · split <;> exact ⟨rfl, rfl, rfl⟩

theorem setCtx_keepsSource (s : State) (g : Nat) (x : Ctx) : KeepsSource s (setCtx s g x) :=
  ⟨setCtx_regs .., by rw [setCtx_rng], by rw [setCtx_rng]⟩

theorem dropFrame_keepsSource (s : State) (x : Ctx) : KeepsSource s (dropFrame s x) := by
  unfold dropFrame
  split
  · exact .refl s
  · exact ⟨rfl, rfl, rfl⟩

/-- A problem lets go of what it holds; without a result nothing is stored. -/
theorem releaseProb_keepsSource (s : State) (p : Prob) (e : CtxEnd) : KeepsSource s (releaseProb s p e false) := by
  unfold releaseProb
  extract_lets s1 now
  have h1 : KeepsSource s s1 := by
    refine foldl_keepsSource ?_ _ _
    exact fun _ _ => ⟨rfl, rfl, rfl⟩
  clear_value s1
  split
  · exact h1
  · extract_lets old after s2 s3
    have h2 : KeepsSource s s2 := by
      unfold s2
      split
      · exact h1.trans ⟨rfl, rfl, rfl⟩
      · split
        · exact h1
        · exact h1.trans ⟨rfl, rfl, rfl⟩
    exact h2.trans (setCtx_keepsSource ..)

theorem releaseNamed_keepsSource (s : State) (r : Run) (e : CtxEnd) : KeepsSource s (releaseNamed s r e) := by
  refine foldl_keepsSource (fun s c => ?_) ..
  dsimp only
  split
  · exact setCtx_keepsSource ..
  · exact (dropFrame_keepsSource ..).trans (setCtx_keepsSource ..)
  · exact (dropFrame_keepsSource ..).trans (setCtx_keepsSource ..)

theorem tellPeers_keepsSource (s : State) (g : GroupRun) (w : Control) : KeepsSource s (tellPeers s g w) := by
  refine foldl_keepsSource (fun s e => ?_) ..
  unfold sendWord sendMsg
  split <;> exact ⟨rfl, rfl, rfl⟩

theorem endRun_keepsSource {s : State} {q status : Nat} (h : ¬ status < 0x10) (e : Option Prob → CtxEnd) (tell : Bool) :
    KeepsSource s (endRun s q status e tell) := by
  unfold endRun
  split
  · exact .refl s
  · next r _ =>
    extract_lets ok s1 s2 s3 s4
    have hok : ok = false := decide_eq_false h
    have h1 : KeepsSource s s1 := by
      unfold s1
      split
      · exact unfix_keepsSource ..
      · exact .refl s
    clear_value s1
    have h2 : KeepsSource s s2 := by
      unfold s2
      rw [hok]
      exact h1.trans ((foldl_keepsSource (fun s p => releaseProb_keepsSource ..) _ s1).trans (releaseNamed_keepsSource ..))
    clear_value s2
    have h3 : KeepsSource s s3 := by
      unfold s3
      split
      · refine h2.trans ?_
        split
        · exact .trans (tellPeers_keepsSource ..) ⟨rfl, rfl, rfl⟩
        · exact ⟨rfl, rfl, rfl⟩
      · exact h2
    clear_value s3
    have h4 : KeepsSource s s4 := by
      unfold s4
      split
      · split <;> exact h3.trans ⟨rfl, rfl, rfl⟩
      · exact h3
    exact h4.trans ⟨rfl, rfl, rfl⟩

theorem finish_keepsSource (s : State) (q : Nat) (o : Outcome3) : KeepsSource s (finish s q o) := by
  obtain ⟨_, h⟩ := finish_only s q o
  rw [h]
  exact ⟨rfl, rfl, rfl⟩

theorem failFill_keepsSource (s : State) (q : Nat) : KeepsSource s (failFill s q) := by
  unfold failFill
  split
  · split
    · exact (unfix_keepsSource ..).trans (finish_keepsSource ..)
    · exact .refl s
  · exact .refl s

theorem failWaiter_keepsSource (s : State) (w : Waiter) : KeepsSource s (failWaiter s w) := by
  unfold failWaiter
  split
  · exact (endRun_keepsSource (by decide) ..).trans (finish_keepsSource ..)
  · split
    · exact failFill_keepsSource ..
    · split
      · exact ⟨rfl, rfl, rfl⟩
      · exact .refl s

/-! ### The fatal alarm (R390) -/

/-- The source has failed, and RN_STATUS.FATAL says so. -/
def FatalSet (t : State) : Prop := rnSource t = 3 ∧ fld t rnStatus 2 1 = 1

theorem FatalSet.of_fld {s t : State} (h : FatalSet s) (hfld : ∀ lo len, lo + len ≤ 3 → fld t rnStatus lo len = fld s rnStatus lo len) : FatalSet t :=
  ⟨(hfld 0 2 (by decide)).trans h.1, (hfld 2 1 (by decide)).trans h.2⟩

theorem fatalSet_set (s : State) : FatalSet (setFld (setSource s 3) rnStatus 2 1 1) := by
  refine ⟨?_, fld_setFld isPerFn_rnStatus (by decide)⟩
  exact (fld_setFld_other isPerFn_rnStatus (by decide) (by decide)).trans (fld_setFld isPerFn_rnStatus (by decide))

/-- POOL stands above the fields of the source's state. -/
theorem fld_setPool {s : State} {p : List (BitVec 512)} {lo len : Nat} (h : lo + len ≤ 3) :
    fld (setPool s p) rnStatus lo len = fld s rnStatus lo len :=
  fld_setFld_other isPerFn_rnStatus (by decide) (.inl h)

theorem setPool_rng (s : State) (p : List (BitVec 512)) : (setPool s p).rng = { s.rng with pool := p } := (setFld_only ..).rng

theorem rngFatal_row (s : State) : FatalSet (rngFatal s) ∧ (rngFatal s).rng.pool = [] ∧ (rngFatal s).rng.waiters = [] := by
  unfold rngFatal
  extract_lets s1 a s2 s3 s4 ws rng s5 s6
  have h2 : FatalSet s2 := (fatalSet_set s).of_fld fun _ _ _ => fld_setReg_ne (by decide) (by decide)
  have h3 : FatalSet s3 := h2.of_fld fun _ _ h => fld_setPool h
  have hpool3 : s3.rng.pool = [] := by rw [show s3.rng = _ from setPool_rng s2 []]
  clear_value s3
  have h4 : FatalSet s4 := h3.of_fld fun _ _ _ => (fld_setFld_ne (by decide) (by decide)).trans (fld_leaveApproved_ne (by decide) (by decide))
  obtain ⟨r, hleave⟩ := leaveApproved_frame s3 2 2
  have hpool4 : s4.rng.pool = [] := by rw [show s4.rng = _ from (setFld_only ..).rng, hleave]; exact hpool3
  clear_value s4
  have hkeeps : KeepsSource s5 s6 := foldl_keepsSource failWaiter_keepsSource ws s5
  have h6 : FatalSet s6 := FatalSet.of_fld (s := s5) h4 fun _ _ _ => fld_of_regs hkeeps.regs isPerFn_rnStatus
  clear_value s6
  obtain ⟨p, hlog⟩ := logEvent_frame s6 rngBlock 0x602 noFn (toLE 1 s6.rng.failures.length)
  rw [hlog]
  exact ⟨h6, hkeeps.pool.trans hpool4, hkeeps.waiters⟩

/-! ### A failing sample (R389) -/

/-- The failures within the last 2^20 samples. -/
def recentFailures (s : State) : List Nat := s.rng.failures.filter (fun f => decide (s.rng.samples ≤ f + 2 ^ 20))

/-- The failure is noted and the source restarts; with two before it the alarm follows. -/
theorem rngFail_cases (s : State) (apt : Bool) : ∃ t, rnSource t = 2 ∧ t.rng = { s.rng with failures := recentFailures s ++ [s.rng.samples] }
    ∧ rngFail s apt = if 2 ≤ (recentFailures s).length then rngFatal t else t := by
  unfold rngFail
  extract_lets rng s1 s2 n fs rng' s3 s4
  have hrng : s2.rng = s.rng := ((setFld_only ..).trans (addSat_only ..)).rng
  have hsource : rnSource s2 = 2 := by
    have h1 : rnSource s1 = 2 := fld_setFld isPerFn_rnStatus (by decide)
    refine .trans ?_ h1
    exact fld_setReg_ne (by cases apt <;> decide) (by cases apt <;> decide)
  clear_value s2
  have hfs : fs = recentFailures s ++ [s.rng.samples] := by
    unfold fs n recentFailures
    rw [hrng]
  obtain ⟨p, hlog⟩ := logEvent_frame s3 rngBlock 0x601 noFn (Config.logCode (if apt then 1 else 0) :: toLE 8 n)
  refine ⟨s4, ?_, ?_, ?_⟩
  · exact (congrArg rnSource hlog).trans hsource
  · have hlogged : s4.rng = { s2.rng with failures := fs } := by rw [show s4 = _ from hlog]
    rw [hlogged, hrng, hfs]
  · simp only [hfs, List.length_append, List.length_singleton, Nat.reduceLeDiff]

/-- Settles O46: the failure as it is noted, and the alarm that follows two others. -/
theorem sourceFailures : Obligations.SourceFailures := by
  unfold Obligations.SourceFailures
  intro s apt t recent
  obtain ⟨u, hsource, hrng, hfail⟩ := rngFail_cases s apt
  refine ⟨fun hfew => ?_, fun hmany => ?_⟩
  · have ht : t = u := hfail.trans (if_neg (Nat.not_le.2 hfew))
    rw [ht, hrng]
    exact ⟨hsource, rfl, rfl, rfl⟩
  · have ht : t = rngFatal u := hfail.trans (if_pos hmany)
    obtain ⟨⟨hfailed, hfatal⟩, hpool, hwaiters⟩ := rngFatal_row u
    rw [ht]
    exact ⟨hfailed, hpool, hwaiters, hfatal⟩

end Sys2Proof.Machine

/-! # Consumers and events of the random source (O45)

RANDOM_FILL, SEED_DRAW, FETCH and the holding buffers, the events of the source, and the order in which the pool serves. -/

namespace Sys2Proof.Machine

/-! ### RANDOM_FILL and SEED_DRAW (R386, R388) -/

section Fill
variable {s : State} {q : Nat} {inner : Bool} {c : Cmd} (h : Serving s q opRandomFill inner c)
include h

theorem exec_randomFill : exec (.randomFill q) s = .next (keep s (if rnSource s = 3 then failFill s q else
    request s { rank := 3, queue := true, who := q })) :=
  (onQueue_eq h.1).trans (congrArg (fun t => Host.Outcome.next (keep s t)) (onStarted_serving h))

theorem randomFill_asks (hsource : rnSource s ≠ 3) :
    exec (.randomFill q) s = .next (keep s (request s { rank := 3, queue := true, who := q })) := by
  rw [exec_randomFill h, if_neg hsource]

theorem failFill_eq : ∃ p, failFill s q = finish (unfix s p) q rngUnavailable := by
  obtain ⟨-, hactive, -, hop⟩ := h
  unfold failFill
  rw [hactive]
  exact ⟨_, if_pos hop⟩

/-- What the command has not written stays open, and it completes with RNG_UNAVAILABLE. -/
theorem randomFill_fails (hsource : rnSource s = 3) : ∃ u, u.queues = s.queues
    ∧ exec (.randomFill q) s = .next (keep s (finish u q (outcome 0x40 0 0))) := by
  obtain ⟨p, hfail⟩ := failFill_eq h
  exact ⟨_, (unfix_sameFront s p).1, by rw [exec_randomFill h, if_pos hsource, hfail]; rfl⟩

end Fill

theorem seedDraw_row {s : State} {q : Nat} (hq : q < 4096) (hwaits : s.rng.waiters.any (fun w => w.rank == 2 && w.who == q) = true) :
    exec (.seedDraw q) s = .next (keep s (servePool s 8)) :=
  (onQueue_eq hq).trans (congrArg (fun t => Host.Outcome.next (keep s t)) (if_pos hwaits))

/-! ### The holding buffers (R387) -/

theorem holdOf_setHold (s : State) (fn g v : Nat) (b : BitVec 512) : holdOf (setHold s fn v b) g = if g = fn then v else holdOf s g :=
  tget_tset ..

/-- A word of another function's holding buffer. -/
theorem holdWord_setHold_ne {s : State} {fn g : Nat} (h : g ≠ fn) (v : Nat) (b : BitVec 512) (w : Nat) :
    holdWord (setHold s fn v b) g w = holdWord s g w := by
  unfold holdWord
  rw [holdOf_setHold, if_neg h]
  exact if_congr Iff.rfl (by rw [setHold, tget_tset_ne _ _ _ h]) rfl

/-- A buffer that is not FULL reads as zero. -/
theorem holdWord_of_not_full {s : State} {fn : Nat} (h : holdOf s fn ≠ 2) (w : Nat) : holdWord s fn w = 0 := if_neg h

section Hold
variable {s : State} {fn : Nat}

theorem fetch_asks (hs : Answers s fn) (hempty : holdOf s fn = 0) (hsource : rnSource s = 1 ∨ rnSource s = 2) :
    exec (.fetch fn) s = .next (keep s (request (setHold s fn 1 0) { rank := 3, queue := false, who := fn })) := by
  refine (onBar0_eq hs).trans ?_
  rw [fetchOn, if_neg (not_not_intro hempty), if_neg (by omega), if_neg (by omega)]

theorem fetch_ignored (hs : Answers s fn) (h : holdOf s fn ≠ 0 ∨ rnSource s = 0) : exec (.fetch fn) s = .next s := by
  have hon : fetchOn fn s = s := by
    unfold fetchOn
    rcases h with hheld | hsource
    · exact if_pos hheld
    · rw [if_neg (show ¬ rnSource s = 3 by omega), if_pos hsource, ite_self]
  refine (onBar0_eq hs).trans ?_
  rw [hon, keep_self]

/-- The top n bits of a vector. -/
theorem toNat_div_lt {m n : Nat} (x : BitVec (m + n)) : x.toNat / 2 ^ m < 2 ^ n :=
  Nat.div_lt_of_lt_mul (x.isLt.trans_eq (pow_add 2 m n))

/-- The last word of a FULL buffer: the top 32 of the block's 512 bits. -/
theorem holdWord_last (hfull : holdOf s fn = 2) : holdWord s fn 15 = (tget (fun _ => 0) s.rng.holdBlock fn).toNat / 2 ^ 480 := by
  rw [holdWord, if_pos hfull, show 32 * 15 = 480 from rfl]
  exact Nat.mod_eq_of_lt (toNat_div_lt (m := 480) (n := 32) _)

theorem rnData15Read_full (hfn : fn < 16) (hfull : holdOf s fn = 2) : ∃ t, exec (.rnData15Read fn) s = .next t ∧ holdOf t fn = 0
    ∧ t.port = { data := toLE 4 ((tget (fun _ => 0) s.rng.holdBlock fn).toNat / 2 ^ 480) }
    ∧ (∀ w, holdWord t fn w = 0) ∧ (∀ g, g ≠ fn → holdOf t g = holdOf s g ∧ ∀ w, holdWord t g w = holdWord s g w)
    ∧ t = { s with rng := t.rng, port := t.port } := by
  have hon : rnData15ReadOn fn s = answer (setHold s fn 0 0) (toLE 4 ((tget (fun _ => 0) s.rng.holdBlock fn).toNat / 2 ^ 480)) := by
    unfold rnData15ReadOn
    rw [if_pos hfull, holdWord_last hfull]
  have hempty : holdOf (setHold s fn 0 0) fn = 0 := (holdOf_setHold ..).trans (if_pos rfl)
  refine ⟨_, (onFn_eq hfn).trans (congrArg (fun t => Host.Outcome.next (keep s t)) hon), hempty, rfl, fun w => ?_, fun g hg => ⟨?_, fun w => ?_⟩, rfl⟩
  · exact holdWord_of_not_full (s := setHold s fn 0 0) (by rw [hempty]; decide) w
  · exact (holdOf_setHold ..).trans (if_neg hg)
  · exact holdWord_setHold_ne hg 0 0 w

theorem rnData15Read_empty (hfn : fn < 16) (hnot : holdOf s fn ≠ 2) : exec (.rnData15Read fn) s = .next (answer s (List.replicate 4 0)) := by
  have hon : rnData15ReadOn fn s = answer s (List.replicate 4 0) := by
    unfold rnData15ReadOn
    rw [if_neg hnot, holdWord_of_not_full hnot]
    rfl
  exact (onFn_eq hfn).trans (congrArg (fun t => Host.Outcome.next (keep s t)) hon)

end Hold

/-! ### Events of the source (R381, R389) -/

section Source
variable {s : State}

theorem rngBlockComplete_placed {raw : BitVec 2048} {b : BitVec 512} {r : Rng} (hsource : rnSource s = 1) (hmake : makeBlock raw s.rng = .ok (b, r)) :
    exec (.rngBlockComplete raw) s = .next (keep s (placeBlock { s with rng := r } b)) := by
  refine congrArg (fun t => Host.Outcome.next (keep s t)) ?_
  rw [rngBlockCompleteOn, if_neg (not_not_intro hsource), hmake]

theorem rngBlockComplete_fails {raw : BitVec 2048} {apt : Bool} {r : Rng} (hsource : rnSource s = 1) (hmake : makeBlock raw s.rng = .error (apt, r)) :
    exec (.rngBlockComplete raw) s = .next (keep s (rngFail { s with rng := r } apt)) := by
  refine congrArg (fun t => Host.Outcome.next (keep s t)) ?_
  rw [rngBlockCompleteOn, if_neg (not_not_intro hsource), hmake]

theorem rngTestFail_row {apt : Bool} {n : Nat} (h : rnSource s = 1 ∨ (rnSource s = 0 ∧ phaseOf s = 7)) :
    exec (.rngTestFail apt n) s = .next (keep s (rngFail { s with rng := { s.rng with samples := s.rng.samples + n } } apt)) :=
  congrArg (fun t => Host.Outcome.next (keep s t)) (if_pos h)

/-- The source with its register and both tests afresh. -/
def Rng.cleared (r : Rng) : Rng := { r with s := 0, rctRun := 0, aptSeen := 0, aptCount := 0 }

theorem rngRestartDone_row (hsource : rnSource s = 2) : ∃ t, exec .rngRestartDone s = .next t ∧ rnSource t = (if phaseOf s = 7 then 0 else 1)
    ∧ t.rng = s.rng.cleared ∧ t = { s with rng := t.rng, regs := t.regs } := by
  obtain ⟨r, hframe⟩ := setFld_frame isPerFn_rnStatus { s with rng := s.rng.cleared } 0 2 (if phaseOf s = 7 then 0 else 1)
  have hon : rngRestartDoneOn s = setSource { s with rng := s.rng.cleared } (if phaseOf s = 7 then 0 else 1) := if_neg (not_not_intro hsource)
  have hread : rnSource (setSource { s with rng := s.rng.cleared } (if phaseOf s = 7 then 0 else 1)) = if phaseOf s = 7 then 0 else 1 := by
    refine (fld_setFld isPerFn_rnStatus (by decide)).trans (Nat.mod_eq_of_lt ?_)
    split <;> decide
  refine ⟨_, congrArg (fun t => Host.Outcome.next (keep s t)) hon, hread, ?_, ?_⟩
  · exact congrArg State.rng hframe
  · rw [setSource, hframe]
    rfl

end Source

/-! ### Who is served next (R384, R385) -/

section Next
variable {s : State} {w : Waiter}

/-- The consumer found first of a rank waits, and has the rank. -/
theorem find_rank {l : List Waiter} {n : Nat} (h : l.find? (fun w => w.rank == n) = some w) : w ∈ l ∧ w.rank = n :=
  ⟨List.mem_of_find?_eq_some h, by simpa using List.find?_some h⟩

theorem find_rank_none {l : List Waiter} {n : Nat} (h : l.find? (fun w => w.rank == n) = none) : ∀ v ∈ l, v.rank ≠ n := by
  simpa using h

/-- Rank 1 is served first, rank 2 while nobody of rank 1 waits, and rank 3 while nobody of either waits and the pool keeps more than two. -/
theorem nextWaiter_cases (h : nextWaiter s = some w) : w ∈ s.rng.waiters ∧ (w.rank = 1 ∨ (w.rank = 2 ∧ ∀ v ∈ s.rng.waiters, v.rank ≠ 1)
    ∨ (w.rank = 3 ∧ (∀ v ∈ s.rng.waiters, v.rank ≠ 1) ∧ (∀ v ∈ s.rng.waiters, v.rank ≠ 2) ∧ 2 < s.rng.pool.length)) := by
  unfold nextWaiter at h
  split at h
  · next h1 =>
    cases h
    exact ⟨(find_rank h1).1, .inl (find_rank h1).2⟩
  · next h1 h2 =>
    cases h
    exact ⟨(find_rank h2).1, .inr (.inl ⟨(find_rank h2).2, find_rank_none h1⟩)⟩
  · next h1 h2 =>
    split at h
    · next hpool => exact ⟨(find_rank h).1, .inr (.inr ⟨(find_rank h).2, find_rank_none h1, find_rank_none h2, hpool⟩)⟩
    · cases h

end Next

/-- Settles O45: one lemma for each row and event, and the order of ranks by who is found to wait. -/
theorem randomRows : Obligations.RandomRows := by
  unfold Obligations.RandomRows
  refine ⟨fun s => ⟨fun _ _ _ => randomFill_asks, fun _ _ _ => randomFill_fails, fun _ => seedDraw_row, fun _ => fetch_asks, fun _ => fetch_ignored,
    fun _ => rnData15Read_full, fun _ => rnData15Read_empty, fun _ _ _ => rngBlockComplete_placed, fun _ _ _ => rngBlockComplete_fails,
    fun _ _ => rngTestFail_row, rngRestartDone_row⟩, fun s w h => ?_⟩
  obtain ⟨hmem, hrank⟩ := nextWaiter_cases h
  refine ⟨hmem, fun v hv h1 => ?_, fun v hv h2 => ?_, fun h3 => ?_⟩
  · rcases hrank with hw | ⟨-, hnone⟩ | ⟨-, hnone, -⟩
    · exact hw
    · exact absurd h1 (hnone v hv)
    · exact absurd h1 (hnone v hv)
  · rcases hrank with hw | ⟨hw, -⟩ | ⟨-, -, hnone, -⟩
    · exact .inl hw
    · exact .inr hw
    · exact absurd h2 (hnone v hv)
  · rcases hrank with hw | ⟨hw, -⟩ | ⟨-, -, -, hpool⟩
    · omega
    · omega
    · exact hpool

end Sys2Proof.Machine

/-! # PLDM effecters and sensors (O58)

What each effecter makes of the state, and what each sensor shows; an answer stands at the port, and a refusal alone. -/

namespace Sys2Proof.Machine

/-! ### Answers of the endpoint (R469) -/

theorem OnlyRegs.keep {s t : State} (h : OnlyRegs s t) : keep s t = t := by
  obtain ⟨_, _, rfl⟩ := h
  rfl

theorem keep_answer (s t : State) (b : List Byte) : keep s (answer t b) = answer (keep s t) b := rfl

section Endpoint
variable {s : State} (hup : endpointUp s = true)
include hup

theorem pldmEffecterSet_done {id field value : Nat} {t : State} (h : pldmEffecter s id field value = some t) :
    exec (.pldmEffecterSet id field value) s = .next (answer (keep s t) []) := by
  refine congrArg (fun u => Host.Outcome.next (keep s u)) (a₂ := answer t []) ?_
  rw [pldmEffecterSetOn, hup, if_neg (by decide), h]

theorem pldmEffecterSet_refused {id field value : Nat} (h : pldmEffecter s id field value = none) :
    exec (.pldmEffecterSet id field value) s = .next (answerStatus s 1) := by
  refine congrArg (fun u => Host.Outcome.next (keep s u)) (a₂ := answerStatus s 1) ?_
  rw [pldmEffecterSetOn, hup, if_neg (by decide), h]
  rfl

theorem pldmSensorRead_shows {id v : Nat} (h : pldmSensor s id = some v) : exec (.pldmSensorRead id) s = .next (answer s (toLE 4 v)) := by
  refine congrArg (fun u => Host.Outcome.next (keep s u)) (a₂ := answer s (toLE 4 v)) ?_
  rw [pldmSensorReadOn, hup, if_neg (by decide), h]

theorem pldmSensorRead_refused {id : Nat} (h : pldmSensor s id = none) : exec (.pldmSensorRead id) s = .next (answerStatus s 1) := by
  refine congrArg (fun u => Host.Outcome.next (keep s u)) (a₂ := answerStatus s 1) ?_
  rw [pldmSensorReadOn, hup, if_neg (by decide), h]
  rfl

/-! ### Effecters (Table 20-5) -/

theorem limitEffecter_row (f : Nat) {w : Nat} (hlo : 200 ≤ w) (hhi : w ≤ 750) :
    exec (.pldmEffecterSet 16 f w) s = .next (answer (setReg s 0 (reg 4 0x58) w) []) := by
  rw [pldmEffecterSet_done hup ((if_pos rfl).trans (if_pos ⟨hlo, hhi⟩)), (setReg_only ..).keep]

theorem limitEffecter_refused (f : Nat) {w : Nat} (h : w < 200 ∨ 750 < w) : exec (.pldmEffecterSet 16 f w) s = .next (answerStatus s 1) :=
  pldmEffecterSet_refused hup ((if_pos rfl).trans (if_neg (by omega)))

/-- The ceiling of a half, which its rail then follows. -/
theorem ceilingEffecter_row (h : Half) {f v : Nat} (hv : v ≤ 5)
    (heff : pldmEffecter s 17 f v = if 5 < v then none else some (retarget (setFld s (reg 4 0x44) (Half.lo h) 3 v) h)) :
    exec (.pldmEffecterSet 17 f v) s = .next (answer (retarget (setFld s (reg 4 0x44) (Half.lo h) 3 v) h) []) := by
  rw [pldmEffecterSet_done hup (heff.trans (if_neg (Nat.not_lt.2 hv))), ((setFld_rail (by decide) ..).trans (retarget_rail ..)).keep]

theorem throttleEffecter_row (f : Nat) {v : Nat} (hlo : 70 ≤ v) (hhi : v ≤ 105) :
    exec (.pldmEffecterSet 18 f v) s = .next (answer (setReg s 0 (reg 4 0x60) v) []) := by
  have heff : pldmEffecter s 18 f v = if 70 ≤ v ∧ v ≤ 105 then some (setReg s 0 (reg 4 0x60) v) else none := rfl
  rw [pldmEffecterSet_done hup (heff.trans (if_pos ⟨hlo, hhi⟩)), (setReg_only ..).keep]

theorem shutdownEffecter_row (v : Nat) : exec (.pldmEffecterSet 19 0 v) s = .next (answer (flushLife s) []) := by
  obtain ⟨_, hflush⟩ := flushLife_row s
  rw [pldmEffecterSet_done hup rfl, hflush]
  rfl

/-- A layer cleared by the management controller. -/
theorem clearEffecter_row (deep : Bool) {f : Nat} (v : Nat) (heff : pldmEffecter s 19 f v = some (clearLayer s deep 0x20)) :
    exec (.pldmEffecterSet 19 f v) s = .next (keep s (answer (clearLayer s deep 0x20) [])) := by
  rw [keep_answer, pldmEffecterSet_done hup heff]

/-! ### Sensors (Table 20-5) -/

theorem sensor_unknown {id : Nat} (h : id = 0 ∨ 6 < id) : exec (.pldmSensorRead id) s = .next (answerStatus s 1) := by
  refine pldmSensorRead_refused hup ?_
  rw [pldmSensor, if_neg (by omega), if_neg (by omega), if_neg (by omega), if_neg (by omega), if_neg (by omega), if_neg (by omega)]

end Endpoint

/-- Settles O58: the effecters by what each answers, the sensors by the values that they show. -/
theorem pldmRows : Obligations.PldmRows := by
  unfold Obligations.PldmRows
  intro s hup
  exact ⟨fun f _ => limitEffecter_row hup f, fun f _ => limitEffecter_refused hup f,
    fun _ hv => ⟨ceilingEffecter_row hup .west hv rfl, ceilingEffecter_row hup .east hv rfl⟩, fun f _ => throttleEffecter_row hup f,
    fun v => ⟨shutdownEffecter_row hup v, clearEffecter_row hup false v rfl, clearEffecter_row hup true v rfl⟩,
    pldmSensorRead_shows hup rfl, pldmSensorRead_shows hup rfl, pldmSensorRead_shows hup rfl, pldmSensorRead_shows hup rfl,
    pldmSensorRead_shows hup rfl, pldmSensorRead_shows hup rfl, fun _ => sensor_unknown hup⟩

end Sys2Proof.Machine

/-! # The peat log and the lifetime store (O59)

What a record does to the two layers, said once; from it what a clear leaves, and then one lemma for each row of reading, flushing, storms
and the lifetime store. -/

namespace Sys2Proof.Machine

/-! ### A record enters the layers (R426, R427) -/

theorem nextSeq_ne_zero (q : U32) : nextSeq q ≠ 0 := by
  unfold nextSeq
  split
  · decide
  · bv_omega

/-- The layer of records that a clear or a reader names. -/
def layerOf (deep : Bool) (p : Peat) : List LogRec := if deep then p.deep else p.surface

/-- The layers of p' are those of p. -/
structure SameLayers (p p' : Peat) : Prop where
  surface : p'.surface = p.surface
  deep : p'.deep = p.deep
  direct : p'.direct = p.direct

theorem SameLayers.refl (p : Peat) : SameLayers p p := ⟨rfl, rfl, rfl⟩

theorem SameLayers.layerOf {p p' : Peat} (h : SameLayers p p') (deep : Bool) : layerOf deep p' = layerOf deep p := by
  cases deep
  · exact h.surface
  · exact h.deep

/-- The layers of p' are those of p with the record r: the surface keeps the last 8,192, and the deep layer its first 512. -/
structure Written (p : Peat) (r : LogRec) (p' : Peat) : Prop where
  seq : p'.seq = r.seq
  surface : p'.surface = (p.surface ++ [r]).drop (p.surface.length + 1 - 8192)
  deep : p'.deep = if p.deep.length < 512 then p.deep ++ [r] else p.deep
  direct : p'.direct = p.direct

section Written
variable {p p' : Peat} {r : LogRec} (h : Written p r p')
include h

/-- The newest record is the last of the surface layer. -/
theorem Written.getLast : p'.surface.getLast? = some r := by
  rw [h.surface, List.getLast?_drop, List.length_append, List.length_singleton, if_neg (by omega)]
  exact List.getLast?_concat

theorem Written.length : p'.surface.length ≤ 8192 := by
  rw [h.surface, List.length_drop, List.length_append, List.length_singleton]
  omega

/-- Nothing but the record enters a layer. -/
theorem Written.mem {deep : Bool} {x : LogRec} (hx : x ∈ layerOf deep p') : x ∈ layerOf deep p ∨ x = r := by
  have happend : ∀ l : List LogRec, x ∈ l ++ [r] → x ∈ l ∨ x = r := fun l hl => (List.mem_append.1 hl).imp_right List.mem_singleton.1
  cases deep with
  | false =>
    have hsurface : x ∈ p'.surface := hx
    rw [h.surface] at hsurface
    exact happend _ (List.mem_of_mem_drop hsurface)
  | true =>
    have hdeep : x ∈ p'.deep := hx
    rw [h.deep] at hdeep
    split at hdeep
    · exact happend _ hdeep
    · exact .inl hdeep

end Written

theorem writeRecord_written (s : State) (r : LogRec) : Written s.peat (makeRecord s r) (writeRecord s r).peat where
  seq := rfl
  surface := by simp only [writeRecord, pushRecord, List.length_append, List.length_singleton]
  deep := rfl
  direct := rfl

theorem writeRecord_frame (s : State) (r : LogRec) : ∃ p, writeRecord s r = { s with peat := p } ∧ Written s.peat (makeRecord s r) p :=
  ⟨_, rfl, writeRecord_written s r⟩

theorem writeRecord_row (s : State) (r : LogRec) : (writeRecord s r).peat.seq = nextSeq s.peat.seq ∧ nextSeq s.peat.seq ≠ 0
    ∧ (writeRecord s r).peat.surface.getLast?.map (fun x => (x.seq, x.code, x.payload)) = some (nextSeq s.peat.seq, r.code, r.payload)
    ∧ (s.peat.surface.length ≤ 8192 → (writeRecord s r).peat.surface.length ≤ 8192)
    ∧ (512 ≤ s.peat.deep.length → (writeRecord s r).peat.deep = s.peat.deep) := by
  have h := writeRecord_written s r
  exact ⟨h.seq, nextSeq_ne_zero _, by rw [h.getLast]; rfl, fun _ => h.length, fun hfull => h.deep.trans (if_neg (Nat.not_lt.2 hfull))⟩

/-! ### Events (R432) -/

/-- An event is suppressed, or it is written; one of code LOG_CLEARED is never suppressed. -/
theorem logEvent_peat (s : State) (block code fn : Nat) (payload : List Byte) :
    (code ≠ 0xB01 ∧ SameLayers s.peat (logEvent s block code fn payload).peat)
    ∨ Written s.peat (makeRecord s (eventRecord s block code fn payload)) (logEvent s block code fn payload).peat := by
  unfold logEvent
  extract_lets r exempt limited slow u
  split
  · next h =>
    refine .inl ⟨fun hcode => ?_, rfl, rfl, rfl⟩
    simp [exempt, hcode] at h
  · have hu : Written s.peat (makeRecord s r) u.peat := writeRecord_written s r
    clear_value u
    exact .inr ⟨hu.seq, hu.surface, hu.deep, hu.direct⟩

/-- Of an event's records only its own code is new. -/
theorem mem_logEvent {s : State} {block code fn : Nat} {payload : List Byte} {deep : Bool} {x : LogRec}
    (h : x ∈ layerOf deep (logEvent s block code fn payload).peat) : x ∈ layerOf deep s.peat ∨ x.code = code := by
  rcases logEvent_peat s block code fn payload with ⟨-, hsame⟩ | hwritten
  · exact .inl (hsame.layerOf deep ▸ h)
  · refine (hwritten.mem h).imp_right fun hx => ?_
    rw [hx]
    rfl

theorem getLast_logEvent_cleared (s : State) (block fn : Nat) (payload : List Byte) :
    (logEvent s block 0xB01 fn payload).peat.surface.getLast?.map (·.code) = some 0xB01 := by
  rcases logEvent_peat s block 0xB01 fn payload with ⟨hcode, -⟩ | hwritten
  · exact absurd rfl hcode
  · rw [hwritten.getLast]
    rfl

theorem logEvent_direct (s : State) (block code fn : Nat) (payload : List Byte) :
    (logEvent s block code fn payload).peat.direct = s.peat.direct := by
  rcases logEvent_peat s block code fn payload with ⟨-, hsame⟩ | hwritten
  · exact hsame.direct
  · exact hwritten.direct

theorem OnlyRegs.peat {s t : State} (h : OnlyRegs s t) : t.peat = s.peat := by
  obtain ⟨_, _, rfl⟩ := h
  rfl

/-- What a replacement request writes is its own record. -/
theorem mem_raiseReplace {s : State} {bit : Nat} {deep : Bool} {x : LogRec} (h : x ∈ layerOf deep (raiseReplace s bit).peat) :
    x ∈ layerOf deep s.peat ∨ x.code = 0xC01 := by
  unfold raiseReplace at h
  split at h
  · exact .inl h
  · extract_lets s1 flash tw s2 s3 at h
    have hpeat : s2.peat = s.peat := ((setFld_only s (reg 1 0x40) 0 1 1).trans (setFld_only _ (reg 1 0x40) bit 1 1)).peat
    exact hpeat ▸ mem_logEvent h

/-- What a lifetime count makes known is a replacement request. -/
theorem mem_addLife {s : State} {i n : Nat} {deep : Bool} {x : LogRec} (h : x ∈ layerOf deep (addLife s i n).peat) :
    x ∈ layerOf deep s.peat ∨ x.code = 0xC01 := by
  unfold addLife checkLifetime at h
  dsimp only at h
  split at h
  · exact .inl h
  · refine (mem_raiseReplace h).imp_left fun hx => ?_
    rwa [(setReg_only ..).peat] at hx

/-! ### Clears (R431) -/

theorem lifeOf_logEvent (s : State) (block code fn : Nat) (payload : List Byte) (i : Nat) : lifeOf (logEvent s block code fn payload) i = lifeOf s i := by
  obtain ⟨_, hframe⟩ := logEvent_frame s block code fn payload
  rw [hframe]
  rfl

/-- A cleared layer holds what its clear wrote: LOG_CLEARED, and a replacement request that the count of clears raised. -/
theorem clearLayer_row (s : State) (deep : Bool) (who : Nat) : (∀ r ∈ layerOf deep (clearLayer s deep who).peat, r.code = 0xB01 ∨ r.code = 0xC01)
    ∧ (clearLayer s deep who).peat.surface.getLast?.map (·.code) = some 0xB01
    ∧ (clearLayer s deep who).peat.lastClear = (clearLayer s deep who).peat.seq
    ∧ lifeOf (clearLayer s deep who) 168 = (lifeOf s 168 + 1) % 2 ^ 64 := by
  unfold clearLayer
  extract_lets p emptied s1 s2 logged
  have hlife : lifeOf s1 168 = (lifeOf s 168 + 1) % 2 ^ 64 := (lifeOf_addLife ..).trans (if_pos rfl)
  have hmem : ∀ r ∈ layerOf deep s1.peat, r.code = 0xC01 := fun r hr => (mem_addLife hr).resolve_left (by
    have hempty : layerOf deep emptied = [] := by cases deep <;> rfl
    exact hempty ▸ List.not_mem_nil)
  clear_value s1
  have hcode : ∀ r ∈ layerOf deep s2.peat, r.code = 0xB01 ∨ r.code = 0xC01 := fun r hr => (mem_logEvent hr).symm.imp_right (hmem r)
  have hlast : s2.peat.surface.getLast?.map (·.code) = some 0xB01 := getLast_logEvent_cleared ..
  have hcount : lifeOf s2 168 = lifeOf s1 168 := lifeOf_logEvent ..
  clear_value s2
  exact ⟨fun r hr => hcode r (SameLayers.layerOf (p := s2.peat) ⟨rfl, rfl, rfl⟩ deep ▸ hr), hlast, rfl, hcount.trans hlife⟩

/-! ### Reading (R429) -/

section Latch
variable (s : State) (k layer seq : Nat)

theorem latch_found {r : LogRec} (h : (if layer = 0 then s.peat.surface else s.peat.deep).find? (fun r => r.seq.toNat == seq) = some r) :
    latch s k layer seq = setView s k 0 (recordImage r) := by
  unfold latch
  dsimp only
  rw [h]

theorem latch_gone (h : (if layer = 0 then s.peat.surface else s.peat.deep).find? (fun r => r.seq.toNat == seq) = none) :
    latch s k layer seq = setView s k 1 [] := by
  unfold latch
  dsimp only
  rw [h]

theorem latch_frame : ∃ p, latch s k layer seq = { s with peat := p } := by
  unfold latch
  dsimp only
  split <;> exact ⟨_, rfl⟩

theorem keep_latch (p : Peat) : keep s (latch { s with peat := p } k layer seq) = latch { s with peat := p } k layer seq := by
  obtain ⟨_, hframe⟩ := latch_frame { s with peat := p } k layer seq
  rw [hframe]
  rfl

end Latch

theorem viewState_setView (s : State) (k st : Nat) (b : List Byte) : tget (fun _ => 0) (setView s k st b).peat.viewState k = st := tget_tset_same ..
theorem viewData_setView (s : State) (k st : Nat) (b : List Byte) : tget (fun _ => []) (setView s k st b).peat.viewData k = b := tget_tset_same ..

/-- A register of which every function has its own changes in the table of those alone. -/
theorem setReg_frame_fn {a : Nat} (h : isPerFn a = true) (s : State) (fn v : Nat) : ∃ f, setReg s fn a v = { s with fnRegs := f } := by
  unfold setReg
  rw [if_pos h]
  exact ⟨_, rfl⟩

section Read
variable {s : State} {fn : Nat}

/-- The view named by PL_RSEL of a log in SRAM: the record of the SEQ in the selected layer, or none. -/
theorem plRselSeqWrite_row (q : U32) (hs : Answers s fn) (hdirect : s.peat.direct = false) : ∃ t, exec (.plRselSeqWrite (.function fn) q false) s = .next t
    ∧ (let l := if bits (getReg s fn (reg 3201 0x40)) 0 1 = 0 then s.peat.surface else s.peat.deep
       (∀ r, l.find? (fun r => r.seq.toNat == q.toNat) = some r → tget (fun _ => 0) t.peat.viewState fn = 0
          ∧ tget (fun _ => []) t.peat.viewData fn = recordImage r)
       ∧ (l.find? (fun r => r.seq.toNat == q.toNat) = none → tget (fun _ => 0) t.peat.viewState fn = 1
          ∧ tget (fun _ => []) t.peat.viewData fn = []))
    ∧ t = { s with peat := t.peat, fnRegs := t.fnRegs } := by
  have hseq : isPerFn (reg 3201 0x44) = true := by decide
  obtain ⟨f, hset⟩ := setReg_frame_fn hseq s fn q.toNat
  have hlayer : viewLayer (setReg s fn (reg 3201 0x44) q.toNat) (.function fn) = bits (getReg s fn (reg 3201 0x40)) 0 1 := by
    unfold viewLayer
    dsimp only
    rw [getReg_setReg_fn hseq (by decide) (by decide), if_neg (fun h => absurd h.2 (by decide))]
  have hon : plRselSeqOn (.function fn) q false s = latch { s with fnRegs := f } fn (bits (getReg s fn (reg 3201 0x40)) 0 1) q.toNat := by
    have hsram : (setReg s fn (reg 3201 0x44) q.toNat).peat.direct = false := by rw [hset]; exact hdirect
    rw [← hset, ← hlayer]
    exact if_neg (ne_true_of_eq_false hsram)
  obtain ⟨p, hframe⟩ := latch_frame { s with fnRegs := f } fn (bits (getReg s fn (reg 3201 0x40)) 0 1) q.toNat
  refine ⟨latch { s with fnRegs := f } fn (bits (getReg s fn (reg 3201 0x40)) 0 1) q.toNat, ?_, ⟨fun r hr => ?_, fun hr => ?_⟩, ?_⟩
  · refine (onBar0_eq hs).trans ?_
    rw [hon, hframe]
    rfl
  · rw [latch_found { s with fnRegs := f } fn _ _ hr]
    exact ⟨viewState_setView .., viewData_setView ..⟩
  · rw [latch_gone { s with fnRegs := f } fn _ _ hr]
    exact ⟨viewState_setView .., viewData_setView ..⟩
  · rw [hframe]

/-- A read from flash that was under way ends. -/
theorem plLatchDone_row {layer q : Nat} (hfn : fn < 16) (hbusy : tget (fun _ => 0) s.peat.viewState fn = 2)
    (hwant : s.peat.viewWant.find? (fun e => e.1 == fn) = some (fn, layer, q)) : exec (.plLatchDone (.function fn)) s =
      .next (latch { s with peat := { s.peat with viewWant := tdel s.peat.viewWant fn } } fn layer q) := by
  refine (onFn_eq hfn).trans (congrArg Host.Outcome.next ?_)
  rw [show plLatchDoneOn (.function fn) s = latch { s with peat := { s.peat with viewWant := tdel s.peat.viewWant fn } } fn layer q by
    unfold plLatchDoneOn
    dsimp only [viewKey]
    rw [hbusy, hwant]
    rfl]
  exact keep_latch ..

end Read

/-! ### Flushes and storms (R428, R432, R433) -/

section Flush
variable {s : State} (ha : awake s = true)
include ha

theorem surfaceFlush_copies (hdirect : s.peat.direct = false) :
    exec (.surfaceFlush false) s = .next { s with peat := { s.peat with flashSurface := s.peat.surface } } := by
  refine congrArg (fun t => Host.Outcome.next (keep s t)) (a₂ := flushPeat s) ?_
  rw [surfaceFlushOn, if_neg (by simp [ha, hdirect]), if_neg (by decide)]

/-- A bad record SRAM: the log goes on in flash, and the last-word file says so. -/
theorem surfaceFlush_failed (hdirect : s.peat.direct = false) :
    ∃ t, exec (.surfaceFlush true) s = .next t ∧ t.peat.direct = true ∧ t.tw.lwSeq = s.tw.lwSeq + 1 := by
  have hon : surfaceFlushOn true s = sramFailed s := by
    rw [surfaceFlushOn, if_neg (by simp [ha, hdirect]), if_pos rfl]
  have hfailed : (sramFailed s).peat.direct = true ∧ (sramFailed s).tw.lwSeq = s.tw.lwSeq + 1 := by
    unfold sramFailed
    rw [if_neg (ne_true_of_eq_false hdirect)]
    extract_lets lost seqOf s1 failed s2
    refine ⟨logEvent_direct .., ?_⟩
    obtain ⟨p, hlog⟩ := logEvent_frame s2 peatBlock 0xB02 noFn (toLE 4 (seqOf lost.head?) ++ toLE 4 (seqOf lost.getLast?))
    exact congrArg (fun t => t.tw.lwSeq) hlog
  exact ⟨_, congrArg (fun t => Host.Outcome.next (keep s t)) hon, hfailed⟩

/-- The last suppressed event of a code, written as a summary. -/
theorem stormSummary_row {code : Nat} {e : Nat × Storm} (hfind : s.peat.storms.find? (fun e => e.1 == code) = some e)
    (hold : 98000 ≤ (s.us - e.2.since) * 100) (hslow : s.peat.direct = true → s.peat.lastDirect + 1000 ≤ s.us) :
    ∃ t r, exec (.stormSummary code) s = .next t ∧ t.peat.surface.getLast? = some r ∧ r.code = e.2.last.code ∧ r.payload = e.2.last.payload
      ∧ r.flags % 2 = 1 ∧ r.seq = nextSeq s.peat.seq ∧ t = { s with peat := t.peat } := by
  have hwrites : ¬ (awake s = false ∨ (s.us - e.2.since) * 100 < 98000 ∨ (s.peat.direct = true ∧ s.us < s.peat.lastDirect + 1000)) := by
    rintro (h | h | ⟨h, h'⟩)
    · exact absurd (ha.symm.trans h) (by decide)
    · omega
    · exact absurd (hslow h) (Nat.not_le.2 h')
  let r := makeRecord s { e.2.last with flags := 1 }
  have hflags : r.flags % 2 = 1 := by
    change (1 % 2 + (if s.peat.direct then 2 else 0)) % 2 = 1
    split <;> rfl
  have hon : ∃ p, stormSummaryOn code s = { s with peat := p } ∧ Written s.peat r p := by
    obtain ⟨p, hwrite, hwritten⟩ := writeRecord_frame s { e.2.last with flags := 1 }
    unfold stormSummaryOn
    rw [hfind]
    dsimp only
    rw [if_neg hwrites, hwrite]
    split
    · exact ⟨_, rfl, hwritten.seq, hwritten.surface, hwritten.deep, hwritten.direct⟩
    · exact ⟨p, rfl, hwritten⟩
  obtain ⟨p, hon, hwritten⟩ := hon
  refine ⟨_, r, congrArg (fun t => Host.Outcome.next (keep s t)) hon, ?_, rfl, rfl, hflags, rfl, rfl⟩
  exact hwritten.getLast

/-! ### The lifetime store (R434) -/

theorem lifetimeFlush_row : ∃ t, exec .lifetimeFlush s = .next t ∧ t.flash = { s.flash with lifetime := s.lifetime }
    ∧ getReg t 0 (reg 3300 0x4C) = 0 ∧ t = { s with flash := t.flash, regs := t.regs } := by
  have hon : lifetimeFlushOn s = flushLife s := if_pos ha
  have hzero : getReg (flushLife s) 0 (reg 3300 0x4C) = 0 := (getReg_setReg (by decide)).trans (if_pos rfl)
  obtain ⟨r, hflush⟩ := flushLife_row s
  rw [hflush] at hon hzero
  exact ⟨_, congrArg (fun t => Host.Outcome.next (keep s t)) hon, rfl, hzero, rfl⟩

end Flush

theorem fld_addLife {s : State} {i n a lo len : Nat} (h1 : a ≠ reg 1 0x40) (h2 : a ≠ reg 1 0x48) : fld (addLife s i n) a lo len = fld s a lo len :=
  congrArg (bits · lo len) (getReg_addLife h1 h2)

theorem eastDown_addLife (s : State) (i n : Nat) : eastDown (addLife s i n) = eastDown s := by
  unfold eastDown
  rw [fld_addLife (by decide) (by decide)]

/-- The East half's count of a minute: none while it is parked. -/
def countEast (s : State) : State := if eastDown s then s else addLife s (6 + min (fld s (reg 4 0x48) 4 3) 5) 1

theorem lifeOf_countEast (s : State) (i : Nat) : lifeOf (countEast s) i = if i = 6 + min (fld s (reg 4 0x48) 4 3) 5 then
    (lifeOf s i + (if eastDown s then 0 else 1)) % 2 ^ 64 else lifeOf s i := by
  unfold countEast
  split
  · have hlt : lifeOf s i < 2 ^ 64 := BitVec.isLt _
    rw [Nat.add_zero, Nat.mod_eq_of_lt hlt, ite_self]
  · rw [lifeOf_addLife]
    split
    · next hi => rw [hi]
    · rfl

theorem getReg_countEast {s : State} {a : Nat} (h1 : a ≠ reg 1 0x40) (h2 : a ≠ reg 1 0x48) : getReg (countEast s) 0 a = getReg s 0 a := by
  unfold countEast
  split
  · rfl
  · exact getReg_addLife h1 h2

theorem lifetimeMinuteOn_eq {s : State} (ha : awake s = true) : ∃ bin, 14 ≤ bin ∧ lifetimeMinuteOn s =
    addCount (addLife (countEast (addLife s (min (fld s (reg 4 0x48) 0 3) 5) 1)) bin 1) (reg 3300 0x4C) 1 := by
  unfold lifetimeMinuteOn
  rw [if_neg (by simp [ha])]
  exact ⟨_, Nat.le_add_right 14 _, rfl⟩

theorem lifeOf_addCount {a : Nat} (h : isPerFn a = false) (s : State) (n i : Nat) : lifeOf (addCount s a n) i = lifeOf s i := by
  obtain ⟨_, hframe⟩ := addCount_frame h s n
  rw [hframe]
  rfl

/-- Each minute counts at each half's point, and at the highest junction's bin, which lies above both. -/
theorem lifetimeMinute_row {s : State} (ha : awake s = true) : ∃ t, exec .lifetimeMinute s = .next t
    ∧ (let w := min (fld s (reg 4 0x48) 0 3) 5
       let e := 6 + min (fld s (reg 4 0x48) 4 3) 5
       lifeOf t w = (lifeOf s w + 1) % 2 ^ 64 ∧ lifeOf t e = (lifeOf s e + (if eastDown s then 0 else 1)) % 2 ^ 64)
    ∧ getReg t 0 (reg 3300 0x4C) = (getReg s 0 (reg 3300 0x4C) + 1) % 2 ^ 32 := by
  obtain ⟨bin, hbin, hon⟩ := lifetimeMinuteOn_eq ha
  have hcount : isPerFn (reg 3300 0x4C) = false := by decide
  refine ⟨_, congrArg (fun t => Host.Outcome.next (keep s t)) hon, ?_, ?_⟩
  · intro w e
    have hlife : ∀ i, i < 14 → lifeOf (addCount (addLife (countEast (addLife s w 1)) bin 1) (reg 3300 0x4C) 1) i = lifeOf (countEast (addLife s w 1)) i := by
      intro i hi
      rw [lifeOf_addCount hcount, lifeOf_addLife, if_neg (by omega)]
    have hpoint : fld (addLife s w 1) (reg 4 0x48) 4 3 = fld s (reg 4 0x48) 4 3 := fld_addLife (by decide) (by decide)
    have hw : w < 6 := by omega
    have he : 6 ≤ e ∧ e < 14 := by omega
    rw [lifeOf_keep, lifeOf_keep, hlife w (by omega), hlife e he.2]
    refine ⟨?_, ?_⟩
    · rw [lifeOf_countEast, hpoint, if_neg (show ¬ w = e by omega), lifeOf_addLife, if_pos rfl]
    · rw [lifeOf_countEast, hpoint, if_pos rfl, eastDown_addLife, lifeOf_addLife, if_neg (show ¬ e = w by omega)]
  · rw [getReg_keep, addCount, getReg_setReg hcount, if_pos rfl, Nat.mod_mod, getReg_addLife (by decide) (by decide),
      getReg_countEast (by decide) (by decide), getReg_addLife (by decide) (by decide)]

theorem plClear_row {s : State} {fn : Nat} (hs : Answers s fn) (deep : Bool) : ∃ t, onBar0 fn s (fun s => clearLayer s deep fn) = .next t
    ∧ (∀ r ∈ layerOf deep t.peat, r.code = 0xB01 ∨ r.code = 0xC01) ∧ t.peat.surface.getLast?.map (·.code) = some 0xB01
    ∧ t.peat.lastClear = t.peat.seq ∧ lifeOf t 168 = (lifeOf s 168 + 1) % 2 ^ 64 := by
  have hclear := clearLayer_row s deep fn
  rw [onBar0_eq hs]
  generalize clearLayer s deep fn = t at hclear
  exact ⟨_, rfl, hclear⟩

/-- Settles O59: the record by its entry into the layers, and one lemma for each row. -/
theorem logRows : Obligations.LogRows := by
  unfold Obligations.LogRows
  exact fun s => ⟨writeRecord_row s, fun _ hs => plClear_row hs false, fun _ hs => plClear_row hs true, fun _ => plRselSeqWrite_row,
    fun _ _ _ => plLatchDone_row, surfaceFlush_copies, surfaceFlush_failed, fun _ _ hfind ha => stormSummary_row ha hfind, lifetimeFlush_row,
    lifetimeMinute_row⟩

end Sys2Proof.Machine

/-! # What reseeding the enclave's generator leaves alone

A draw of the DRBG asks the random source for a block (R384), and the pool that this serves may fill buffers in device memory (R388).
SE_UPLOAD_STATUS stands at offset 0x54 of its page: no operation on memory writes a register at that offset of any page, and none of them
reaches the enclave. -/

namespace Sys2Proof.Machine

/-! ### Registers at the offset of SE_UPLOAD_STATUS -/

/-- Every register at offset 0x54 of its page reads the same. -/
structure KeepsUploadStatus (s t : State) : Prop where
  reads : ∀ fn a, a % 4096 = 0x54 → getReg t fn a = getReg s fn a

theorem KeepsUploadStatus.refl (s : State) : KeepsUploadStatus s s := ⟨fun _ _ _ => rfl⟩

theorem KeepsUploadStatus.trans {s t u : State} (h : KeepsUploadStatus s t) (k : KeepsUploadStatus t u) : KeepsUploadStatus s u :=
  ⟨fun fn a ha => (k.reads fn a ha).trans (h.reads fn a ha)⟩

theorem KeepsUploadStatus.of_regs {s t : State} (h : t.regs = s.regs) (h' : t.fnRegs = s.fnRegs) : KeepsUploadStatus s t :=
  ⟨fun fn a _ => getReg_congr h h' fn a⟩

theorem foldl_keepsUploadStatus {α : Type} {f : State → α → State} (hf : ∀ s a, KeepsUploadStatus s (f s a)) (l : List α) (s : State) :
    KeepsUploadStatus s (l.foldl f s) :=
  List.foldlRecOn l f (.refl s) (fun t ht a _ => ht.trans (hf t a))

/-- A register at another offset of whatever page. -/
theorem setReg_keepsUploadStatus (s : State) (fn page v : Nat) {off : Nat} (h : off % 4096 ≠ 0x54) :
    KeepsUploadStatus s (setReg s fn (reg page off) v) := by
  refine ⟨fun fn' a ha => ?_⟩
  have hne : ∀ k, k % 4096 = 0 → 2 ^ 24 * fn' + a ≠ k + reg page off := by unfold reg; omega
  have hne' : a ≠ reg page off := by unfold reg; omega
  unfold getReg setReg
  split
  · split
    · rw [tget_tset_ne _ _ _ (hne (2 ^ 24 * fn) (by omega))]
    · rfl
  · split
    · rfl
    · rw [tget_tset_ne _ _ _ hne']

theorem set64_keepsUploadStatus (s : State) (page v : Nat) {off : Nat} (h : off % 4096 ≠ 0x54) (h' : (off + 4) % 4096 ≠ 0x54) :
    KeepsUploadStatus s (set64 s (reg page off) v) := by
  unfold set64
  rw [show reg page off + 4 = reg page (off + 4) from Nat.add_assoc ..]
  exact (setReg_keepsUploadStatus s 0 page _ h).trans (setReg_keepsUploadStatus _ 0 page _ h')

theorem setFld_keepsUploadStatus (s : State) (page lo len v : Nat) {off : Nat} (h : off % 4096 ≠ 0x54) :
    KeepsUploadStatus s (setFld s (reg page off) lo len v) := setReg_keepsUploadStatus _ _ _ _ h

theorem addSat_keepsUploadStatus (s : State) (page n : Nat) {off : Nat} (h : off % 4096 ≠ 0x54) :
    KeepsUploadStatus s (addSat s (reg page off) n) := setReg_keepsUploadStatus _ _ _ _ h

theorem add64_keepsUploadStatus (s : State) (page n : Nat) {off : Nat} (h : off % 4096 ≠ 0x54) (h' : (off + 4) % 4096 ≠ 0x54) :
    KeepsUploadStatus s (add64 s (reg page off) n) := set64_keepsUploadStatus _ _ _ h h'

/-! ### Flags and records -/

theorem sendMsg_keepsUploadStatus (s : State) (m : Msg) : KeepsUploadStatus s (sendMsg s m) := by
  unfold sendMsg
  split <;> exact .of_regs rfl rfl

theorem raiseVector_keepsUploadStatus (s : State) (fn v : Nat) : KeepsUploadStatus s (raiseVector s fn v) := by
  unfold raiseVector
  split
  · exact setReg_keepsUploadStatus _ _ _ _ (by decide)
  · split
    · exact sendMsg_keepsUploadStatus ..
    · exact .of_regs rfl rfl

theorem pageEdges_keepsUploadStatus (before s : State) (page : Nat) : KeepsUploadStatus s (pageEdges before s page) := by
  refine foldl_keepsUploadStatus (fun t fn => ?_) _ s
  split
  · exact raiseVector_keepsUploadStatus ..
  · exact .refl t

theorem setErrStat_keepsUploadStatus (s : State) (page m : Nat) : KeepsUploadStatus s (setErrStat s page m) :=
  (setReg_keepsUploadStatus _ _ _ _ (by decide)).trans (pageEdges_keepsUploadStatus ..)

theorem countCE_keepsUploadStatus (s : State) (page : Nat) : KeepsUploadStatus s (countCE s page) :=
  (addSat_keepsUploadStatus _ _ _ (by decide)).trans (setErrStat_keepsUploadStatus ..)

theorem countUE_keepsUploadStatus (s : State) (page : Nat) : KeepsUploadStatus s (countUE s page) :=
  (addSat_keepsUploadStatus _ _ _ (by decide)).trans (setErrStat_keepsUploadStatus ..)

theorem setErrInfo_keepsUploadStatus (s : State) (ch w pos : Nat) (ue scrub : Bool) (s0 : Byte) :
    KeepsUploadStatus s (setErrInfo s ch w pos ue scrub s0) :=
  (setReg_keepsUploadStatus _ _ _ _ (by decide)).trans (set64_keepsUploadStatus _ _ _ (by decide) (by decide))

theorem logEvent_keepsUploadStatus (s : State) (block code fn : Nat) (payload : List Byte) :
    KeepsUploadStatus s (logEvent s block code fn payload) := ⟨fun _ _ _ => getReg_logEvent ..⟩

theorem addLife_keepsUploadStatus (s : State) (i n : Nat) : KeepsUploadStatus s (addLife s i n) :=
  ⟨fun _ a ha => getReg_addLife (by unfold reg; omega) (by unfold reg; omega)⟩

theorem markRowFaulty_keepsUploadStatus (s : State) (k : Nat) : KeepsUploadStatus s (markRowFaulty s k) := ⟨fun _ _ _ => getReg_markRowFaulty ..⟩

/-! ### Words of device memory (R290 to R293) -/

theorem settleWord_keepsUploadStatus (s : State) (w : Nat) (fix : Option (Nat × Byte)) : KeepsUploadStatus s (settleWord s w fix) := by
  obtain ⟨_, _, _, h⟩ := settleWord_frame s w fix
  rw [h]
  exact .of_regs rfl rfl

/-- Which words a bad read has poisoned is no register. -/
theorem KeepsUploadStatus.rewritten {s t : State} (h : KeepsUploadStatus s t) (l : List Nat) : KeepsUploadStatus s { t with rewritten := l } :=
  h.trans (.of_regs rfl rfl)

theorem onCorrected_keepsUploadStatus (s : State) (w pos : Nat) (s0 : Byte) (scrub : Bool) : KeepsUploadStatus s (onCorrected s w pos s0 scrub) := by
  unfold onCorrected
  extract_lets ch injected again s1 s2 s3 s4 s5 k ws ws' s6
  have h1 : KeepsUploadStatus s s1 := settleWord_keepsUploadStatus ..
  clear_value s1
  have h2 : KeepsUploadStatus s s2 := h1.trans (.of_regs rfl rfl)
  clear_value s2
  have h3 : KeepsUploadStatus s s3 := h2.trans ((setErrInfo_keepsUploadStatus ..).trans (countCE_keepsUploadStatus ..))
  clear_value s3
  have h5 : KeepsUploadStatus s s5 := h3.trans ((addLife_keepsUploadStatus ..).trans (logEvent_keepsUploadStatus ..))
  clear_value s5
  have h6 : KeepsUploadStatus s s6 := h5.trans (.of_regs rfl rfl)
  split
  · exact h5
  · split
    · exact h6.trans (markRowFaulty_keepsUploadStatus ..)
    · exact h6

theorem onUncorrectable_keepsUploadStatus (s : State) (w : Nat) (s0 : Byte) (scrub : Bool) :
    KeepsUploadStatus s (onUncorrectable s w s0 scrub) := by
  unfold onUncorrectable
  extract_lets ch injected again s1 s2 s3 s4
  have h1 : KeepsUploadStatus s s1 := by
    obtain ⟨_, _, _, _, h⟩ := poisonWord_frame s w
    rw [show s1 = _ from h]
    exact .of_regs rfl rfl
  clear_value s1
  have h2 : KeepsUploadStatus s s2 := h1.trans (.of_regs rfl rfl)
  clear_value s2
  have h4 : KeepsUploadStatus s s4 :=
    h2.trans ((setErrInfo_keepsUploadStatus ..).trans ((countUE_keepsUploadStatus ..).trans (logEvent_keepsUploadStatus ..)))
  split
  · exact h4.trans (markRowFaulty_keepsUploadStatus ..)
  · exact h4

theorem openWord_keepsUploadStatus (s : State) (w : Nat) (scrub : Bool) : KeepsUploadStatus s (openWord s w scrub).2 := by
  unfold openWord
  split
  · exact addSat_keepsUploadStatus _ _ _ (by decide)
  · split
    · exact .refl s
    · exact onUncorrectable_keepsUploadStatus ..

theorem visitWord_keepsUploadStatus (s : State) (w : Nat) (scrub : Bool) : KeepsUploadStatus s (visitWord s w scrub).2 := by
  rw [visitWord_eq]
  split
  · refine .trans ?_ (openWord_keepsUploadStatus ..)
    split
    · exact .of_regs rfl rfl
    · exact (settleWord_keepsUploadStatus ..).rewritten _
  · exact ((onCorrected_keepsUploadStatus ..).rewritten _).trans (openWord_keepsUploadStatus ..)
  · exact onUncorrectable_keepsUploadStatus ..

theorem wakeEast_keepsUploadStatus (s : State) : KeepsUploadStatus s (wakeEast s) := ⟨fun _ a ha => getReg_wakeEast (by unfold reg; omega)⟩

theorem storeWord_keepsUploadStatus (s : State) (w : Nat) (d : List Byte) : KeepsUploadStatus s (storeWord s w d) := by
  unfold storeWord
  extract_lets s1 s2 a v s3
  have h1 : KeepsUploadStatus s s1 := .of_regs rfl rfl
  clear_value s1
  have h2 : KeepsUploadStatus s s2 := h1.trans (.of_regs rfl rfl)
  clear_value s2
  split
  · have h3 : KeepsUploadStatus s s3 := h2.trans (.trans (setReg_keepsUploadStatus s2 0 _ (v % 128) (by decide)) (.of_regs rfl rfl))
    clear_value s3
    exact h3.trans (.of_regs rfl rfl)
  · exact h2

theorem writeWord_keepsUploadStatus (s : State) (w o : Nat) (d : List Byte) : KeepsUploadStatus s (writeWord s w o d) := by
  unfold writeWord
  extract_lets s1 s2
  have h1 : KeepsUploadStatus s s1 := by
    unfold s1 reachWord
    split
    · exact .refl s
    · exact wakeEast_keepsUploadStatus s
  have h2 : KeepsUploadStatus s s2 := h1.trans (add64_keepsUploadStatus _ _ _ (by decide) (by decide))
  clear_value s2
  split
  · exact h2.trans ((storeWord_keepsUploadStatus ..).trans (.of_regs rfl rfl))
  · split
    · exact h2
    · have h := visitWord_keepsUploadStatus s2 w false
      generalize visitWord s2 w false = x at h
      obtain ⟨_ | d', u⟩ := x
      · exact h2.trans h
      · exact h2.trans (h.trans ((storeWord_keepsUploadStatus ..).trans (.of_regs rfl rfl)))

theorem writeChunks_keepsUploadStatus (s : State) (a : Nat) (b : List Byte) (k : Nat) : KeepsUploadStatus s (writeChunks s a b k) := by
  induction k generalizing s a b with
  | zero => exact .refl s
  | succ k ih =>
    unfold writeChunks
    split
    · exact .refl s
    · exact (writeWord_keepsUploadStatus ..).trans (ih ..)

/-! ### Shared slices and holes -/

theorem setSliceErr_keepsUploadStatus (s : State) (n w : Nat) (e : Upset) : KeepsUploadStatus s (setSliceErr s n w e) := .of_regs rfl rfl
theorem pokeSlice_keepsUploadStatus (s : State) (n o : Nat) (b : List Byte) : KeepsUploadStatus s (pokeSlice s n o b) := .of_regs rfl rfl
theorem setMarch_keepsUploadStatus (s : State) (n : Nat) (m : March) : KeepsUploadStatus s (setMarch s n m) := .of_regs rfl rfl

theorem readSlice_keepsUploadStatus (s : State) (n w : Nat) (back march : Bool) : KeepsUploadStatus s (readSlice s n w back march).2 := by
  have hinfo : ∀ p ue, KeepsUploadStatus s (setSliceInfo s n w p ue march) := fun _ _ => setReg_keepsUploadStatus _ _ _ _ (by decide)
  unfold readSlice
  dsimp only
  split
  · exact .refl s
  · split
    · exact (hinfo _ _).trans ((countCE_keepsUploadStatus ..).trans ((pokeSlice_keepsUploadStatus ..).trans (setSliceErr_keepsUploadStatus ..)))
    · exact (hinfo _ _).trans (countCE_keepsUploadStatus ..)
  · exact (hinfo _ _).trans (countUE_keepsUploadStatus ..)

theorem writeSlice_keepsUploadStatus (s : State) (n o : Nat) (b : List Byte) : KeepsUploadStatus s (writeSlice s n o b) := by
  unfold writeSlice
  dsimp only
  split
  · exact (pokeSlice_keepsUploadStatus ..).trans (setSliceErr_keepsUploadStatus ..)
  · exact (readSlice_keepsUploadStatus ..).trans (pokeSlice_keepsUploadStatus ..)

theorem preempt_keepsUploadStatus (s : State) (n : Nat) : KeepsUploadStatus s (preempt s n) :=
  (setMarch_keepsUploadStatus ..).trans ((setFld_keepsUploadStatus _ _ _ _ _ (by decide)).trans (addSat_keepsUploadStatus _ _ _ (by decide)))

theorem readied_keepsUploadStatus (s : State) (n : Nat) (ports : List PortAccess) : KeepsUploadStatus s (readied s n ports) := by
  have hwake : KeepsUploadStatus s (wakeSlice s n) := ⟨fun _ a ha => getReg_wakeSlice (by unfold reg; omega)⟩
  unfold readied
  split
  · exact hwake.trans (preempt_keepsUploadStatus ..)
  · exact hwake

theorem writeSlices_keepsUploadStatus (s : State) (o : Nat) (b : List Byte) (k : Nat) : KeepsUploadStatus s (writeSlices s o b k) := by
  induction k generalizing s o b with
  | zero => exact .refl s
  | succ k ih =>
    unfold writeSlices
    split
    · exact .refl s
    · dsimp only
      rw [serve_write]
      exact (readied_keepsUploadStatus ..).trans ((writeSlice_keepsUploadStatus ..).trans (ih ..))

theorem writeAbove_keepsUploadStatus (s : State) (fn a : Nat) (b : List Byte) : KeepsUploadStatus s (writeAbove s fn a b) := by
  unfold writeAbove
  split
  · exact writeSlices_keepsUploadStatus ..
  · exact logEvent_keepsUploadStatus ..

theorem writeDev_keepsUploadStatus (s : State) (fn a : Nat) (b : List Byte) : KeepsUploadStatus s (writeDev s fn a b) := by
  unfold writeDev
  dsimp only
  split
  · exact writeChunks_keepsUploadStatus ..
  · exact (writeChunks_keepsUploadStatus ..).trans (writeAbove_keepsUploadStatus ..)

/-! ### A block asked for (R384, R388) -/

/-- Of the enclave only the seed of its generator and the count of its outputs differ, and no register at offset 0x54. -/
structure Reseeds (s t : State) : Prop where
  enclave : ∃ seed n, t.enclave = { s.enclave with drbgSeed := seed, drbgCount := n }
  status : KeepsUploadStatus s t

theorem Reseeds.of_regs {s t : State} (h : t.enclave = s.enclave) (hregs : t.regs = s.regs) (hfnRegs : t.fnRegs = s.fnRegs) : Reseeds s t :=
  ⟨⟨_, _, h⟩, .of_regs hregs hfnRegs⟩

theorem Reseeds.refl (s : State) : Reseeds s s := .of_regs rfl rfl rfl

theorem Reseeds.trans {s t u : State} (h : Reseeds s t) (k : Reseeds t u) : Reseeds s u := by
  obtain ⟨_, _, ht⟩ := h.enclave
  obtain ⟨seed, n, hu⟩ := k.enclave
  exact ⟨⟨seed, n, by rw [hu, ht]⟩, h.status.trans k.status⟩

theorem OnlyMemory.enclave {s t : State} (h : OnlyMemory s t) : t.enclave = s.enclave := by
  obtain ⟨_, _, _, _, _, _, _, _, _, _, _, _, _, _, _, _, _, _, _, _, rfl, _, _⟩ := h
  rfl

theorem OnlyMemory.reseeds {s t : State} (h : OnlyMemory s t) (hstatus : KeepsUploadStatus s t) : Reseeds s t := ⟨⟨_, _, h.enclave⟩, hstatus⟩

theorem addWaiter_reseeds (s : State) (w : Waiter) : Reseeds s (addWaiter s w) := by
  obtain ⟨_, h⟩ := addWaiter_frame s w
  rw [h]
  exact .of_regs rfl rfl rfl

theorem writeSpan_reseeds (s : State) (fn : Nat) (p : Span) (off : Nat) (b : List Byte) : Reseeds s (writeSpan s fn p off b) := by
  unfold writeSpan
  split
  · exact .of_regs rfl rfl rfl
  · exact (writeDev_only ..).reseeds (writeDev_keepsUploadStatus ..)

theorem updateCmd_reseeds (s : State) (q : Nat) (f : Cmd → Cmd) : Reseeds s (updateCmd s q f) := by
  unfold updateCmd
  split
  · exact .of_regs rfl rfl rfl
  · exact .refl s

theorem finishTo_reseeds (s : State) (q : Nat) (o : Outcome3) (dest : Option (Nat × Span)) : Reseeds s (finishTo s q o dest) := by
  obtain ⟨_, h⟩ := finishTo_only s q o dest
  rw [h]
  exact .of_regs rfl rfl rfl

theorem giveFill_reseeds (s : State) (q : Nat) (b : BitVec 512) (w : Waiter) : Reseeds s (giveFill s q b w) := by
  unfold giveFill
  split
  · next inner c _ =>
    split
    · extract_lets dst n s1 s2
      have h2 : Reseeds s s2 := (writeSpan_reseeds ..).trans (updateCmd_reseeds ..)
      clear_value s2
      split
      · exact h2.trans (finishTo_reseeds ..)
      · exact h2.trans (addWaiter_reseeds ..)
    · exact .refl s
  · exact .refl s

theorem giveBlock_reseeds (s : State) (w : Waiter) (b : BitVec 512) : Reseeds s (giveBlock s w b) := by
  unfold giveBlock
  extract_lets s1
  have h1 : Reseeds s s1 := .trans (t := dropWaiter s w) (.of_regs rfl rfl rfl)
    ((add64_only ..).memory.reseeds (add64_keepsUploadStatus _ _ _ (by decide) (by decide)))
  clear_value s1
  split
  · exact h1.trans ⟨⟨_, _, rfl⟩, .of_regs rfl rfl⟩
  · split
    · refine h1.trans ?_
      unfold giveSeed
      split
      · exact .of_regs rfl rfl rfl
      · exact .refl s1
    · split
      · exact h1.trans (giveFill_reseeds ..)
      · exact h1.trans (.of_regs rfl rfl rfl)

theorem setPool_reseeds (s : State) (p : List (BitVec 512)) : Reseeds s (setPool s p) :=
  .trans (t := { s with rng := { s.rng with pool := p } }) (.of_regs rfl rfl rfl)
    ((setFld_only ..).memory.reseeds (setFld_keepsUploadStatus _ 3100 _ _ _ (off := 0x40) (by decide)))

theorem servePool_reseeds (s : State) (n : Nat) : Reseeds s (servePool s n) := by
  induction n generalizing s with
  | zero => exact .refl s
  | succ n ih =>
    unfold servePool
    split
    · exact (setPool_reseeds ..).trans ((giveBlock_reseeds ..).trans (ih _))
    · exact .refl s

/-- A draw of the generator, and the request that reseeds it. -/
theorem drawDrbg_reseeds (s : State) : Reseeds s (drawDrbg s).2 :=
  .trans (t := { s with enclave := { s.enclave with drbgCount := s.enclave.drbgCount + 1 } }) ⟨⟨_, _, rfl⟩, .of_regs rfl rfl⟩
    ((addWaiter_reseeds ..).trans (servePool_reseeds ..))

theorem drawDrbg_fst (s : State) : (drawDrbg s).1 = Config.drbg (s.enclave.drbgSeed.getD 0) s.enclave.drbgCount := rfl

end Sys2Proof.Machine

/-! # SPDM requests (O57)

A request on a transport that is up is held or served, and one lemma for each says what serving it leaves. -/

namespace Sys2Proof.Machine

/-! ### Held or served (R403) -/

section Arrival
variable {s : State} {t : Transport} {i : Instr} (hfn : Transport.fn t < 16) (hup : transportUp s t = true)
include hfn hup

theorem exec_spdm {u : State} (hidle : selftestBusy s = false) (hserve : spdmServe s i = u) :
    onTransport t s (spdmRequest t i) = .next (keep s u) := by
  refine (onFn_eq hfn).trans (congrArg (fun u => Host.Outcome.next (keep s u)) ?_)
  rw [spdmRequest, hup, if_neg (by decide), hidle, if_neg (by decide), hserve]

/-- A request that only answers. -/
theorem exec_spdm_replies {b : List Byte} (hidle : selftestBusy s = false) (hserve : spdmServe s i = reply s t b) :
    onTransport t s (spdmRequest t i) = .next (reply s t b) := exec_spdm hfn hup hidle hserve

theorem exec_spdm_refuses {e : SpdmError} (hidle : selftestBusy s = false) (hserve : spdmServe s i = replyError s t e) :
    onTransport t s (spdmRequest t i) = .next (replyError s t e) := exec_spdm hfn hup hidle hserve

theorem exec_spdm_held (hbusy : selftestBusy s = true) :
    onTransport t s (spdmRequest t i) = .next { s with enclave := { s.enclave with heldRequests := s.enclave.heldRequests ++ [i] } } := by
  refine (onFn_eq hfn).trans (congrArg (fun u => Host.Outcome.next (keep s u))
    (a₂ := { s with enclave := { s.enclave with heldRequests := s.enclave.heldRequests ++ [i] } }) ?_)
  rw [spdmRequest, hup, if_neg (by decide), hbusy, if_pos rfl]

end Arrival

theorem spdmGetMeasurements_eq {s : State} {i : Nat} (hstate : enclaveState s ≠ 3) (hlo : 1 ≤ i) (hhi : i ≤ 8) (t : Transport) (n : BitVec 256) :
    spdmGetMeasurements s t i n = reply s t (measurement s t i
      ++ (signature s (Config.spdmBody 0xE0 (toLE 32 n.toNat ++ toLE 1 i ++ measurement s t i))).getD []) := if_neg (by omega)

/-! ### Requests that ERROR and a debug unlock leave unanswered (R400, R405) -/

theorem setSessions_enclave (s : State) (l : List Session) : (setSessions s l).enclave = { s.enclave with sessions := l } :=
  (setFld_only ..).memory.enclave

/-- What a reply leaves once the sessions have changed. -/
theorem reply_setSessions (s : State) (l : List Session) (t : Transport) (b : List Byte) : (reply (setSessions s l) t b).enclave =
    { s.enclave with sessions := l, replies := s.enclave.replies ++ [{ transport := t, body := b }] } := by
  unfold reply
  rw [setSessions_enclave]

section Open
variable {s : State} (hstate : enclaveState s ≠ 3) (hdebug : debugOpen s = false) (t : Transport)
include hstate hdebug

theorem spdmOpen_eq (f : State → State) : spdmOpen s t f = f s := by
  refine if_neg ?_
  rintro (h | h)
  · exact hstate h
  · exact absurd (hdebug.symm.trans h) (by decide)

theorem spdmGetDigests_eq : spdmGetDigests s t = reply s t (Config.spdmBody 0x81 []) := by
  rw [spdmGetDigests, spdmOpen_eq hstate hdebug]

theorem spdmGetCertificate_eq (o l : Nat) : spdmGetCertificate s t 0 o l = reply s t (Config.spdmBody 0x82 (toLE 2 o ++ toLE 2 l)) := by
  rw [spdmGetCertificate, spdmOpen_eq hstate hdebug, if_pos rfl]

theorem spdmChallenge_eq {k : BitVec 256} (n : BitVec 256) (hkey : s.enclave.identity = some k) : spdmChallenge s t n = reply s t
    (Config.spdmBody 0x83 (toLE 32 n.toNat) ++ Config.mldsaSign k (Config.spdmBody 0x83 (toLE 32 n.toNat))) := by
  have hsign : ∀ b, signature s b = some (Config.mldsaSign k b) := fun b => by
    rw [signature, hdebug, if_neg (by decide), hkey]
    rfl
  rw [spdmChallenge, spdmOpen_eq hstate hdebug]
  dsimp only
  rw [hsign]

/-- A new session takes the next number, and its answer a draw of the generator. -/
theorem spdmKeyExchange_row (happroved : approved s = true) (hroom : s.enclave.sessions.length < 8) :
    (spdmKeyExchange s t).enclave.sessions = s.enclave.sessions ++ [{ id := s.enclave.nextSession, transport := t }]
    ∧ (spdmKeyExchange s t).enclave.nextSession = s.enclave.nextSession + 1
    ∧ (spdmKeyExchange s t).enclave.replies.length = s.enclave.replies.length + 1 := by
  have hdraw := (drawDrbg_reseeds s).enclave
  rw [spdmKeyExchange, spdmOpen_eq hstate hdebug, happroved, if_neg (by decide), if_neg (Nat.not_le.2 hroom)]
  generalize drawDrbg s = x at hdraw
  obtain ⟨v, u⟩ := x
  obtain ⟨_, _, hu⟩ := hdraw
  dsimp only at hu ⊢
  unfold reply
  dsimp only
  rw [setSessions_enclave, hu]
  exact ⟨rfl, rfl, List.length_append⟩

theorem spdmKeyExchange_full (happroved : approved s = true) (hfull : 8 ≤ s.enclave.sessions.length) :
    spdmKeyExchange s t = replyError s t .sessionLimit := by
  rw [spdmKeyExchange, spdmOpen_eq hstate hdebug, happroved, if_neg (by decide), if_pos hfull]

section Session
variable {n : Nat} {x : Session} (hsession : sessionOf s t n = some x)
include hsession

theorem spdmFinish_eq (hx : x.finished = false) : spdmFinish s t n =
    reply (setSessions s (s.enclave.sessions.map (fun y => if y.id = n then { y with finished := true } else y))) t (Config.spdmBody 0xE5 (toLE 2 n)) := by
  rw [spdmFinish, spdmOpen_eq hstate hdebug, hsession]
  dsimp only
  rw [hx, if_neg (by decide)]

theorem spdmHeartbeat_eq (hx : x.finished = true) : spdmHeartbeat s t n = reply s t (Config.spdmBody 0xE8 (toLE 2 n)) := by
  rw [spdmHeartbeat, spdmOpen_eq hstate hdebug, hsession]
  dsimp only
  rw [hx, if_pos rfl]

theorem spdmEndSession_eq : spdmEndSession s t n =
    reply (setSessions s (s.enclave.sessions.filter (fun y => y.id != n))) t (Config.spdmBody 0xEC (toLE 2 n)) := by
  rw [spdmEndSession, spdmOpen_eq hstate hdebug, hsession]

/-- A key of one of the nine streams, inside a finished session of the physical function's mailbox. -/
theorem spdmIdeKm_eq {k : Nat} (key : BitVec 256) (ht : t = .doe 0) (happroved : approved s = true) (hk : k < 9) (hx : x.finished = true) :
    spdmIdeKm s t n k key = reply { s with enclave := { s.enclave with ideKeys := tput s.enclave.ideKeys k key } } t (Config.spdmBody 0xFE (toLE 2 n)) := by
  have hopen : ¬ (t ≠ .doe 0 ∨ approved s = false ∨ 9 ≤ k ∨ ((sessionOf s t n).map (·.finished)).getD false = false) := by
    rw [hsession, happroved]
    rintro (h | h | h | h)
    · exact h ht
    · exact absurd h (by decide)
    · omega
    · exact absurd (hx.symm.trans h) (by decide)
  rw [spdmIdeKm, spdmOpen_eq hstate hdebug, if_neg hopen]

end Session

end Open

/-! ### The rows -/

/-- A row that changes the sessions and answers. -/
theorem exec_spdm_sessions {s : State} {t : Transport} {i : Instr} {l : List Session} {b : List Byte} (hfn : Transport.fn t < 16)
    (hup : transportUp s t = true) (hidle : selftestBusy s = false) (hserve : spdmServe s i = reply (setSessions s l) t b) :
    ∃ u, onTransport t s (spdmRequest t i) = .next u ∧ u.enclave.sessions = l
      ∧ u.enclave.replies = s.enclave.replies ++ [{ transport := t, body := b }] := by
  have henclave := reply_setSessions s l t b
  refine ⟨_, exec_spdm hfn hup hidle hserve, ?_⟩
  generalize reply (setSessions s l) t b = u at henclave
  exact ⟨congrArg Enclave.sessions henclave, congrArg Enclave.replies henclave⟩

/-- Settles O57: each request by what serving it leaves. -/
theorem spdmRows : Obligations.SpdmRows := by
  unfold Obligations.SpdmRows
  intro s t hfn hup
  refine ⟨exec_spdm_held hfn hup, fun hidle => ⟨exec_spdm_replies hfn hup hidle rfl,
    fun _ n hstate hlo hhi => exec_spdm_replies hfn hup hidle (spdmGetMeasurements_eq hstate hlo hhi t n),
    fun h => exec_spdm_refuses hfn hup hidle (if_pos h), fun hstate hdebug => ⟨?_, fun o l => ?_, fun _ n hkey => ?_, fun happroved hroom => ?_,
      fun happroved hfull => ?_, fun n x hsession => ⟨fun hx => ?_, fun hx => ?_, ?_, fun k key ht happroved hk hx => ?_⟩⟩⟩⟩
  · exact exec_spdm_replies hfn hup hidle (spdmGetDigests_eq hstate hdebug t)
  · exact exec_spdm_replies hfn hup hidle (spdmGetCertificate_eq hstate hdebug t o l)
  · exact exec_spdm_replies hfn hup hidle (spdmChallenge_eq hstate hdebug t n hkey)
  · exact ⟨_, exec_spdm hfn hup hidle (i := .keyExchange t) rfl, spdmKeyExchange_row hstate hdebug t happroved hroom⟩
  · exact exec_spdm_refuses hfn hup hidle (spdmKeyExchange_full hstate hdebug t happroved hfull)
  · exact exec_spdm_sessions hfn hup hidle (spdmFinish_eq hstate hdebug t hsession hx)
  · exact exec_spdm_replies hfn hup hidle (spdmHeartbeat_eq hstate hdebug t hsession hx)
  · exact exec_spdm_sessions hfn hup hidle (spdmEndSession_eq hstate hdebug t hsession)
  · exact ⟨_, exec_spdm hfn hup hidle (spdmIdeKm_eq hstate hdebug t hsession key ht happroved hk hx), rfl, rfl⟩

end Sys2Proof.Machine

/-! # The enclave's services (O56)

The value of SE_UPLOAD_STATUS of a view, what keeps SE_STATUS, and what zeroising leaves of the keys; then one lemma for each row of
chapter 17 but SPDM's. -/

namespace Sys2Proof.Machine

/-! ### SE_UPLOAD_STATUS of a view -/

/-- One of its fields is stored. -/
theorem seFn_setSeFn_putBits (s : State) (fn v : Nat) {lo len : Nat} (h : lo + len ≤ 32) :
    seFn (setSeFn s fn 0x54 (putBits (seFn s fn 0x54) lo len v)) fn 0x54 = putBits (seFn s fn 0x54) lo len v := by
  have hlt : putBits (seFn s fn 0x54) lo len v < 2 ^ 32 := putBits_lt _ _ _ _ _ (getReg_lt ..) h
  refine (getReg_setReg_fn (by decide) (by decide) (by decide)).trans ((if_pos ⟨rfl, rfl⟩).trans ?_)
  exact Nat.mod_eq_of_lt hlt

theorem seFn_setUploadState (s : State) (fn v : Nat) : seFn (setUploadState s fn v) fn 0x54 = putBits (seFn s fn 0x54) 0 2 v :=
  seFn_setSeFn_putBits s fn v (by decide)

theorem uploadState_setUploadState (s : State) (fn : Nat) {v : Nat} (h : v < 4) : uploadState (setUploadState s fn v) fn = v := by
  unfold uploadState
  rw [seFn_setUploadState, bits_putBits_same]
  exact Nat.mod_eq_of_lt h

theorem seFn_keep (s t : State) (fn off : Nat) : seFn (keep s t) fn off = seFn t fn off := getReg_keep ..

theorem uploadState_keep (s t : State) (fn : Nat) : uploadState (keep s t) fn = uploadState t fn := congrArg (bits · 0 2) (seFn_keep ..)

theorem setUploadState_frame (s : State) (fn v : Nat) : ∃ f, setUploadState s fn v = { s with fnRegs := f } :=
  setReg_frame_fn (by decide : isPerFn (reg 3073 0x54) = true) ..

theorem setUploadState_enclave (s : State) (fn v : Nat) : (setUploadState s fn v).enclave = s.enclave := (setReg_only ..).memory.enclave

theorem dropUpload_enclave (s : State) (fn : Nat) :
    (dropUpload s fn).enclave = (setUpload s fn { uploadOf s fn with keySeed := none, encapsKey := [] }).enclave := setUploadState_enclave ..

theorem uploadOf_congr {s t : State} (h : t.enclave = s.enclave) (fn : Nat) : uploadOf t fn = uploadOf s fn := by
  unfold uploadOf
  rw [h]

theorem uploadOf_keep (s t : State) (fn : Nat) : uploadOf (keep s t) fn = uploadOf t fn := uploadOf_congr rfl fn

theorem uploadOf_dropUpload (s : State) (fn g : Nat) :
    uploadOf (dropUpload s fn) g = if g = fn then { uploadOf s fn with keySeed := none, encapsKey := [] } else uploadOf s g := by
  rw [uploadOf_congr (dropUpload_enclave s fn), uploadOf_setUpload]

/-! ### What keeps SE_STATUS -/

structure KeepsSeStatus (s t : State) : Prop where
  reads : getReg t 0 seStatus = getReg s 0 seStatus

theorem KeepsSeStatus.refl (s : State) : KeepsSeStatus s s := ⟨rfl⟩

theorem KeepsSeStatus.trans {s t u : State} (h : KeepsSeStatus s t) (k : KeepsSeStatus t u) : KeepsSeStatus s u := ⟨k.reads.trans h.reads⟩

theorem KeepsSeStatus.of_regs {s t : State} (h : t.regs = s.regs) : KeepsSeStatus s t := by
  refine ⟨?_⟩
  unfold getReg
  rw [if_neg (by decide), if_neg (by decide), h]

theorem KeepsSeStatus.fld {s t : State} (h : KeepsSeStatus s t) (lo len : Nat) : fld t seStatus lo len = fld s seStatus lo len :=
  congrArg (bits · lo len) h.reads

theorem KeepsSeStatus.enclaveState {s t : State} (h : KeepsSeStatus s t) : enclaveState t = enclaveState s := h.fld 0 3

theorem KeepsSeStatus.selftestBusy {s t : State} (h : KeepsSeStatus s t) : selftestBusy t = selftestBusy s := congrArg (· == 1) (h.fld 7 1)

theorem setSeFn_keepsSeStatus {off : Nat} (h : isPerFn (reg 3073 off) = true) (s : State) (fn v : Nat) : KeepsSeStatus s (setSeFn s fn off v) := by
  obtain ⟨f, hset⟩ := setReg_frame_fn h s fn v
  unfold setSeFn
  rw [hset]
  exact .of_regs rfl

theorem setUnwrapState_keepsSeStatus (s : State) (fn v : Nat) : KeepsSeStatus s (setUnwrapState s fn v) := by
  unfold setUnwrapState
  split
  · exact .refl s
  · have hset := setSeFn_keepsSeStatus (by decide : isPerFn (reg 3073 0x6C) = true) s fn (putBits (seFn s fn 0x6C) 0 3 v)
    have hflag : ∀ t w, KeepsSeStatus t (setHeader t fn 3073 0x10 w) := fun t w =>
      (setSeFn_keepsSeStatus (by decide) t fn w).trans ⟨getReg_pageEdges (by decide)⟩
    exact hset.trans (hflag ..)

theorem setUpload_keepsSeStatus (s : State) (fn : Nat) (v : Upload) : KeepsSeStatus s (setUpload s fn v) := .of_regs rfl

theorem keep_keepsSeStatus (s t : State) : KeepsSeStatus t (keep s t) := .of_regs rfl

theorem dropUpload_keepsSeStatus (s : State) (fn : Nat) : KeepsSeStatus s (dropUpload s fn) :=
  (setUpload_keepsSeStatus ..).trans (setSeFn_keepsSeStatus (by decide : isPerFn (reg 3073 0x54) = true) ..)

theorem setSessions_keepsSeStatus (s : State) (l : List Session) : KeepsSeStatus s (setSessions s l) :=
  ⟨getReg_setFld_ne (by decide) (by decide)⟩

/-! ### Keys go (R400, R405) -/

/-- The key pair of one function, where it has one. -/
def zeroiseUpload (s : State) (fn : Nat) : State := if (uploadOf s fn).keySeed.isSome then dropUpload s fn else s

/-- The keys that no function has of its own. -/
def zeroiseShared (s : State) : State :=
  let s := setSessions (zeroiseSealing s) []
  let s := if s.enclave.ideKeys.isEmpty then s else reportAer s 0 aerIde false
  { s with enclave := { s.enclave with identity := none, ideKeys := [] } }

theorem zeroiseAll_eq (s : State) : zeroiseAll s = (List.range 16).foldl zeroiseUpload (zeroiseShared s) := rfl

theorem zeroiseUpload_keepsSeStatus (s : State) (fn : Nat) : KeepsSeStatus s (zeroiseUpload s fn) := by
  unfold zeroiseUpload
  split
  · exact dropUpload_keepsSeStatus ..
  · exact .refl s

theorem zeroiseShared_row (s : State) : KeepsSeStatus s (zeroiseShared s) ∧ (zeroiseShared s).enclave.identity = none
    ∧ (zeroiseShared s).enclave.sessions = [] := by
  unfold zeroiseShared
  extract_lets s1 s2
  have h1 : KeepsSeStatus s s1 := .trans (t := zeroiseSealing s) (.of_regs rfl) (setSessions_keepsSeStatus ..)
  have hsessions : s1.enclave.sessions = [] := congrArg Enclave.sessions (setSessions_enclave ..)
  clear_value s1
  have h2 : KeepsSeStatus s1 s2 ∧ s2.enclave = s1.enclave := by
    unfold s2
    split
    · exact ⟨.refl s1, rfl⟩
    · exact ⟨.of_regs rfl, rfl⟩
  clear_value s2
  obtain ⟨h2, henclave⟩ := h2
  exact ⟨h1.trans (h2.trans (.of_regs rfl)), rfl, (congrArg Enclave.sessions henclave).trans hsessions⟩

theorem zeroiseUpload_keys (s : State) (fn : Nat) : (zeroiseUpload s fn).enclave.identity = s.enclave.identity
    ∧ (zeroiseUpload s fn).enclave.sessions = s.enclave.sessions := by
  unfold zeroiseUpload
  split
  · rw [dropUpload_enclave]
    exact ⟨rfl, rfl⟩
  · exact ⟨rfl, rfl⟩

theorem zeroiseUpload_same (s : State) (fn : Nat) : (uploadOf (zeroiseUpload s fn) fn).keySeed = none := by
  unfold zeroiseUpload
  split
  · rw [uploadOf_dropUpload, if_pos rfl]
  · next h => exact Option.not_isSome_iff_eq_none.1 h

theorem zeroiseUpload_none (s : State) (fn g : Nat) (h : (uploadOf s g).keySeed = none) : (uploadOf (zeroiseUpload s fn) g).keySeed = none := by
  by_cases hg : g = fn
  · rw [hg]
    exact zeroiseUpload_same ..
  · unfold zeroiseUpload
    split
    · rw [uploadOf_dropUpload, if_neg hg]
      exact h
    · exact h

theorem zeroiseAll_keepsSeStatus (s : State) : KeepsSeStatus s (zeroiseAll s) := by
  rw [zeroiseAll_eq]
  exact List.foldlRecOn _ zeroiseUpload (zeroiseShared_row s).1 (fun t ht fn _ => ht.trans (zeroiseUpload_keepsSeStatus t fn))

theorem zeroiseAll_keys (s : State) : (zeroiseAll s).enclave.identity = none ∧ (zeroiseAll s).enclave.sessions = []
    ∧ ∀ fn, fn < 16 → (uploadOf (zeroiseAll s) fn).keySeed = none := by
  rw [zeroiseAll_eq]
  have hshared : ((List.range 16).foldl zeroiseUpload (zeroiseShared s)).enclave.identity = none
      ∧ ((List.range 16).foldl zeroiseUpload (zeroiseShared s)).enclave.sessions = [] := by
    refine List.foldlRecOn (motive := fun t : State => t.enclave.identity = none ∧ t.enclave.sessions = []) _ _ (zeroiseShared_row s).2
      (fun t ht fn _ => ?_)
    obtain ⟨hidentity, hsessions⟩ := zeroiseUpload_keys t fn
    exact ⟨hidentity.trans ht.1, hsessions.trans ht.2⟩
  obtain ⟨hidentity, hsessions⟩ := hshared
  exact ⟨hidentity, hsessions, fun fn hfn =>
    foldl_establishes (P := fun t => (uploadOf t fn).keySeed = none) (fun t g => zeroiseUpload_none t g fn) (List.mem_range.2 hfn)
      (fun t => zeroiseUpload_same t fn) _⟩

/-- SELFTEST_BUSY stands beside the state. -/
theorem selftestBusy_leaveApproved (s : State) (st why : Nat) : selftestBusy (leaveApproved s st why) = selftestBusy s := by
  refine congrArg (· == 1) ?_
  have hset : fld (setFld s (reg 3072 0x40) 0 3 st) seStatus 7 1 = fld s seStatus 7 1 := fld_setFld_other (by decide) (by decide) (by decide)
  unfold leaveApproved
  split
  · rfl
  · dsimp only
    split
    · exact (fld_setFld_ne (by decide) (by decide)).trans hset
    · exact hset

theorem selftestBusy_enterError (s : State) (why : Nat) : selftestBusy (enterError s why) = selftestBusy s := by
  unfold enterError
  split
  · rfl
  · exact (zeroiseAll_keepsSeStatus _).selftestBusy.trans (selftestBusy_leaveApproved ..)

/-! ### Self-test on demand (R403) -/

/-- In ERROR an unwrap that was held ends at once. -/
theorem startUnwrap_keepsSeStatus {s : State} (h : enclaveState s = 3) (fn : Nat) : KeepsSeStatus s (startUnwrap s fn) := by
  rw [startUnwrap, if_pos (.inl h)]
  exact setUnwrapState_keepsSeStatus ..

theorem spdmOpen_error {s : State} (h : enclaveState s = 3) (t : Transport) (f : State → State) : spdmOpen s t f = replyError s t .refused :=
  if_pos (.inl h)

/-- In ERROR a request is answered or refused. -/
theorem spdmServe_keepsSeStatus {s : State} (h : enclaveState s = 3) (i : Instr) : KeepsSeStatus s (spdmServe s i) := by
  have hopen : ∀ t f, KeepsSeStatus s (spdmOpen s t f) := fun t f => by
    rw [spdmOpen_error h]
    exact .of_regs rfl
  unfold spdmServe
  split
  case h_1 => exact .of_regs rfl
  case h_5 =>
    rw [spdmGetMeasurements, if_pos (.inl h)]
    exact .of_regs rfl
  case h_11 => exact .refl s
  all_goals exact hopen ..

theorem foldl_keepsSeStatus {α : Type} {f : State → α → State} (hf : ∀ s a, enclaveState s = 3 → KeepsSeStatus s (f s a)) (l : List α) {s : State}
    (h : enclaveState s = 3) : KeepsSeStatus s (l.foldl f s) :=
  List.foldlRecOn l f (.refl s) (fun t ht a _ => ht.trans (hf t a (ht.enclaveState.trans h)))

theorem releaseHeld_keepsSeStatus {s : State} (h : enclaveState s = 3) : KeepsSeStatus s (releaseHeld s) := by
  unfold releaseHeld
  extract_lets s1 rs e s2
  have h1 : KeepsSeStatus s s1 := by
    refine foldl_keepsSeStatus (fun t fn ht => ?_) _ h
    split
    · have hset := setUpload_keepsSeStatus t fn { uploadOf t fn with heldGo := false }
      exact hset.trans (startUnwrap_keepsSeStatus (hset.enclaveState.trans ht) fn)
    · exact .refl t
  clear_value s1
  have h2 : KeepsSeStatus s s2 := h1.trans (.of_regs rfl)
  clear_value s2
  exact h2.trans (foldl_keepsSeStatus (fun t i ht => spdmServe_keepsSeStatus ht i) _ (h2.enclaveState.trans h))

section Rows
variable {s : State}

theorem seSelftest_row (hs : Answers s 0) (hserves : enclaveServes s = true) : exec (.seSelftest 0) s = .next (setFld s seStatus 7 1 1) := by
  have hon : seSelftestOn 0 s = setFld s seStatus 7 1 1 := if_neg (by simp [hserves])
  refine (onBar0_eq hs).trans ?_
  rw [hon, (setFld_only ..).keep]

theorem seSelftestDoneOn_eq (hbusy : selftestBusy s = true) (n : Nat) : seSelftestDoneOn n s =
    releaseHeld (if n % 256 = 0 then setFld s seStatus 7 1 0 else enterError (setFld (setFld s seStatus 7 1 0) seStatus 8 8 n) 3) :=
  if_neg (by simp [hbusy])

theorem seSelftestDone_passed (hbusy : selftestBusy s = true) :
    exec (.seSelftestDone 0) s = .next (keep s (releaseHeld (setFld s seStatus 7 1 0))) :=
  congrArg (fun t => Host.Outcome.next (keep s t)) ((seSelftestDoneOn_eq hbusy 0).trans (congrArg releaseHeld (if_pos rfl)))

/-- The first test that failed is named, and what was held meets ERROR. -/
theorem seSelftestDone_failed (hbusy : selftestBusy s = true) {n : Nat} (hn : n % 256 ≠ 0) :
    ∃ t, exec (.seSelftestDone n) s = .next t ∧ enclaveState t = 3 ∧ selftestBusy t = false := by
  have hstatus : isPerFn seStatus = false := by decide
  have hidle : selftestBusy (setFld (setFld s seStatus 7 1 0) seStatus 8 8 n) = false :=
    congrArg (· == 1) ((fld_setFld_other hstatus (by decide) (by decide)).trans (fld_setFld hstatus (by decide)))
  have hon := seSelftestDoneOn_eq hbusy n
  rw [if_neg hn] at hon
  generalize setFld (setFld s seStatus 7 1 0) seStatus 8 8 n = v at hon hidle
  obtain ⟨-, herror⟩ := enterError_row v 3
  have hended := (selftestBusy_enterError v 3).trans hidle
  generalize enterError v 3 = u at hon herror hended
  have hrel := (releaseHeld_keepsSeStatus herror).trans (keep_keepsSeStatus s (releaseHeld u))
  exact ⟨_, congrArg (fun t => Host.Outcome.next (keep s t)) hon, hrel.enclaveState.trans herror, hrel.selftestBusy.trans hended⟩

/-! ### Commits (R396) -/

theorem showVersions_frame (s : State) : ∃ r, showVersions s = { s with regs := r } := by
  unfold showVersions
  extract_lets f u
  obtain ⟨r, hu⟩ := setReg_frame (by decide : isPerFn (reg 3072 0x4C) = false) s 0
    ((bootedSlot s).svn % 256 + 2 ^ 8 * (f.fwMin % 256) + 2 ^ 16 * (f.cfgSvn % 256) + 2 ^ 24 * (f.cfgMin % 256))
  have hframe : u = { s with regs := r } := hu
  clear_value u
  subst hframe
  exact setReg_frame (by decide : isPerFn (reg 3072 0x50) = false) _ 0 _

theorem commit_row (hs : Answers s 0) (hserves : enclaveServes s = true) : ∃ t, exec (.commit 0 false) s = .next t
    ∧ t.flash.fwMin = max s.flash.fwMin (bootedSlot s).svn ∧ t.flash.cfgMin = max s.flash.cfgMin s.flash.cfgSvn
    ∧ t.flash.manifestMin = max s.flash.manifestMin s.flash.manifestSvn ∧ t = { s with flash := t.flash, regs := t.regs } := by
  have hon : commitOn 0 s = commitMins s := if_pos ⟨rfl, hserves⟩
  refine ⟨_, onBar0_eq hs, ?_⟩
  rw [hon, commitMins]
  obtain ⟨r, h⟩ := showVersions_frame { s with flash := { s.flash with
    fwMin := max s.flash.fwMin (bootedSlot s).svn, cfgMin := max s.flash.cfgMin s.flash.cfgSvn
    manifestMin := max s.flash.manifestMin s.flash.manifestSvn } }
  rw [h]
  exact ⟨rfl, rfl, rfl, rfl⟩

theorem commit_asked {fn : Nat} (hfn : fn < 16) (ha : awake s = true) (hserves : enclaveServes s = true) :
    exec (.commit fn true) s = .next (keep s (commitMins s)) := by
  refine (onFn_eq hfn).trans (congrArg (fun t => Host.Outcome.next (keep s t)) ?_)
  rw [if_pos ha, commitOn, if_pos ⟨rfl, hserves⟩]

/-! ### Upload keys (R408) -/

theorem generate_row {fn : Nat} (hs : Answers s fn) (hunwrap : unwrapState s (seView s fn) ≠ 1) (hupload : uploadState s (seView s fn) ≠ 1) :
    ∃ t, exec (.generate fn) s = .next t ∧ uploadState t (seView s fn) = (if approved s then 1 else 3) ∧ t = { s with fnRegs := t.fnRegs } := by
  have hon : generateOn fn s = setUploadState s (seView s fn) (if approved s then 1 else 3) := if_neg (not_or.2 ⟨hunwrap, hupload⟩)
  have hstate := uploadState_setUploadState s (seView s fn) (v := if approved s then 1 else 3) (by split <;> decide)
  obtain ⟨f, hframe⟩ := setUploadState_frame s (seView s fn) (if approved s then 1 else 3)
  generalize setUploadState s (seView s fn) (if approved s then 1 else 3) = u at hon hstate hframe
  refine ⟨keep s u, (onBar0_eq hs).trans (congrArg (fun t => Host.Outcome.next (keep s t)) hon), (uploadState_keep ..).trans hstate, ?_⟩
  rw [hframe]
  rfl

/-- The seed is a draw of the generator; STATE and the count of the pairs stand in one register. -/
theorem uploadKeyReady_made {fn : Nat} (hfn : fn < 16) (hupload : uploadState s fn = 1) (happroved : approved s = true)
    (hbuffer : inPartition s fn (dec64 s fn 0x48) 1184 = true) : ∃ t, exec (.uploadKeyReady fn true) s = .next t ∧ uploadState t fn = 2
      ∧ (uploadOf t fn).keySeed = some (Config.drbg (s.enclave.drbgSeed.getD 0) s.enclave.drbgCount)
      ∧ bits (seFn t fn 0x54) 2 16 = (bits (seFn s fn 0x54) 2 16 + 1) % 2 ^ 16 := by
  have hseed := drawDrbg_fst s
  have hdraw := (drawDrbg_reseeds s).status
  refine ⟨_, onFn_eq hfn, ?_⟩
  rw [uploadKeyReadyOn, if_neg (fun h => h hupload), happroved, if_neg (by decide), if_neg (by decide), hbuffer, if_neg (by decide)]
  generalize drawDrbg s = x at hseed hdraw
  obtain ⟨seed, u⟩ := x
  dsimp -zeta only
  extract_lets ek u1 e u2 g
  have h1 : KeepsUploadStatus s u1 := hdraw.trans (writeDev_keepsUploadStatus ..)
  clear_value u1
  have h2 : seFn u2 fn 0x54 = seFn s fn 0x54 := h1.reads fn _ (by decide)
  have hkey : (uploadOf u2 fn).keySeed = some seed := by
    unfold u2
    rw [uploadOf_setUpload, if_pos rfl]
  clear_value u2
  have hcount := seFn_setSeFn_putBits u2 fn g (by decide : 2 + 16 ≤ 32)
  have hsame : (setSeFn u2 fn 0x54 (putBits (seFn u2 fn 0x54) 2 16 g)).enclave = u2.enclave := (setReg_only ..).memory.enclave
  generalize setSeFn u2 fn 0x54 (putBits (seFn u2 fn 0x54) 2 16 g) = u3 at hcount hsame
  refine ⟨(uploadState_keep ..).trans (uploadState_setUploadState u3 fn (by decide)), ?_, ?_⟩
  · rw [uploadOf_keep, uploadOf_congr ((setUploadState_enclave u3 fn 2).trans hsame), hkey]
    exact congrArg some hseed
  · rw [seFn_keep, seFn_setUploadState, bits_putBits_other _ _ _ _ _ _ (by decide), hcount, bits_putBits_same]
    unfold g
    rw [h2]

theorem uploadKeyReady_failed {fn : Nat} (hfn : fn < 16) (hupload : uploadState s fn = 1) (happroved : approved s = true) :
    ∃ t, exec (.uploadKeyReady fn false) s = .next t ∧ enclaveState t = 3 := by
  refine ⟨_, onFn_eq hfn, ?_⟩
  rw [uploadKeyReadyOn, if_neg (fun h => h hupload), happroved, if_neg (by decide), if_pos rfl]
  exact (enterError_row ..).2

theorem discard_row {fn : Nat} (hs : Answers s fn) (hunwrap : unwrapState s (seView s fn) ≠ 1) : ∃ t, exec (.discard fn) s = .next t
    ∧ (uploadOf t (seView s fn)).keySeed = none ∧ uploadState t (seView s fn) = 0 ∧ t = { s with enclave := t.enclave, fnRegs := t.fnRegs } := by
  have hon : discardOn fn s = dropUpload s (seView s fn) := if_neg hunwrap
  have hupload := uploadOf_dropUpload s (seView s fn) (seView s fn)
  rw [if_pos rfl] at hupload
  have hstate : uploadState (dropUpload s (seView s fn)) (seView s fn) = 0 := uploadState_setUploadState _ _ (by decide)
  obtain ⟨f, hframe⟩ := setUploadState_frame
    (setUpload s (seView s fn) { uploadOf s (seView s fn) with keySeed := none, encapsKey := [] }) (seView s fn) 0
  replace hframe : dropUpload s (seView s fn) = _ := hframe
  generalize dropUpload s (seView s fn) = u at hon hupload hstate hframe
  refine ⟨keep s u, (onBar0_eq hs).trans (congrArg (fun t => Host.Outcome.next (keep s t)) hon), congrArg Upload.keySeed ((uploadOf_keep ..).trans hupload),
    (uploadState_keep ..).trans hstate, ?_⟩
  rw [hframe]
  rfl

/-! ### Unwraps (R409, R410) -/

theorem exec_go {fn : Nat} (hs : Answers s fn) (hunwrap : unwrapState s (seView s fn) ≠ 1) (hheld : (uploadOf s (seView s fn)).heldGo = false) :
    exec (.go fn) s = .next (keep s (if selftestBusy s then setUpload s (seView s fn) { uploadOf s (seView s fn) with heldGo := true }
      else startUnwrap s (seView s fn))) :=
  (onBar0_eq hs).trans (congrArg (fun t => Host.Outcome.next (keep s t)) (if_neg (not_or.2 ⟨hunwrap, by simp [hheld]⟩)))

theorem go_held {fn : Nat} (hs : Answers s fn) (hunwrap : unwrapState s (seView s fn) ≠ 1) (hheld : (uploadOf s (seView s fn)).heldGo = false)
    (hbusy : selftestBusy s = true) : exec (.go fn) s = .next (setUpload s (seView s fn) { uploadOf s (seView s fn) with heldGo := true }) := by
  rw [exec_go hs hunwrap hheld, if_pos hbusy]
  rfl

theorem go_starts {fn : Nat} (hs : Answers s fn) (hunwrap : unwrapState s (seView s fn) ≠ 1) (hheld : (uploadOf s (seView s fn)).heldGo = false)
    (hidle : selftestBusy s = false) : exec (.go fn) s = .next (keep s (startUnwrap s (seView s fn))) := by
  rw [exec_go hs hunwrap hheld, hidle, if_neg (by decide)]

section Unwrap
variable {fn : Nat} {hd pkg : List Byte} {bad : List Nat} {u v : State} {seed : BitVec 256} (hfn : fn < 16) (hunwrap : unwrapState s fn = 1)
  (hkey : (uploadOf s fn).keySeed = some seed) (hhead : readDev s fn (uploadOf s fn).src 16 = (hd, bad, u))
  (hbody : readDev u fn (uploadOf s fn).src (0x490 + leAt hd 8 8) = (pkg, [], v))
include hfn hunwrap hkey hhead hbody

/-- What stands at DST is the plaintext, or zeros. -/
theorem exec_unwrapDone : exec (.unwrapDone fn) s = .next (keep s ((openPackage fn seed pkg (leAt hd 8 8) []).elim
    (setUnwrapState (writeDev v fn (uploadOf s fn).dst (List.replicate (leAt hd 8 8) 0)) fn 3)
    (fun p => setUnwrapState (writeDev v fn (uploadOf s fn).dst (fitBytes (leAt hd 8 8) p)) fn 2))) := by
  refine (onFn_eq hfn).trans (congrArg (fun t => Host.Outcome.next (keep s t)) ?_)
  rw [unwrapDoneOn, if_neg (fun h => h hunwrap)]
  dsimp only
  rw [hhead]
  dsimp only
  rw [hkey]
  dsimp only
  rw [hbody]
  dsimp only
  cases openPackage fn seed pkg (leAt hd 8 8) [] <;> rfl

end Unwrap

/-! ### Debug unlock (R405) -/

theorem present_row {b : List Byte} {bad : List Nat} {u : State} (hs : Answers s 0)
    (hread : readDev s 0 (get64 s (reg 3074 0x60)) tokenBytes = (b, bad, u)) : exec (.present 0 none) s = .next (keep s (takeToken u b)) := by
  refine (onBar0_eq hs).trans (congrArg (fun t => Host.Outcome.next (keep s t)) ?_)
  rw [presentOn, if_neg (fun h => h rfl), hread]

theorem keep_takeToken (s : State) (b : List Byte) : keep s (takeToken s b) = takeToken s b := by
  unfold takeToken
  split
  · exact keep_self s
  · obtain ⟨r, h⟩ := setFld_frame (by decide : isPerFn dbgStatus = false)
      { s with enclave := { s.enclave with token := b, heldToken := selftestBusy s } } 0 2 1
    rw [h]
    rfl

theorem present_mctp {fn : Nat} {b : List Byte} (hfn : fn < 16) (ha : awake s = true) : exec (.present fn (some b)) s = .next (takeToken s b) := by
  refine (onFn_eq hfn).trans ?_
  rw [if_pos ha, keep_takeToken]

/-- The fields of the status registers that a debug unlock sets, and the level that it grants. -/
def granted (s : State) (n : Nat) : State :=
  let s := setFld (setFld (setFld s seStatus 3 1 1) dbgStatus 0 2 2) dbgStatus 2 2 n
  { s with enclave := { s.enclave with debugLevel := n } }

theorem granted_row (s : State) (n : Nat) : dbgState (granted s n) = 2 ∧ debugOpen (granted s n) = true
    ∧ (granted s n).enclave = { s.enclave with debugLevel := n } := by
  have hdbg : isPerFn dbgStatus = false := by decide
  unfold granted
  extract_lets t
  have hlevel : dbgState t = 2 := (fld_setFld_other hdbg (by decide) (by decide)).trans (fld_setFld hdbg (by decide))
  have hopen : debugOpen t = true := congrArg (· == 1) ((fld_setFld_ne hdbg (by decide : seStatus ≠ dbgStatus)).trans
    ((fld_setFld_ne hdbg (by decide)).trans (fld_setFld (by decide) (by decide))))
  have henclave : t.enclave = s.enclave := ((setFld_only ..).trans ((setFld_only ..).trans (setFld_only ..))).memory.enclave
  clear_value t
  exact ⟨hlevel, hopen, congrArg (fun e : Enclave => { e with debugLevel := n }) henclave⟩

section Token
variable (hstate : dbgState s = 1) (hidle : selftestBusy s = false)
include hstate hidle

theorem tokenUnchecked_not : ¬ (dbgState s ≠ 1 ∨ selftestBusy s = true) := by
  rw [hidle]
  rintro (h | h)
  · exact h hstate
  · exact absurd h (by decide)

/-- Debug opens at the level that the token grants, with every key gone. -/
theorem unlockTokenChecked_opens {n : Nat} (htoken : tokenLevel s = some n) : ∃ t, exec .unlockTokenChecked s = .next t ∧ dbgState t = 2
    ∧ debugOpen t = true ∧ t.enclave.debugLevel = n ∧ t.enclave.identity = none ∧ t.enclave.sessions = []
    ∧ ∀ fn, fn < 16 → (uploadOf t fn).keySeed = none := by
  have hon : unlockTokenCheckedOn s = granted (zeroiseAll (leaveApproved s 2 1)) n := by
    rw [unlockTokenCheckedOn, if_neg (tokenUnchecked_not hstate hidle), htoken]
    rfl
  obtain ⟨hidentity, hsessions, hkeys⟩ := zeroiseAll_keys (leaveApproved s 2 1)
  generalize zeroiseAll (leaveApproved s 2 1) = z at hon hidentity hsessions hkeys
  obtain ⟨hlevel, hopen, henclave⟩ := granted_row z n
  generalize granted z n = u at hon hlevel hopen henclave
  refine ⟨keep s u, congrArg (fun t => Host.Outcome.next (keep s t)) hon, hlevel, hopen, congrArg Enclave.debugLevel henclave,
    (congrArg Enclave.identity henclave).trans hidentity, (congrArg Enclave.sessions henclave).trans hsessions, fun fn hfn => ?_⟩
  have hupload : uploadOf u fn = uploadOf z fn := by
    unfold uploadOf
    rw [henclave]
  rw [uploadOf_keep, hupload]
  exact hkeys fn hfn

theorem unlockTokenChecked_rejects (htoken : tokenLevel s = none) : exec .unlockTokenChecked s = .next (setFld s dbgStatus 0 2 3) := by
  have hon : unlockTokenCheckedOn s = setFld s dbgStatus 0 2 3 := by
    rw [unlockTokenCheckedOn, if_neg (tokenUnchecked_not hstate hidle), htoken]
  refine (congrArg (fun t => Host.Outcome.next (keep s t)) hon).trans ?_
  rw [(setFld_only ..).keep]

end Token

end Rows

/-- Settles O56: each service by what it leaves, with the opaque primitives of Config as they stand. -/
theorem enclaveRows : Obligations.EnclaveRows := by
  unfold Obligations.EnclaveRows
  intro s
  refine ⟨seSelftest_row, seSelftestDone_passed, fun _ hbusy => seSelftestDone_failed hbusy, commit_row, fun _ => commit_asked, fun _ => generate_row,
    fun _ hfn hupload happroved hbuffer => ⟨uploadKeyReady_made hfn hupload happroved hbuffer, uploadKeyReady_failed hfn hupload happroved⟩,
    fun _ => discard_row, fun _ hs hunwrap hheld => ⟨go_held hs hunwrap hheld, go_starts hs hunwrap hheld⟩, ?_, fun _ _ _ => present_row,
    fun _ _ => present_mctp, fun _ hstate hidle => unlockTokenChecked_opens hstate hidle, unlockTokenChecked_rejects⟩
  intro fn hd bad u seed pkg v hfn hunwrap hkey hhead hbody
  have hexec := exec_unwrapDone hfn hunwrap hkey hhead hbody
  constructor
  · intro p hp
    rw [hexec, hp]
    rfl
  · intro hp
    rw [hexec, hp]
    rfl

end Sys2Proof.Machine
